-- ==== Sys2Proof/Word.lean ====
section
/-!
DEFINITION. The word types of the EVD160 registers, wires and times.
-/
namespace Sys2Proof

/-- One byte of host memory, of a frame or of a stored image. -/
abbrev Byte := BitVec 8

/-- A 16-bit field. -/
abbrev Half := BitVec 16

/-- A 32-bit register (R10: registers are 32 bits wide). -/
abbrev Word := BitVec 32

/-- A 64-bit register pair, sequence number or series (R336, R327). -/
abbrev Quad := BitVec 64

/-- An instant or a duration of the timebase in whole 156.25 ps steps (R84, R85). Negative only before
timebase 0 s (R344). -/
abbrev Time := Int

/-- A binary32 value by its bit pattern (R112). -/
abbrev F32 := BitVec 32

/-- A MAC address. -/
abbrev Mac := BitVec 48

end Sys2Proof
end

