-- ==== Sys2Proof/Syntax.lean ====
section
/-!
DEFINITION. The commands of the EVD160: one constructor of Instr for each row of spec/opcode_table.json, with the
operands that its rule lets the outside decide (what host software writes, what arrives on a wire or a pin, what the
silicon or a storage device answers, the instant at which it happens). What a rule lets the engine decide is no operand.
-/
namespace Sys2Proof

/-- The two host views (R318): PF0 privileged, PF1 unprivileged. -/
inductive View where
  | pf0
  | pf1
  deriving DecidableEq, Repr

/-- What host software writes into a slot before it rings the doorbell (R330, R333), and the bytes it has put into
the host buffer that the payload's descriptor names (R339). -/
structure Submit where
  view : View
  slot : Nat
  flags : Half
  hostSeq : Quad
  len : Half
  payload : List Byte
  buffer : List Byte
  deriving DecidableEq, Repr

/-- One finished conversion of a converter slice (R40, R42): the slice, its aperture instant, its raw code. -/
structure Conversion where
  slice : Nat
  aperture : Time
  code : Int
  deriving DecidableEq, Repr

/-- One ASDU of a sampled-value frame (R64, R67): smpRate where present, the data-set length in bytes, and the
channels as received, value and quality word. -/
structure Asdu where
  svId : List Byte
  smpCnt : Nat
  confRev : Word
  smpSynch : Nat
  smpRate : Option Nat
  dataLen : Nat
  data : List (Word × Word)
  deriving DecidableEq, Repr

/-- One member of a GOOSE data set: TYPE as in R349, the value as 32 bits, the quality of a Quality member. -/
structure GooseMember where
  type : Nat
  value : Word
  quality : Half
  deriving DecidableEq, Repr

/-- A GOOSE message (R76, R77): TAL in ms. -/
structure GooseMsg where
  gocbRef : List Byte
  datSet : List Byte
  confRev : Word
  ndsCom : Bool
  simulation : Bool
  talMs : Nat
  stNum : Word
  sqNum : Word
  members : List GooseMember
  deriving DecidableEq, Repr

/-- The set of one sheaf in a line-differential frame, as received (R159): the validity code, OVF, TEST, the six
component fields (N in a key set, the delta otherwise), the three charging magnitudes. -/
structure LdfSet where
  validity : BitVec 2
  ovf : Bool
  test : Bool
  comps : List Int
  charging : List Nat
  deriving DecidableEq, Repr

/-- An echo block of a line-differential frame (R158). -/
structure LdfEcho where
  remTerm : Nat
  echoSeq : Nat
  holdNs : Nat
  delayNs : Nat
  deriving DecidableEq, Repr

/-- The payload of a line-differential frame (R158). -/
structure LdfMsg where
  ver : Nat
  key : Bool
  timed : Bool
  timeValid : Bool
  prevBad : Bool
  fps : Nat
  bound : Nat
  linkId : Nat
  three : Bool
  term : Nat
  frameSeq : Nat
  sheafLow : Nat
  txOfsNs : Nat
  echoes : List LdfEcho
  ifs : F32
  sets : List LdfSet
  deriving DecidableEq, Repr

/-- What a frame on a process-bus port carries. acts: the PTP message is a Sync, a Follow_Up, an Announce, a Pdelay_Req or
the last message of a peer-delay exchange, and not one that the engine ignores or only gathers (R97). -/
inductive Body where
  | sv (asdus : List Asdu)
  | goose (msg : GooseMsg)
  | ptp (acts : Bool)
  | ldf (msg : LdfMsg)
  | prpSupervision
  | other
  deriving DecidableEq, Repr

/-- A frame at a port (R61): the bytes from destination address to FCS, the tags it carries, VLAN 0 for untagged or
priority-tagged, the redundancy control trailer (sequence number, LanId), the instant of its last bit, the instant its
first bit after the start-of-frame delimiter crossed the ball (R100). -/
structure Frame where
  port : Nat
  len : Nat
  fcsOk : Bool
  symbolError : Bool
  tags : Nat
  vlan : Nat
  dst : Mac
  src : Mac
  etherType : Half
  appid : Nat
  trailer : Option (Nat × Nat)
  tArr : Time
  tSfd : Time
  body : Body
  deriving DecidableEq, Repr

/-- A PTP event or general message (R97): the ball stamp of R100, an origin or received time and a correction in units
of 2^-16 ns, logMessageInterval. -/
structure PtpMsg where
  port : Nat
  domain : Nat
  srcIdentity : Quad
  seqId : Nat
  stamp : Time
  origin : Int
  correction : Int
  twoStep : Bool
  logInterval : Int
  deriving DecidableEq, Repr

/-- The content of an Announce message that best-master selection and TIME_STATUS use (R98, R345), logMessageInterval, and
what R97 has its TLVs tell: totalTimeInaccuracy and grandmasterID of IEEE_C37_238, the octets of
ALTERNATE_TIME_OFFSET_INDICATOR. -/
structure Announce where
  port : Nat
  domain : Nat
  srcIdentity : Quad
  srcPort : Nat
  stamp : Time
  grandmaster : Quad
  priority1 : Nat
  clockClass : Nat
  accuracy : Nat
  variance : Nat
  priority2 : Nat
  stepsRemoved : Nat
  utcOffset : Int
  utcValid : Bool
  powerTlv : Option Nat
  tlvGrandmaster : Nat
  altOffset : List Byte
  logInterval : Int
  deriving DecidableEq, Repr

/-- A Pdelay_Resp and its follow-up (R97, R100): our request's egress ball stamp t1, the partner's t2 and t3 in
2^-16 ns, the ingress ball stamp t4, the correction total. valid: the exchange is complete and consistent. -/
structure PdelayResp where
  port : Nat
  seqId : Nat
  t1 : Time
  t2 : Int
  t3 : Int
  t4 : Time
  correction : Int
  valid : Bool
  deriving DecidableEq, Repr

/-- The edge instants seen on one interlock input in the 128 µs before a boundary, oldest first (R299). -/
structure IlkInputs where
  ilkA : List Time
  ilkB : List Time
  hlth : List Time
  deriving DecidableEq, Repr

/-- A captured copy of the epoch items of R295: retained points (index, value, quality), parameters (index, value),
forces (kind in bit 17 of the point key, value), auto-reclose (instance, state code, shots), GOOSE (control block,
stNum, sqNum), the next record number and the PF0 journal position. -/
structure EpochCopy where
  epoch : Nat
  retained : List (Nat × Word × Half)
  params : List (Nat × Word)
  forces : List (Nat × Word)
  reclose : List (Nat × Nat × Nat)
  goose : List (Nat × Word × Word)
  nextRecord : Nat
  pf0NextSeq : Quad
  deriving DecidableEq, Repr

/-- What the partner tells of itself with an epoch marker, for the in-step check of R292: its identities, generation,
L_pipe, digests, the sheaf it committed and the boundary offset measured over the link in ns. -/
structure PartnerInfo where
  engineId : Nat
  partnerId : Nat
  pairId : Nat
  prefer : Bool
  bg : Nat
  lpipe : Nat
  packageDigest : BitVec 384
  programDigest : BitVec 384
  sheaf : Nat
  boundaryOffsetNs : Int
  deriving DecidableEq, Repr

/-- The standby's acknowledgement of an epoch's marker (R301), with what it tells of itself (R292). -/
structure EpochAck where
  epoch : Nat
  partner : PartnerInfo
  deriving DecidableEq, Repr

/-- The slot whose command ends, and for INSTALL_FW the mirrors in which a block failed twice (R385). -/
structure Ended where
  slot : Nat
  failA : Bool
  failB : Bool
  deriving DecidableEq, Repr

/-- A run of a cold-start test that aborted (R312, R313): its target word, the cause, whether its rerun aborted too. -/
structure ColdAbort where
  target : Word
  cause : Nat
  twice : Bool
  deriving DecidableEq, Repr

/-- The measured values of a scan or memory test (R305) and the run's duration. -/
structure BistValues where
  misr : Quad
  patterns : Word
  endToken : Word
  durationUs : Nat
  deriving DecidableEq, Repr

/-- What a start of the hardware finds outside the die: NOR mirrors and eMMC usable, DDR bytes, the self-test results
(failed lanes, failed slices, other failed targets), the firmware slots that pass the boot ROM, the codes that
slices 0 to 67 read at the four calibration points of R53: the sum and the number of each; the numbers of the Tally entries that
stand whole in one mirror only; the digest checks of the configuration copy and, at a warm restart, of the copy in DDR; the
mirrors that hold the valid mark of a journal record that was being programmed (R360); TEST_EN at a power-up; the tests whose
first run aborted; the records on eMMC whose seal fails its check (R262). -/
structure StartFindings where
  norA : Bool
  norB : Bool
  emmc : Bool
  ddrBytes : Nat
  failedLanes : List Nat
  failedSlices : List Nat
  failedBlocks : List Nat
  slotPasses : List Bool
  slotFailedCheck : List Nat
  calibration : List (List (Int × Nat))
  tallyPartials : List Nat
  configDigestOk : Bool
  ddrDigestOk : Bool
  journalA : Bool
  journalB : Bool
  testEn : Bool
  aborts : List ColdAbort
  badSeals : List Nat
  deriving DecidableEq, Repr

/-- A port and an instant. -/
structure PortInstant where
  port : Nat
  at' : Time
  deriving DecidableEq, Repr

/-- The fields of a fatal error that the firmware names (R404): code, program counter, fault address, status word. -/
structure FaultItems where
  code : Quad
  pc : Quad
  addr : Quad
  status : Quad
  deriving DecidableEq, Repr

/-- A completion as one engine of a pair tells it to the other (R294, R337): status, CFLAGS, result bytes. -/
structure PairDone where
  status : Half
  cflags : Half
  result : List Byte
  deriving DecidableEq, Repr

/-- The commands, in the order of spec/opcode_table.json. -/
inductive Instr where
  | getInfo (c : Submit)
  | getCerts (c : Submit)
  | stageSettings (c : Submit)
  | commitAtSheaf (c : Submit)
  | selectGroup (c : Submit)
  | setLpipe (c : Submit)
  | loadProgram (c : Submit)
  | paramWrite (c : Submit)
  | force (c : Submit)
  | unforce (c : Submit)
  | restartLogic (c : Submit)
  | listRecords (c : Submit)
  | fetchRecord (c : Submit)
  | releaseRecord (c : Submit)
  | manualTrigger (c : Submit)
  | fetchTally (c : Submit)
  | configSnapsets (c : Submit)
  | timeConfig (c : Submit)
  | timeStatus (c : Submit)
  | pairConfig (c : Submit)
  | swapRoles (c : Submit)
  | runBist (c : Submit)
  | spotConvert (c : Submit)
  | calStatus (c : Submit)
  | installFw (c : Submit)
  | activateFw (c : Submit)
  | attest (c : Submit)
  | setOwnerKey (c : Submit)
  | requireSignedSettings (c : Submit)
  | fetchDump (c : Submit)
  /-- The mirrors whose record failed its write-verify twice (R279). -/
  | commandAcceptance (view : View) (slot : Nat) (failA failB : Bool)
  /-- boundary: the sheaf at which both engines count the command as accepted (R294: the effect falls on the same
  boundary); done: the token holder's completion of the command, none where the command itself arrives. -/
  | pairCommandMirror (c : Submit) (opcode : Half) (engineSeq : Quad) (boundary : Nat) (done : Option PairDone)
  | pairAckTimeout (slot : Nat)
  | rlLowRead (view : View) (offset : Nat)
  | tbNowNsRead (view : View) (at' : Time)
  | snapshotRequest (view : View) (value : Word)
  | snapshotCopyComplete (view : View)
  | stickyW1cWrite (view : View) (reg : Nat) (value : Word)
  | mbxCplTailWrite (view : View) (value : Word)
  | msixUnmask (view : View) (vector : Nat)
  /-- size: the bytes written (R317). -/
  | registerWrite (view : View) (offset : Nat) (size : Nat) (value : Word)
  | functionLevelReset (view : View)
  | perstNAssert
  | pcieLinkDown
  | d3hotEntry (view : View)
  | d0Return (view : View)
  | busMasterEnableClear (view : View)
  /-- The conversions that finished since the last close deadline, oldest first for each slice. -/
  | closeDeadline (convs : List Conversion)
  /-- agrees: the spare's words equal the serving lane's bit for bit (R285), read only for the spare. -/
  | laneEvaluationDone (lane : Nat) (agrees : Bool)
  /-- The known-answer results where R286 asks for them: the suspects whose test fails, and whether the spare's passes. -/
  | commitInstant (inputs : IlkInputs) (katFailed : List Nat) (katSpare : Bool)
  /-- The delay of the flip's completion after C_k in ns. -/
  | flipComplete (delayNs : Nat)
  | commitFailure (delayNs : Nat)
  /-- The wire and the instant of the edge: E of R217 for the last commit. -/
  | tripWireStartStop (wire : Nat) (edge : Time)
  | readbackWindowEnd (wire : Nat) (edges : Nat)
  | laneKnownAnswerTest (lane : Nat) (endToken : Word) (digest : Quad) (words : Nat)
  | sliceStall (slice : Nat) (at' : Time)
  | gleanerCalibrationResult (group : Nat) (at' : Time)
  | overlapCompare (group : Nat) (at' : Time)
  | vanaDipStart (at' : Time)
  | vanaDipEnd (at' : Time)
  /-- The raw level of input n has differed from its debounced value from sub-sample since to m. -/
  | biDebounceChange (n : Nat) (since m : Nat)
  | biPairDiscrepancy (p : Nat) (m : Nat)
  | biPairRecovery (p : Nat) (m : Nat)
  | definiteTimeOperate (zone slot : Nat)
  | resetDelayExpiry (zone slot : Nat)
  | inverseTimeOperate (zone slot : Nat)
  | autoRecloseTimerExpiry (zone slot : Nat)
  | logicTimerExpiry (timer : Nat)
  | thresherTimerExpiry (program timer : Nat)
  | maskViolation (program mask : Nat) (m : Nat)
  | tenonSealInExpiry (zone : Nat)
  | backstopDelayExpiry (zone : Nat)
  | portFrameRx (f : Frame)
  | svFrame (f : Frame)
  | svStreamLost (stream : Nat)
  | gooseFrame (f : Frame)
  | gooseTalExpiry (entry : Nat)
  | gooseRetransmit (block : Nat)
  | prpSupervisionTx (port : Nat)
  | prpNodeExpiry (port : Nat) (src : Mac) (at' : Time)
  | prpLanDown (port : Nat) (src : Mac) (at' : Time)
  | portLinkChange (port : Nat) (up : Bool)
  /-- achieved: the instant the first bit after the frame's start-of-frame delimiter crossed the ball; occupied: an earlier
  timed frame held the port. -/
  | timedLaunch (port : Nat) (achieved : Time) (occupied : Bool)
  | syncRx (m : PtpMsg)
  | followUpRx (m : PtpMsg)
  | announceRx (a : Announce)
  | pdelayReqRx (m : PtpMsg)
  | pdelayRespRx (r : PdelayResp)
  | pdelayReqTx (port : Nat) (at' : Time)
  | announceReceiptTimeout (p : PortInstant)
  | syncLoss (at' : Time)
  | holdoverExpiry (at' : Time)
  | ppsInEdge (stamp : Time)
  | ppsInLoss (at' : Time)
  | ppsOutPulse (rising : Bool) (at' : Time)
  | tcxoFail
  | ldfFrameRx (f : Frame)
  | ldfChannelLoss (descriptor terminal : Nat) (at' : Time)
  | ldfHoldoffEnd (descriptor : Nat) (at' : Time)
  | ldfAlignTimeout (descriptor : Nat)
  | dovetailSampleRx (port : Nat) (srcEngine srcSlot : Nat) (m : Nat) (value : Int) (quality : Word)
  | crossTriggerRx (port : Nat) (srcEngine program : Nat) (m : Nat)
  | epochCopyRx (copy : EpochCopy) (partner : PartnerInfo)
  | swapNoticeRx (boundary : Nat)
  | dovetailLinkChange (port : Nat) (up : Bool)
  | releaseClaim (inputs : IlkInputs)
  | absenceClaim (inputs : IlkInputs)
  | ilkLineFault (inputs : IlkInputs)
  | roleSwapDue
  | roleSwapFail (inputs : IlkInputs) (at' : Time)
  | bistRunEnd (v : BistValues)
  | bistRerun (at' : Time)
  | secretsRederived
  | tallyEntryWritten (failA failB : Bool)
  | retainedBatchWritten
  | recordPersisted (readBackOk : Bool) (deviceError : Bool) (deviceStatus : Word)
  | granaryStoreRetry (readBackOk : Bool) (deviceError : Bool) (deviceStatus : Word)
  | granaryWalk
  /-- remaining: the bytes of the Granary region left in ranks in service, where a rank is mapped out; hit: the records,
  by their opening number, whose data the error hit. -/
  | ddrError (correctable : Bool) (remaining : Option Nat) (hit : List Nat)
  | watchdogExpiry (at' : Time)
  | supervisorFatalError (items : FaultItems) (at' : Time)
  | mailboxReturn
  | dumpComplete
  | powerUp (f : StartFindings)
  /-- levels: the binary inputs that are energised at the first raw sample (R222). -/
  | bootComplete (sheaf : Nat) (startMs : Nat) (levels : List Nat)
  | rstNAssert
  | resetLongHold
  | rstNRelease (testEn : Bool) (f : StartFindings)
  | pfailNAssert
  | flushMarkerVerified
  | pfailNRelease
  | supplyOutOfRange
  | vcoreLow (lowestMv : Nat)
  | tempHigh (highest : Int)
  /-- The smallest lane slack of the last 100 ms and of the last 10 s in units of 0.1 µs, the junction in 0.1 °C. -/
  | vidStep (slack100ms slack10s : Nat) (junction : Int)
  | lockWaitExpiry (seconds : Nat)
  | activationWarmRestart (f : StartFindings)
  | opsecTick
  | tamperDetect (light : Bool)
  | tapInstruction (code : Byte)
  | supervisorMemoryError (at' : Time)
  | epochAcknowledgement (ack : EpochAck)
  /-- done: the standby's completion of a command that it executed under FLAGS.PARTNER, none for an acknowledgement. -/
  | pairCommandAck (slot : Nat) (done : Option PairDone)
  | badOpcodeDoorbell (c : Submit) (opcode : Half)
  | commandExecutionEnd (view : View) (ended : Ended)
  | busMasterEnableSet (view : View)
  | perstNRelease
  | installResumeTimeout
  | bistRerunTimeout
  | backupLatchPowerLoss
  deriving DecidableEq, Repr

end Sys2Proof
end

