-- ==== Sys2Proof/Decode.lean ====
section
/-!
DEFINITION. The command that a word spells by the bits of spec/opcode_table.json. The table gives no row any bits, so no
word spells a command (log 19).
-/
namespace Sys2Proof

/-- The rows of the table that give bits, as (width in bits, word, command): none. -/
def tableRows : List (Nat × Nat × Instr) := []

/-- The command whose row has these bits. -/
def decodeTableWord (nbits w : Nat) : Option Instr :=
  (tableRows.find? (fun r => r.1 == nbits && r.2.1 == w)).map (fun r => r.2.2)

end Sys2Proof
end

