-- ==== Sys2Proof/Program.lean ====
section
/-!
DEFINITION. The logic program as the engine holds it after reading an image (R181, R183, R187, R190, R191, R193, R200,
R203). The spec prints the header and the descriptors bit by bit; the encoding of the step list inside the image is not
printed, so the steps are this abstract form and Config.parseProgram stands for the reading of the bytes.
-/
namespace Sys2Proof

/-- A point of the image: boolean or word, and its index within its kind (R185). -/
structure PRef where
  word : Bool
  idx : Nat
  deriving DecidableEq, Repr

/-- What a step reads. -/
inductive Operand where
  | point (p : PRef)
  | const (v : Word)
  | param (i : Nat)
  deriving DecidableEq, Repr

/-- The number format of a word operation (R181, R193). -/
inductive NumType where
  | dint
  | udint
  | real
  deriving DecidableEq, Repr

/-- The operations that the logic rules name (R181 arithmetic, R183 timers and edges, R187 quality). -/
inductive LogicOp where
  | move
  | not
  | and
  | or
  | xor
  | sel
  | mux
  | qValid
  | qGood
  | qTest
  | substQ
  | add (t : NumType)
  | sub (t : NumType)
  | mul (t : NumType)
  | div (t : NumType)
  | less (t : NumType)
  | equal (t : NumType)
  | ton (timer presetMs : Nat)
  | tof (timer presetMs : Nat)
  | tp (timer presetMs : Nat)
  | rising (timer : Nat)
  | falling (timer : Nat)
  deriving DecidableEq, Repr

/-- One step of the compiled list: an evaluation that writes a point, or a forward branch that is not taken where its
condition holds: it passes over the next skip steps where the condition is false. Branches go forward only, as FOR
loops have fixed bounds and WHILE and REPEAT are not supported (R192). -/
inductive LogicStep where
  | eval (op : LogicOp) (args : List Operand) (dst : PRef)
  | skipUnless (cond : Operand) (skip : Nat)
  | skip (n : Nat)
  deriving DecidableEq, Repr

/-- A retained point: the point, its RETAIN_KEY, its initial value (R200, R201). -/
structure Retained where
  point : PRef
  key : Word
  init : Word
  deriving DecidableEq, Repr

/-- A parameter descriptor, P0 to P3 of R193. -/
structure ParamDesc where
  p0 : Word
  init : Word
  min : Word
  max : Word
  deriving DecidableEq, Repr

/-- A declared input point, I0 and I1 of R203. -/
structure InputDesc where
  i0 : Word
  subst : Word
  deriving DecidableEq, Repr

/-- What the reading of a program image yields: the header words H0 to H5 (R191), the descriptors, the class marks
of its points and of its parameters (R190), the initial values of program-written points, the steps. -/
structure Program where
  header : List Word
  retained : List Retained
  params : List ParamDesc
  inputs : List InputDesc
  marks : List (PRef × Bool)
  paramMarks : List Bool
  inits : List (PRef × Word)
  steps : List LogicStep
  deriving DecidableEq, Repr

end Sys2Proof
end

