-- ==== Sys2Proof/Config.lean ====
section
/-!
DEFINITION. What one implementation fixes and the spec does not print, and the free values: constants with no body, of
which no value can be proved. A statement that uses one holds for every value of it. Each names its log entry.
-/
namespace Sys2Proof.Config

/-- The key usage of a certificate: the leaf's is digitalSignature only (R388). -/
inductive KeyUsage where
  | digitalSignatureOnly
  deriving DecidableEq, Repr

/-- Free value: a binary32 sum of several terms. R112 says that the behaviour generation fixes the order of the
operations and does not print it. Log 3. -/
opaque sum32 : List F32 → F32

/-- Free values: the binary32 cosine and sine of an angle in radians, the angle of a phasor from its imaginary and real
parts in (−π, +π], the base-2 logarithm, the thermal factor of a time constant in seconds (R112, R135). Log 3. -/
opaque cos32 : F32 → F32
opaque sin32 : F32 → F32
opaque arg32 : F32 → F32 → F32
opaque log2f : F32 → F32
opaque thermal32 : F32 → F32
/-- Free value: what the reading of a program image's bytes yields; none where the bytes are no image. Log 4. -/
opaque parseProgram : List Byte → Option Program

/-- Free values: R284's fixed function of the package contents: the working position (taken modulo 12) of a zone and of
a program segment, and the number of segments of R181. Log 5. -/
opaque zonePosition : BitVec 384 → Nat → Nat
opaque segmentPosition : BitVec 384 → Nat → Nat
opaque segmentCount : BitVec 384 → Nat

/-- Free value: whether a package and a program exceed the evaluation window on so many lanes (R290). Log 5. -/
opaque loadExceeds : BitVec 384 → BitVec 384 → Nat → Bool

/-- Fused and factory material (R380, R388, R59): the secret number behind the identity key pair, the DER certificates of the
chain (that of the leaf by its public key, its subject serialNumber and its key usage), the root key hash, the factory MAC
address of each port. Log 7. -/
opaque identitySecret : Nat
opaque leafCertificate : List Byte → List Byte → KeyUsage → List Byte
opaque issuerCertificate : List Byte
opaque rootCertificate : List Byte
opaque rootKeyHash : BitVec 384
opaque factoryMac : Nat → Mac

/-- Free value: the bytes of a dump section that holds supervisor memory or sequencer status (R405). Log 8. -/
opaque dumpSection : Nat → Nat → List Byte

/-- Free value: what a local channel's sub-sample holds whose window no conversion covers (R43 states no value): channel
and sub-sample. Log 13. -/
opaque openSample : Nat → Nat → BitVec 24

/-- Free values drawn one by one (the slack of a lane, VID's start code, a dump's target word), by the counter of the state
that each draw advances. Log 9. -/
opaque freeWord : Nat → Word

/-- Free value: what MUX answers where its selector names none of its operands (R187 states no result). Log 26. -/
opaque openMux : List Word → Word

/-- Free value: the code of a cause in the DETAIL of 0x0D03 to 0x0D05 (R379 states no coding): 0 watchdog, 1 fatal error,
2 memory error, 3 commit failure, 4 TCXO failure, 5 self-test outcome. Log 36. -/
opaque supervisorCause : Nat → Quad

/-- Free value: the phase of the trip oscillator on the count clock (R216), in its steps, by power cycle. Log 89. -/
opaque oscPhase : Word → Nat

/-- Free values: octets of the payload of a GOOSE frame and of a PRP supervision frame, whose encodings the spec takes from
its standards (R73, R80, R107). Log 94. -/
opaque gooseSize : GooseMsg → Nat
opaque supervisionSize : Nat

/-- The table of expected values in a firmware image (R306, R307), which no rule prints: by the image's digest, the silicon
revision and the target word of R309 the MISR, the pattern count and the end token of a test; the digest and the end token of a
lane's known-answer test. Log 70. -/
opaque bistExpected : BitVec 384 → Nat → Word → Quad × Word × Word
opaque katExpected : BitVec 384 → Nat → Quad × Word

/-- Free value: the bytes of an epoch copy on the pair link (R295 gives its items and its bound, no layout). Log 101. -/
opaque epochBytes : EpochCopy → List Byte

/-- GLB_REV.SILICON: 0x01 for the first revision (R322). -/
def silicon : Nat := 1

/-- GLB_BG.BG: behaviour generation BG1 (R322). -/
def behaviourGeneration : Nat := 1

/-- GLB_ID (R322). -/
def partId : Word := 0x45560160#32

end Sys2Proof.Config
end

