-- ==== Sys2Proof/Machine/Map.lean ====
section
/-!
DEFINITION. Sparse tables keyed by a number (slots, zones, points, ports): a list of pairs with rising keys, so that
State stays plain data. A key that is not listed has the default its reader names.
-/
namespace Sys2Proof.Machine

/-- A sparse table: pairs of a key and a value, keys rising. -/
abbrev FMap (α : Type) := List (Nat × α)

/-- The entry of key k, if it is listed. -/
def FMap.get? {α : Type} : FMap α → Nat → Option α
  | [], _ => none
  | (j, a) :: rest, k => if j = k then some a else FMap.get? rest k

/-- The entry of key k, or d where it is not listed. -/
def FMap.get {α : Type} (m : FMap α) (d : α) (k : Nat) : α := (FMap.get? m k).getD d

/-- The table with key k holding a. -/
def FMap.set {α : Type} : FMap α → Nat → α → FMap α
  | [], k, a => [(k, a)]
  | (j, b) :: rest, k, a =>
    if j = k then (k, a) :: rest
    else if k < j then (k, a) :: (j, b) :: rest
    else (j, b) :: FMap.set rest k a

/-- The table without key k. -/
def FMap.erase {α : Type} : FMap α → Nat → FMap α
  | [], _ => []
  | (j, b) :: rest, k => if j = k then rest else (j, b) :: FMap.erase rest k

/-- The table with key k's entry, taken as d where it is not listed, changed by f. -/
def FMap.update {α : Type} (m : FMap α) (d : α) (k : Nat) (f : α → α) : FMap α :=
  m.set k (f (m.get d k))

/-- The keys listed. -/
def FMap.keys {α : Type} (m : FMap α) : List Nat := m.map (·.1)

/-- Every listed value changed by f. -/
def FMap.mapVals {α β : Type} (m : FMap α) (f : Nat → α → β) : FMap β := m.map (fun p => (p.1, f p.1 p.2))

end Sys2Proof.Machine
end

