-- ==== Sys2Proof/Machine/Bits.lean ====
section
/-!
DEFINITION. Bit fields, byte order and rounding helpers that the registers and formats share (R10).
-/
namespace Sys2Proof.Machine

/-- Bits [hi:lo] of a register word as a number. -/
def field (w : Word) (hi lo : Nat) : Nat := (w.toNat >>> lo) % 2 ^ (hi + 1 - lo)

/-- Bit i of a register word. -/
def bit (w : Word) (i : Nat) : Bool := w.toNat.testBit i

/-- Bits [hi:lo] of a register word as a two's-complement number. -/
def sfield (w : Word) (hi lo : Nat) : Int :=
  let n := hi + 1 - lo
  let v := field w hi lo
  if v < 2 ^ (n - 1) then (v : Int) else (v : Int) - 2 ^ n

/-- A word with only bit i set, or 0. -/
def bitWord (i : Nat) (b : Bool) : Word := if b then BitVec.ofNat 32 (2 ^ i) else 0#32

/-- A number placed at bit lo of a word. -/
def put (v lo : Nat) : Word := BitVec.ofNat 32 (v * 2 ^ lo)

/-- A word with bit i set. -/
def setBit (w : Word) (i : Nat) : Word := w ||| BitVec.ofNat 32 (2 ^ i)

/-- The n low-order-first bytes of a number (R10: little-endian on PCIe and in host memory). -/
def leBytes : Nat → Nat → List Byte
  | 0, _ => []
  | n + 1, v => BitVec.ofNat 8 v :: leBytes n (v / 256)

/-- The number that little-endian bytes spell. -/
def leNat : List Byte → Nat
  | [] => 0
  | b :: rest => b.toNat + 256 * leNat rest

/-- The number that big-endian bytes spell. -/
def beNat (bs : List Byte) : Nat := bs.foldl (fun a b => a * 256 + b.toNat) 0

/-- The n high-order-first bytes of a number (R10: big-endian on every wire format). -/
def beBytes (n v : Nat) : List Byte := (leBytes n v).reverse

/-- n bytes of a list from an offset, missing bytes as 0. -/
def slice (bs : List Byte) (off n : Nat) : List Byte :=
  let t := (bs.drop off).take n
  t ++ List.replicate (n - t.length) 0#8

/-- The little-endian number of n bytes at an offset. -/
def leAt (bs : List Byte) (off n : Nat) : Nat := leNat (slice bs off n)

/-- The 32-bit word at a byte offset. -/
def wordAt (bs : List Byte) (off : Nat) : Word := BitVec.ofNat 32 (leAt bs off 4)

/-- The words of a byte string from an offset. -/
def wordsAt (bs : List Byte) (off : Nat) : Nat → List Word
  | 0 => []
  | n + 1 => wordAt bs off :: wordsAt bs (off + 4) n

/-- The bytes of a list of words, little-endian. -/
def wordBytes (ws : List Word) : List Byte := ws.flatMap (fun w => leBytes 4 w.toNat)

/-- Zero bytes. -/
def zeros (n : Nat) : List Byte := List.replicate n 0#8

/-- An ASCII mark of four letters as its little-endian word. -/
def ascii4 (a b c d : Nat) : Nat := a + 256 * b + 65536 * c + 16777216 * d

/-- The word at index i of a record, missing words as 0. -/
def wAt (ws : List Word) (i : Nat) : Word := (ws[i]?).getD 0#32

/-- The smallest n with n * b not below a, for b > 0. -/
def ceilDiv (a b : Nat) : Nat := (a + b - 1) / b

/-- round() of R43: a / b to the nearest whole number, halves away from zero, for b > 0. -/
def roundHalfAway (a : Int) (b : Nat) : Int :=
  if 0 ≤ a then (2 * a + b) / (2 * b) else -((2 * (-a) + b) / (2 * b))

/-- x limited to the range from lo to hi. -/
def clampInt (x lo hi : Int) : Int := if x < lo then lo else if hi < x then hi else x

/-- The integer square root of n, by Newton steps on fuel. -/
def isqrtAux : Nat → Nat → Nat → Nat
  | 0, _, x => x
  | fuel + 1, n, x =>
    let y := (x + n / x) / 2
    if y < x then isqrtAux fuel n y else x

/-- The largest r with r * r not above n. -/
def isqrt (n : Nat) : Nat := if n = 0 then 0 else isqrtAux 600 n (2 ^ (Nat.log2 n / 2 + 1))

/-- Two's complement of a number in n bits, as a natural number. -/
def twos (n : Nat) (x : Int) : Nat := (x % (2 ^ n : Int)).toNat

/-- The signed value of a 32-bit word. -/
def wInt (w : Word) : Int := w.toInt

/-- The set bits of a word among its 32. -/
def bitsOf (w : Word) : List Nat := (List.range 32).filter (fun i => bit w i)

end Sys2Proof.Machine
end

