-- ==== Sys2Proof/Machine/Hash.lean ====
section
/-!
DEFINITION. SHA-384 (FIPS 180-4, named by R9 and used by R261, R382, R390, R404) and CRC-32 (IEEE 802.3, named by R261,
R268, R404), computed over byte strings.
-/
namespace Sys2Proof.Machine

/-- One step of CRC-32: the reflected polynomial 0xEDB88320 on the low bit. -/
def crcStep (c : Nat) : Nat := if c % 2 = 1 then (c / 2) ^^^ 0xEDB88320 else c / 2

/-- CRC-32 (IEEE 802.3) of a byte string. -/
def crc32 (bs : List Byte) : Word :=
  let c := bs.foldl (fun c b =>
    crcStep (crcStep (crcStep (crcStep (crcStep (crcStep (crcStep (crcStep (c ^^^ b.toNat))))))))) 0xFFFFFFFF
  BitVec.ofNat 32 (c ^^^ 0xFFFFFFFF)

/-- The largest r below 2^b past the root found so far whose cube is not above n. -/
def icbrt (n : Nat) : Nat → Nat → Nat
  | 0, r => r
  | b + 1, r => icbrt n b (if (r + 2 ^ b) ^ 3 ≤ n then r + 2 ^ b else r)

/-- A number with no divisor from 2 up to its root. -/
def isPrime (p : Nat) : Bool := 2 ≤ p && (List.range 21).all (fun d => d < 2 || p < d * d || p % d != 0)

/-- The first 80 prime numbers, the last of which is 409. -/
def primes80 : List Nat := (List.range 410).filter isPrime

/-- The 80 round constants: the first 64 bits of the fractional parts of the cube roots of the first 80 primes. -/
def shaConstants : List (BitVec 64) := primes80.map (fun p => BitVec.ofNat 64 (icbrt (p * 2 ^ 192) 68 0))

/-- Register n of the hash's eight: the first 64 bits of the fractional part of the square root of a prime. -/
def rootWord (n : Nat) : BitVec 64 := BitVec.ofNat 64 (isqrt (((primes80[n]?).getD 0) * 2 ^ 128))

/-- The eight registers of the compression. -/
structure Digest where
  (a b c d e f g h : BitVec 64)
  deriving DecidableEq, Repr

/-- The start of SHA-384: the ninth to the sixteenth prime. -/
def Digest.start : Digest :=
  ⟨rootWord 8, rootWord 9, rootWord 10, rootWord 11, rootWord 12, rootWord 13, rootWord 14, rootWord 15⟩

/-- Three views of a word joined by exclusive or: two rotations, and a third rotation or a shift. -/
def mixTurns (x : BitVec 64) (i j k : Nat) : BitVec 64 := x.rotateRight i ^^^ x.rotateRight j ^^^ x.rotateRight k
def mixShift (x : BitVec 64) (i j k : Nat) : BitVec 64 := x.rotateRight i ^^^ x.rotateRight j ^^^ x >>> k

/-- The registers after one round with the word k of the table and the word w of the schedule. -/
def Digest.turn (r : Digest) (k w : BitVec 64) : Digest :=
  let choice := r.g ^^^ (r.e &&& (r.f ^^^ r.g))
  let majority := (r.a &&& (r.b ||| r.c)) ||| (r.b &&& r.c)
  let fresh := k + w + r.h + choice + mixTurns r.e 14 18 41
  { a := fresh + majority + mixTurns r.a 28 34 39, b := r.a, c := r.b, d := r.c,
    e := r.d + fresh, f := r.e, g := r.f, h := r.g }

/-- The word that follows the sixteen words of a window, oldest first. -/
def wordAfter (win : List (BitVec 64)) : BitVec 64 :=
  let at' (i : Nat) : BitVec 64 := (win[i]?).getD 0
  at' 0 + at' 9 + mixShift (at' 1) 1 8 7 + mixShift (at' 14) 19 61 6

/-- The rounds of a list of table words, each taking the oldest word of a window that moves on by one. -/
def Digest.run : List (BitVec 64) → List (BitVec 64) → Digest → Digest
  | [], _, r => r
  | _ :: _, [], r => r
  | k :: ks, w :: win, r => Digest.run ks (win ++ [wordAfter (w :: win)]) (r.turn k w)

/-- Register by register, the sum of two digests. -/
def Digest.plus (x y : Digest) : Digest :=
  ⟨x.a + y.a, x.b + y.b, x.c + y.c, x.d + y.d, x.e + y.e, x.f + y.f, x.g + y.g, x.h + y.h⟩

/-- The big-endian 64-bit words of a byte string, n of them. -/
def beWords (n : Nat) (bs : List Byte) : List (BitVec 64) :=
  (List.range n).map (fun i => BitVec.ofNat 64 (beNat ((bs.drop (8 * i)).take 8)))

/-- The digest after the 128-byte blocks of a padded message, n of them. -/
def Digest.absorb : Nat → List Byte → Digest → Digest
  | 0, _, r => r
  | n + 1, bs, r => Digest.absorb n (bs.drop 128) (r.plus (Digest.run shaConstants (beWords 16 bs) r))

/-- A message padded to whole blocks: a 1 bit, zero bits and the length in bits in the last 16 bytes. -/
def shaPadded (bs : List Byte) : List Byte :=
  bs ++ 0x80#8 :: zeros ((239 - bs.length % 128) % 128) ++ beBytes 16 (8 * bs.length)

/-- SHA-384 as its 48 bytes: the first six registers. -/
def sha384 (bs : List Byte) : List Byte :=
  let m := shaPadded bs
  let r := Digest.absorb (m.length / 128) m Digest.start
  [r.a, r.b, r.c, r.d, r.e, r.f].flatMap (fun x => beBytes 8 x.toNat)

/-- A digest field: the 48 bytes as one number, the first byte highest. -/
def digestOf (bs : List Byte) : BitVec 384 := BitVec.ofNat 384 (beNat (sha384 bs))

/-- The 48 bytes of a digest field. -/
def digestBytes (d : BitVec 384) : List Byte := beBytes 48 d.toNat

end Sys2Proof.Machine
end

