-- ==== Sys2Proof/Machine/Ecdsa.lean ====
section
/-!
DEFINITION. ECDSA on P-384 with SHA-384 (FIPS 186-5, named by R9), as R380 uses it: signatures of 96 bytes, r then s
big-endian, public keys as 97-byte uncompressed points, signing deterministic. The curve's numbers are those of the
standard that R9 names (PRESUMED, log 6).
-/
namespace Sys2Proof.Machine

/-- The field's prime. -/
def p384 : Nat := 2 ^ 384 - 2 ^ 128 - 2 ^ 96 + 2 ^ 32 - 1

/-- The constant term of the curve y² = x³ − 3x + b. -/
def p384B : Nat :=
  0xb3312fa7e23ee7e4988e056be3f82d19181d9c6efe8141120314088f5013875ac656398d8a2ed19d2a85c8edd3ec2aef

/-- The order of the base point. -/
def p384N : Nat :=
  0xffffffffffffffffffffffffffffffffffffffffffffffffc7634d81f4372ddf581a0db248b0a77aecec196accc52973

/-- A point of the curve by its coordinates; none is the point at infinity. -/
abbrev CurvePoint := Option (Nat × Nat)

/-- The base point. -/
def p384G : CurvePoint :=
  some (0xaa87ca22be8b05378eb1c71ef320ad746e1d3b628ba79b9859f741e082542a385502f25dbf55296c3a545e3872760ab7,
    0x3617de4a96262c6f5d9e98bf9292dc29f8f41dbd289a147ce9da3113b5f0b8c00a60b1ce1d7e819d7a431d7c90ea0e5f)

/-- x^e modulo m, for an e of at most so many bits. -/
def powMod (m : Nat) : Nat → Nat → Nat → Nat
  | 0, _, _ => 1 % m
  | bits + 1, x, e =>
    let rest := powMod m bits (x * x % m) (e / 2)
    if e % 2 = 1 then x * rest % m else rest

/-- The inverse of x modulo a prime of 384 bits. -/
def invMod (m x : Nat) : Nat := powMod m 384 (x % m) (m - 2)

/-- x − y modulo m, for y below m. -/
def subMod (m x y : Nat) : Nat := (x + (m - y)) % m

/-- The third point of the line of a slope through a point (x, y) and another with abscissa x', mirrored. -/
def chordPoint (slope x y x' : Nat) : CurvePoint :=
  let x'' := subMod p384 (subMod p384 (slope * slope) x) x'
  some (x'', subMod p384 (slope * subMod p384 x x'') y)

/-- The sum of two points. -/
def pointAdd : CurvePoint → CurvePoint → CurvePoint
  | none, q => q
  | some p, none => some p
  | some (x, y), some (x', y') =>
    if x ≠ x' then chordPoint (subMod p384 y' y * invMod p384 (subMod p384 x' x) % p384) x y x'
    else if y ≠ y' ∨ y = 0 then none
    else chordPoint (subMod p384 (3 * x * x) 3 * invMod p384 (2 * y) % p384) x y x

/-- The multiple k of a point, for a k of at most so many bits. -/
def pointMul : Nat → Nat → CurvePoint → CurvePoint
  | 0, _, _ => none
  | bits + 1, k, p =>
    let rest := pointMul bits (k / 2) (pointAdd p p)
    if k % 2 = 1 then pointAdd p rest else rest

/-- The abscissa of a point modulo the order; 0 of the point at infinity. -/
def abscissa (p : CurvePoint) : Nat :=
  match p with
  | some (x, _) => x % p384N
  | none => 0

/-- The point that a 97-byte public key spells: uncompressed, its coordinates in the field, on the curve. -/
def keyPoint (bs : List Byte) : CurvePoint :=
  let x := beNat (slice bs 1 48)
  let y := beNat (slice bs 49 48)
  if bs.length = 97 ∧ leAt bs 0 1 = 4 ∧ x < p384 ∧ y < p384 ∧ y * y % p384 = subMod p384 (x * x * x + p384B) (3 * x % p384)
  then some (x, y) else none

/-- The 97 bytes of a point. -/
def pointBytes (p : CurvePoint) : List Byte :=
  match p with
  | some (x, y) => 0x04#8 :: beBytes 48 x ++ beBytes 48 y
  | none => zeros 97

/-- A 96-byte signature verifies under a public key over a digest. -/
def ecdsaVerify (key : List Byte) (digest : BitVec 384) (sig : List Byte) : Bool :=
  let r := beNat (slice sig 0 48)
  let s := beNat (slice sig 48 48)
  let w := invMod p384N s
  let sum := pointAdd (pointMul 384 (digest.toNat * w % p384N) p384G) (pointMul 384 (r * w % p384N) (keyPoint key))
  keyPoint key != none && 0 < r && r < p384N && 0 < s && s < p384N && sum != none && abscissa sum == r

/-- HMAC with SHA-384, for a key of one digest's length. -/
def hmac384 (key msg : List Byte) : List Byte :=
  let pad (b : Byte) : List Byte := (key ++ zeros (128 - key.length)).map (fun x => x ^^^ b)
  sha384 (pad 0x5C#8 ++ sha384 (pad 0x36#8 ++ msg))

/-- The generator of the per-message secret: its key and its value. -/
structure Drbg where
  key : List Byte
  value : List Byte
  deriving DecidableEq, Repr

/-- The generator after one update with some bytes. -/
def Drbg.update (tag : Byte) (bs : List Byte) (g : Drbg) : Drbg :=
  let key := hmac384 g.key (g.value ++ tag :: bs)
  ⟨key, hmac384 key g.value⟩

/-- The generator's start from the private key and the digest. -/
def Drbg.seed (d : Nat) (digest : BitVec 384) : Drbg :=
  let bs := beBytes 48 d ++ beBytes 48 (digest.toNat % p384N)
  Drbg.update 0x01#8 bs (Drbg.update 0x00#8 bs ⟨zeros 48, List.replicate 48 0x01#8⟩)

/-- The signature numbers r and s of a digest with a per-message secret k, where both come out above 0. -/
def signWith (d k : Nat) (digest : BitVec 384) : Option (Nat × Nat) :=
  let r := abscissa (pointMul 384 k p384G)
  let s := invMod p384N k * ((digest.toNat + r * d) % p384N) % p384N
  if 0 < k ∧ k < p384N ∧ 0 < r ∧ 0 < s then some (r, s) else none

/-- The first signature among so many draws of the generator. -/
def signFrom (d : Nat) (digest : BitVec 384) : Nat → Drbg → List Byte
  | 0, _ => zeros 96
  | n + 1, g =>
    let value := hmac384 g.key g.value
    match signWith d (beNat value) digest with
    | some (r, s) => beBytes 48 r ++ beBytes 48 s
    | none => signFrom d digest n (Drbg.update 0x00#8 [] ⟨g.key, value⟩)

/-- The deterministic signature of a digest with a private key. -/
def ecdsaSign (d : Nat) (digest : BitVec 384) : List Byte := signFrom d digest 64 (Drbg.seed d digest)

/-- The identity private key: the fused number brought into the range of a key (R380). -/
def identityKey : Nat := Config.identitySecret % (p384N - 1) + 1

/-- The identity public key (R380). -/
def identityPub : List Byte := pointBytes (pointMul 384 identityKey p384G)

/-- The engine's serial number (R315). -/
def serialNumber : Quad := (digestOf identityPub).truncate 64

/-- A digit in ASCII, and the serial number in 16 hexadecimal digits (R388). -/
def hexDigit (n : Nat) : Byte := BitVec.ofNat 8 (if n < 10 then 48 + n else 55 + n)
def serialDigits : List Byte := (List.range 16).map (fun i => hexDigit (serialNumber.toNat / 16 ^ (15 - i) % 16))

/-- The three certificates, leaf first (R388). -/
def certificateChain : List (List Byte) :=
  [Config.leafCertificate identityPub serialDigits .digitalSignatureOnly, Config.issuerCertificate, Config.rootCertificate]

/-- The identity key's signature over the digest of some bytes (R392). -/
def identitySign (bs : List Byte) : List Byte := ecdsaSign identityKey (digestOf bs)

end Sys2Proof.Machine
end

