-- ==== Sys2Proof/Machine/F32.lean ====
section
/-!
DEFINITION. IEEE 754 binary32 arithmetic with round-to-nearest-even (R112), exact for one operation: the operands are
taken as exact dyadic numbers, the result is computed exactly and rounded once.
-/
namespace Sys2Proof.Machine

/-- A binary32 value taken apart: a finite number sign * man * 2^exp, an infinity, or not a number. -/
inductive F32Val where
  | fin (neg : Bool) (man : Nat) (exp : Int)
  | inf (neg : Bool)
  | nan
  deriving DecidableEq, Repr

/-- The quiet NaN the arithmetic answers. -/
def F32.nan : F32 := 0x7FC00000#32

/-- The value a bit pattern stands for. -/
def F32.val (x : F32) : F32Val :=
  let e := (x.toNat >>> 23) % 256
  let m := x.toNat % 2 ^ 23
  let s := x.toNat.testBit 31
  if e = 255 then (if m = 0 then .inf s else .nan)
  else if e = 0 then .fin s m (-149)
  else .fin s (m + 2 ^ 23) ((e : Int) - 150)

/-- The pattern of an infinity or of a zero. -/
def F32.infinity (neg : Bool) : F32 := if neg then 0xFF800000#32 else 0x7F800000#32
def F32.zero (neg : Bool) : F32 := if neg then 0x80000000#32 else 0#32

/-- A number n/d rounded to an integer, ties to even. -/
def roundEven (n d : Nat) : Nat :=
  let q := n / d
  let r := n % d
  if 2 * r < d then q else if d < 2 * r then q + 1 else if q % 2 = 0 then q else q + 1

/-- n * 2^k for a possibly negative k, as a fraction. -/
def scale2 (n d : Nat) (k : Int) : Nat × Nat :=
  match k with
  | .ofNat j => (n * 2 ^ j, d)
  | .negSucc j => (n, d * 2 ^ (j + 1))

/-- The binary32 value nearest to (n / d) * 2^e, d > 0. -/
def F32.round (neg : Bool) (n d : Nat) (e : Int) : F32 :=
  if n = 0 then F32.zero neg
  else
    let top : Int := (Nat.log2 n : Int) - (Nat.log2 d : Int) + e
    -- the exponent of the last place: 24 significant bits, not below the subnormal step
    let cand : Int := if top - 24 < -149 then -149 else top - 24
    let try1 := scale2 n d (e - cand)
    let q1 := try1.1 / try1.2
    let lsb : Int := if q1 < 2 ^ 24 then cand else cand + 1
    let (a, b) := scale2 n d (e - lsb)
    let q := roundEven a b
    let (q, lsb) := if q = 2 ^ 24 then (2 ^ 23, lsb + 1) else (q, lsb)
    let s := if neg then 2 ^ 31 else 0
    if q < 2 ^ 23 then BitVec.ofNat 32 (s + q)
    else
      let be := lsb + 150
      if be ≥ 255 then F32.infinity neg
      else BitVec.ofNat 32 (s + be.toNat * 2 ^ 23 + (q - 2 ^ 23))

/-- The binary32 value nearest to an integer times 2^e. -/
def F32.ofIntScaled (x : Int) (e : Int) : F32 := F32.round (x < 0) x.natAbs 1 e

/-- The binary32 value nearest to an integer. -/
def F32.ofInt (x : Int) : F32 := F32.ofIntScaled x 0

/-- The binary32 value nearest to n / d, d > 0. -/
def F32.ofRatio (n : Int) (d : Nat) : F32 := F32.round (n < 0) n.natAbs d 0

/-- The opposite value. -/
def F32.neg (x : F32) : F32 := x ^^^ 0x80000000#32

/-- The absolute value. -/
def F32.abs (x : F32) : F32 := x &&& 0x7FFFFFFF#32

/-- x + y. -/
def F32.add (x y : F32) : F32 :=
  match F32.val x, F32.val y with
  | .nan, _ => F32.nan
  | _, .nan => F32.nan
  | .inf a, .inf b => if a = b then F32.infinity a else F32.nan
  | .inf a, _ => F32.infinity a
  | _, .inf b => F32.infinity b
  | .fin a m e, .fin b n f =>
    let lo := if e ≤ f then e else f
    let m' : Int := (m * 2 ^ (e - lo).toNat : Nat)
    let n' : Int := (n * 2 ^ (f - lo).toNat : Nat)
    let sum := (if a then -m' else m') + (if b then -n' else n')
    if sum = 0 then F32.zero (a && b) else F32.ofIntScaled sum lo

/-- x - y. -/
def F32.sub (x y : F32) : F32 := F32.add x (F32.neg y)

/-- x * y. -/
def F32.mul (x y : F32) : F32 :=
  match F32.val x, F32.val y with
  | .nan, _ => F32.nan
  | _, .nan => F32.nan
  | .inf a, .inf b => F32.infinity (a != b)
  | .inf a, .fin b n _ => if n = 0 then F32.nan else F32.infinity (a != b)
  | .fin a m _, .inf b => if m = 0 then F32.nan else F32.infinity (a != b)
  | .fin a m e, .fin b n f => F32.round (a != b) (m * n) 1 (e + f)

/-- x / y. -/
def F32.div (x y : F32) : F32 :=
  match F32.val x, F32.val y with
  | .nan, _ => F32.nan
  | _, .nan => F32.nan
  | .inf _, .inf _ => F32.nan
  | .inf a, .fin b _ _ => F32.infinity (a != b)
  | .fin a _ _, .inf b => F32.zero (a != b)
  | .fin a m e, .fin b n f =>
    if n = 0 then (if m = 0 then F32.nan else F32.infinity (a != b))
    else F32.round (a != b) m n (e - f)

/-- The square root, correctly rounded: the radicand is widened so that the integer root has 40 bits or more, and a
sticky bit keeps the rounding exact. -/
def F32.sqrt (x : F32) : F32 :=
  match F32.val x with
  | .nan => F32.nan
  | .inf true => F32.nan
  | .inf false => x
  | .fin a m e =>
    if m = 0 then x
    else if a then F32.nan
    else
      let k : Nat := if e % 2 = 0 then 60 else 61
      let n := m * 2 ^ k
      let r := isqrt n
      let r' := 2 * r + (if r * r = n then 0 else 1)
      F32.round false r' 1 ((e - k) / 2 - 1)

/-- x < y; false where either is not a number. -/
def F32.lt (x y : F32) : Bool :=
  match F32.val x, F32.val y with
  | .nan, _ => false
  | _, .nan => false
  | .inf a, .inf b => a && !b
  | .inf a, .fin _ _ _ => a
  | .fin _ _ _, .inf b => !b
  | .fin a m e, .fin b n f =>
    let lo := if e ≤ f then e else f
    let m' : Int := (m * 2 ^ (e - lo).toNat : Nat)
    let n' : Int := (n * 2 ^ (f - lo).toNat : Nat)
    (if a then -m' else m') < (if b then -n' else n')

/-- Not a number. -/
def F32.isNaN (x : F32) : Bool := F32.val x = .nan

/-- Infinite or not a number (R181). -/
def F32.notFinite (x : F32) : Bool :=
  match F32.val x with
  | .fin _ _ _ => false
  | _ => true

/-- x ≤ y; false where either is not a number. -/
def F32.le (x y : F32) : Bool := !F32.isNaN x && !F32.isNaN y && !F32.lt y x

/-- x = y as numbers. -/
def F32.eq (x y : F32) : Bool := F32.le x y && F32.le y x

/-- The larger of two values. -/
def F32.max (x y : F32) : F32 := if F32.lt x y then y else x
def F32.min (x y : F32) : F32 := if F32.lt y x then y else x

/-- The largest of a list, 0 of an empty one. -/
def F32.maxOf : List F32 → F32
  | [] => 0#32
  | x :: rest => rest.foldl F32.max x

/-- The integer part towards minus infinity of a finite value, 0 otherwise. -/
def F32.floor (x : F32) : Int :=
  match F32.val x with
  | .fin a m e =>
    let v : Int := if a then -(m : Int) else m
    match e with
    | .ofNat j => v * 2 ^ j
    | .negSucc j => v / (2 ^ (j + 1) : Int)
  | _ => 0

/-- A finite value as a fraction with a power of two below the line; 0 where it is not finite. -/
def F32.toRatio (x : F32) : Int × Nat :=
  match F32.val x with
  | .fin a m e =>
    let v : Int := if a then -(m : Int) else m
    match e with
    | .ofNat j => (v * 2 ^ j, 1)
    | .negSucc j => (v, 2 ^ (j + 1))
  | _ => (0, 1)

/-- 1.0. -/
def F32.one : F32 := 0x3F800000#32

/-- A complex binary32 pair (R117: rms phasors). -/
structure Cplx where
  re : F32
  im : F32
  deriving DecidableEq, Repr

def Cplx.zero : Cplx := ⟨0#32, 0#32⟩
def Cplx.add (x y : Cplx) : Cplx := ⟨F32.add x.re y.re, F32.add x.im y.im⟩
def Cplx.neg (x : Cplx) : Cplx := ⟨F32.neg x.re, F32.neg x.im⟩
def Cplx.sub (x y : Cplx) : Cplx := Cplx.add x (Cplx.neg y)
def Cplx.mul (x y : Cplx) : Cplx :=
  ⟨F32.sub (F32.mul x.re y.re) (F32.mul x.im y.im), F32.add (F32.mul x.re y.im) (F32.mul x.im y.re)⟩
/-- x scaled by a real. -/
def Cplx.scale (k : F32) (x : Cplx) : Cplx := ⟨F32.mul k x.re, F32.mul k x.im⟩
/-- The magnitude: the root of the sum of the squares. -/
def Cplx.abs (x : Cplx) : F32 := F32.sqrt (F32.add (F32.mul x.re x.re) (F32.mul x.im x.im))
/-- j * x. -/
def Cplx.timesJ (x : Cplx) : Cplx := ⟨F32.neg x.im, x.re⟩

end Sys2Proof.Machine
end

