-- ==== Sys2Proof/Machine/Elementary.lean ====
section
/-!
DEFINITION. Sums and elementary functions in binary32. R112 lets the behaviour generation fix their order and method and
prints neither, so each is a free value of Config; but R121, R127, R148 and R149 bound the results, so each is kept
within a rounding bound of the exact value, computed here in fixed point (log 3).
-/
namespace Sys2Proof.Machine

/-- One, in the fixed point of this file: 160 binary places. -/
def fixOne : Nat := 2 ^ 160

/-- A number in fixed point. -/
abbrev Fix := Int

/-- The fixed-point value of a fraction. -/
def Fix.ofRatio (r : Int × Nat) : Fix := r.1 * fixOne / r.2

/-- The product of two fixed-point numbers. -/
def Fix.mul (x y : Fix) : Fix := x * y / fixOne

/-- The quotient of two fixed-point numbers. -/
def Fix.div (x y : Fix) : Fix := x * fixOne / y

/-- π, and the natural logarithm of 2. -/
def Fix.pi : Fix := 0x3243f6a8885a308d313198a2e03707344a4093822
def Fix.ln2 : Fix := 0xb17217f7d1cf79abc9e3b39803f2f6af40f34326

/-- The power series t + t·r(n) + t·r(n)·r(n+1) + … over so many terms, from a term and the ratio of each to the next. -/
def series (ratio : Nat → Fix) : Nat → Nat → Fix → Fix
  | 0, _, _ => 0
  | fuel + 1, n, t => t + series ratio fuel (n + 1) (Fix.mul t (ratio n))

/-- sin x and cos x, for an x in (−π, +π]. -/
def Fix.sin (x : Fix) : Fix := series (fun n => -(Fix.mul x x) / ((2 * n + 2) * (2 * n + 3) : Nat)) 40 0 x
def Fix.cos (x : Fix) : Fix := series (fun n => -(Fix.mul x x) / ((2 * n + 1) * (2 * n + 2) : Nat)) 40 0 fixOne

/-- An angle brought within half a turn of 0. -/
def Fix.wrap (x : Fix) : Fix := x - 2 * Fix.pi * ((x + Fix.pi) / (2 * Fix.pi))

/-- e^x, for an x within 1 of 0. -/
def Fix.expSmall (x : Fix) : Fix := series (fun n => x / ((n + 1 : Nat) : Int)) 40 0 fixOne

/-- The tangent of half the angle whose tangent is t ≥ 0. -/
def Fix.halfTan (t : Fix) : Fix := Fix.div t (fixOne + isqrt ((fixOne * fixOne + t.toNat * t.toNat)))

/-- The angle in [0, π/4] of a tangent in [0, 1]: three halvings, then the series. -/
def Fix.arctan (t : Fix) : Fix :=
  let u := Fix.halfTan (Fix.halfTan (Fix.halfTan t))
  let sum := (List.range 40).foldl (fun (acc : Fix × Fix) n =>
    (acc.1 + acc.2 / ((2 * n + 1 : Nat) : Int), -(Fix.mul acc.2 (Fix.mul u u)))) (0, u)
  8 * sum.1

/-- The angle of x + j·y in (−π, +π], for whole numbers not both 0. -/
def Fix.arg (y x : Int) : Fix :=
  let a := x.natAbs
  let b := y.natAbs
  let first := if b ≤ a then Fix.arctan ((b * fixOne / a : Nat) : Int) else Fix.pi / 2 - Fix.arctan ((a * fixOne / b : Nat) : Int)
  let upper := if 0 ≤ x then first else Fix.pi - first
  if y < 0 then -upper else upper

/-- The binary places of the logarithm of an m in [1, 2), from the highest: m is squared, and a square of 2 or more
gives a 1. -/
def logBits : Nat → Nat → Nat → Nat
  | 0, _, acc => acc
  | n + 1, m, acc =>
    let sq := m * m / fixOne
    if 2 * fixOne ≤ sq then logBits n (sq / 2) (2 * acc + 1) else logBits n sq (2 * acc)

/-- log2 of n / d, for n, d > 0: the exponent and 96 places. -/
def Fix.log2 (n d : Nat) : Fix :=
  let e : Int := (Nat.log2 n : Int) - (Nat.log2 d : Int)
  let m := scale2 n d (160 - e)
  let q := m.1 / m.2
  let (q, e) := if q < fixOne then (2 * q, e - 1) else (q, e)
  e * fixOne + (logBits 96 q 0 * 2 ^ 64 : Nat)

/-- A free value where it lies within a tolerance of the exact value, and the nearest binary32 value otherwise. -/
def near (free : F32) (exact tol : Fix) : F32 :=
  let off := Fix.ofRatio (F32.toRatio free) - exact
  if !F32.notFinite free && decide (off ≤ tol) && decide (-tol ≤ off) then free else F32.ofIntScaled exact (-160)

/-- A unit in the last place of a value of this size: 2^-23 of it. -/
def lastPlace (x : Fix) : Fix := (x.natAbs / 2 ^ 23 : Nat)

/-- The exact value of a finite binary32 value. -/
def F32.fix (x : F32) : Fix := Fix.ofRatio (F32.toRatio x)

/-- Every term is finite. -/
def allFinite (l : List F32) : Bool := l.all (fun x => !F32.notFinite x)

/-- A sum of several terms in an order of the behaviour generation: each of the additions rounds by at most 2^-24 of the
sum of the magnitudes. -/
def sum32 (l : List F32) : F32 :=
  let free := Config.sum32 l
  if allFinite l then
    near free ((l.map F32.fix).foldl (· + ·) 0)
      ((l.length * (l.map (fun x => (F32.fix x).natAbs)).foldl (· + ·) 0 / 2 ^ 24 : Nat) + 1)
  else free

/-- The cosine and the sine of an angle in radians, within 2^-23. -/
def cos32 (x : F32) : F32 :=
  if F32.notFinite x then Config.cos32 x else near (Config.cos32 x) (Fix.cos (Fix.wrap (F32.fix x))) (2 ^ 137)
def sin32 (x : F32) : F32 :=
  if F32.notFinite x then Config.sin32 x else near (Config.sin32 x) (Fix.sin (Fix.wrap (F32.fix x))) (2 ^ 137)

/-- The angle of a phasor from its imaginary and its real part, in (−π, +π], within 2^-22. -/
def arg32 (im re : F32) : F32 :=
  if F32.notFinite im || F32.notFinite re || (F32.eq im 0 && F32.eq re 0) then Config.arg32 im re
  else near (Config.arg32 im re)
    (Fix.arg ((F32.toRatio im).1 * (F32.toRatio re).2) ((F32.toRatio re).1 * (F32.toRatio im).2)) (2 ^ 138)

/-- The base-2 logarithm of a positive number, within a unit in its last place. -/
def log2f (x : F32) : F32 :=
  let r := F32.toRatio x
  if F32.notFinite x || decide (r.1 ≤ 0) then Config.log2f x
  else
    let exact := Fix.log2 r.1.toNat r.2
    near (Config.log2f x) exact (lastPlace exact)

/-- The thermal factor 1 − e^(−Δt/τ) of a time constant τ ≥ 1 s, Δt = 208.333 µs (R135), within a unit in its last place. -/
def thermal32 (tau : F32) : F32 :=
  let exact := fixOne - Fix.expSmall (-(Fix.div (Fix.ofRatio (208333, 1000000000)) (max fixOne (F32.fix tau))))
  if F32.notFinite tau then Config.thermal32 tau else near (Config.thermal32 tau) exact (lastPlace exact)

/-- A finite binary32 value in fixed point; an overflow counts as 2^128. -/
def F32.saturated (x : F32) : Fix := if F32.notFinite x then fixOne * 2 ^ 128 else F32.fix x

end Sys2Proof.Machine
end

