-- ==== Sys2Proof/Machine/Grid.lean ====
section
/-!
DEFINITION. The time grid: sheaves, sub-samples, commit instants (R2, R14, R15, R16, R22, R26) in timebase steps of
156.25 ps (R84), and the SEC, NS, FRAC format (R85, R344).
-/
namespace Sys2Proof.Machine

/-- Steps of 156.25 ps in one second: 200 MHz times 32 (R84). -/
def stepsPerSec : Nat := 6400000000

/-- ns expressed in steps, in whole steps to the nearest (1 ns is 6.4 steps). -/
def nsSteps (ns : Int) : Time := roundHalfAway (ns * 32) 5

/-- µs in steps: 6,400 exactly. -/
def usSteps (us : Int) : Time := us * 6400

/-- ms in steps. -/
def msSteps (ms : Int) : Time := ms * 6400000

/-- T_k of R14, R16: (k+1)/4,800 s rounded to the nearest step. -/
def sheafEnd (k : Nat) : Time := roundHalfAway (((k : Int) + 1) * 4000000) 3

/-- The instant of sub-sample m, m/14,400 s rounded to the nearest step (R15, R16). -/
def subInstant (m : Nat) : Time := roundHalfAway ((m : Int) * 4000000) 9

/-- The sheaf whose interval [T_(k-1), T_k), as rounded, holds t (R14): the candidate floor(4,800 t) corrected by the
rounded boundary. -/
def sheafOf (t : Time) : Nat :=
  let k := (t * 3 / 4000000).toNat
  if sheafEnd k ≤ t then k + 1
  else if 0 < k ∧ t < sheafEnd (k - 1) then k - 1 else k

/-- C_k = T_k + L_pipe (R2). -/
def commitInstantOf (lpipe k : Nat) : Time := sheafEnd k + usSteps lpipe

/-- The close deadline C_k − 170 µs (R22). -/
def closeDeadlineOf (lpipe k : Nat) : Time := commitInstantOf lpipe k - usSteps 170

/-- One sheaf period, 208.333 µs, as the exact third of 4,000,000 steps: used where a rule counts whole periods. -/
def sheafPeriods (t : Time) : Int := t * 3 / 4000000

/-- The buffers of R26: N = ceil((L_pipe + 208.333 µs) / 208.333 µs). -/
def bufferCount (lpipe : Nat) : Nat := ceilDiv (lpipe * 24) 5000 + 1

/-- n_op of R126: ceil(24 × ms / 5) sheaves. -/
def sheavesOfMs (ms : Nat) : Nat := ceilDiv (24 * ms) 5

/-- The whole second that holds t. -/
def secOf (t : Time) : Int := t / stepsPerSec

/-- NS of R85. -/
def nsOf (t : Time) : Nat := ((t % stepsPerSec) * 10240 / 65536).toNat

/-- FRAC of R85: 2^-16 ns, a multiple of one step with NS. -/
def fracOf (t : Time) : Nat := ((t % stepsPerSec) * 10240 % 65536).toNat

/-- A 16-byte time field of R344: SEC signed, NS, FRAC, 0. -/
def timeBytes (t : Time) : List Byte :=
  leBytes 8 (twos 64 (secOf t)) ++ leBytes 4 (nsOf t) ++ leBytes 2 (fracOf t) ++ zeros 2

/-- A 16-byte time field of an instant in 2^-16 ns, for instants off the grid of steps (R344). -/
def timeBytesUnits (u : Int) : List Byte :=
  let sec : Int := 65536000000000
  leBytes 8 (twos 64 (u / sec)) ++ leBytes 4 ((u % sec) / 65536).toNat ++ leBytes 2 (u % 65536).toNat ++ zeros 2

/-- The first sheaf that lies wholly after t: k' = ceil(4,800 t) (R36). -/
def firstSheafAfter (t : Time) : Nat := (-((-t) * 3 / 4000000)).toNat

end Sys2Proof.Machine
end

