-- ==== Sys2Proof/Machine/StateHost.lean ====
section
/-!
DEFINITION. The state of the two host views (15_host_registers.md) and of the mailbox (16_mailbox.md): registers private
to a view, slots, rings, sequences, commands in flight, stored completions.
-/
namespace Sys2Proof.Machine

/-- One command slot (R330): the header and the 224 payload bytes. -/
structure Slot where
  opcode : Half
  flags : Half
  hostSeq : Quad
  len : Half
  status : Half
  cflags : Half
  engineSeq : Quad
  payload : List Byte
  deriving DecidableEq, Repr

/-- A slot that nothing has been written to: every byte 0 (R330 gives slot RAM no reset value: DESIGN CHOICE,
log 2). -/
def Slot.empty : Slot := ⟨0, 0, 0, 0, 0, 0, 0, []⟩

/-- One 16-byte entry of the completion ring (R340): HOST_SEQ or ARG, STATUS or event code, slot index, KIND, CFLAGS,
ENGINE_SEQ bits [15:0]. -/
structure RingEntry where
  arg : Quad
  status : Half
  slot : Nat
  kind : Nat
  cflags : Half
  engineSeq : Half
  deriving DecidableEq, Repr

/-- What a command in flight waits for, between its doorbell and its completion entry (R334 to R340). -/
inductive Stage where
  /-- Its journal record is being programmed (R336). -/
  | journaling
  /-- A PF0 command of a pair waits for the standby's acknowledgement (R294). -/
  | awaitPartner
  /-- Accepted in the sheaf period g; an earlier ordered command of the view has not taken effect (R338). -/
  | awaitOrder (g : Nat)
  /-- Accepted; its effect is due at the boundary before sheaf j (R27). -/
  | awaitBoundary (j : Nat)
  /-- Accepted; it moves data, writes storage or checks, until COMMAND_EXECUTION_END (R340). -/
  | running
  /-- Accepted before a reset that cut it off; it runs again when the mailbox returns (R354). -/
  | rerun
  /-- A FETCH_DUMP that runs: DUMP_NO of the dump it began to read, none where there was none (R407). -/
  | fetching (no : Option Nat)
  /-- Accepted; its self-test is queued or running (R310). -/
  | testing
  /-- Accepted; a role swap is under way (R301). -/
  | swapping
  /-- Executed by the standby under FLAGS.PARTNER; its completion is awaited (R294). -/
  | atPartner
  /-- Its outcome is known and waits for the mailbox to return (R354). -/
  | decided (status : Half) (cflags : Half) (result : List Byte)
  /-- Its completion is with the standby, to be journaled there before it is posted (R337). -/
  | completing (status : Half) (cflags : Half) (result : List Byte)
  deriving DecidableEq, Repr

/-- A command between its doorbell and its completion (R323 IN_FLIGHT). engineSeq 0: not accepted yet, or executed
without a journal (R336); remote: a mirrored command of the token holder, which owns no slot here (R294); resumed: it was
carried across a restart (R341 RESUMED). -/
structure Inflight where
  slot : Nat
  opcode : Half
  flags : Half
  hostSeq : Quad
  payload : List Byte
  engineSeq : Quad
  stage : Stage
  remote : Bool
  resumed : Bool
  deriving DecidableEq, Repr

/-- A journaled completion, kept for the last 64 accepted commands of a view (R337). -/
structure Completed where
  hostSeq : Quad
  opcode : Half
  status : Half
  cflags : Half
  engineSeq : Quad
  result : List Byte
  deriving DecidableEq, Repr

/-- The state one PCIe function owns (R316 to R330). -/
structure ViewState where
  /-- Holding register of the RL words (R321), 32 bits; 0 after FLR, PERST_N and reset. -/
  holding : Word
  /-- BAR0 offset of the low word that last filled the holding register (R321); reset none. -/
  holdingOffset : Option Nat
  /-- TB_NOW capture of this view (R88, R329): SEC 48 bits, NS 32 bits, FRAC 16 bits; reset 0. -/
  tbSec : BitVec 48
  tbNs : Word
  tbFrac : Half
  /-- The model's own: the word that this view's last RL_LOW_READ or TB_NOW_NS_READ returned; reset 0 DESIGN CHOICE
  (log 2). -/
  readData : Word
  /-- SNP_REQ.REQ (R324), 1 bit; reset 0. -/
  snpReq : Bool
  /-- SNP_REQ.IRQ (R324), 1 bit; reset 0. -/
  snpIrq : Bool
  /-- SNP_SEQ (R324), 32 bits; reset 0. -/
  snpSeq : Word
  /-- SNP_SHEAF (R324), 64 bits; reset 0. -/
  snpSheaf : Quad
  /-- SNP_PAGE (R324), 2 bits; reset 0. -/
  snpPage : BitVec 2
  /-- The snapshot image of this view (R324, R325), 12,800 bytes, words missing from the list read 0; reset 0. -/
  snpImage : List Word
  /-- The copy under way: the sheaf of its boundary and the words committed there (R324); reset none. -/
  snpCopy : Option (Nat × List Word)
  /-- MBX_CPL_HEAD (R323), 32 bits; reset 0. -/
  cplHead : Word
  /-- MBX_CPL_TAIL (R323), 32 bits; reset 0. -/
  cplTail : Word
  /-- The completion ring (R330, R340), 256 entries of 16 bytes; reset 0 DESIGN CHOICE (log 2). -/
  ring : FMap RingEntry
  /-- Entries held while the ring is full or in D3hot, in order (R323, R316); reset empty. -/
  held : List RingEntry
  /-- MBX_IRQ_EN.CPL_EN (R323), 1 bit; reset 0. -/
  cplEn : Bool
  /-- MBX_IRQ_EN.STAT_EN (R323), 1 bit; reset 0. -/
  statEn : Bool
  /-- STK_IRQ_EN0 to 3 (R326), 32 bits each; reset 0. -/
  stkIrqEn : List Word
  /-- MSI-X table mask bits (R315, R319), 32 vectors; reset all masked PRESUMED (PCI Express, log 38). -/
  msixMask : Word
  /-- The address and data words of the MSI-X table (R315), 32 bits each, by word; unlisted words 0 PRESUMED (PCI Express,
  log 38). -/
  msixTable : FMap Word
  /-- MSI-X pending bits (R319), 32 vectors; reset 0. -/
  msixPending : Word
  /-- The messages sent, by vector (R319), the newest first: the view's output; reset empty. -/
  messages : List Nat
  /-- D3hot power state (R315, R316), 1 bit; reset D0. -/
  d3hot : Bool
  /-- Bus Master Enable (R316), 1 bit; reset 0 PRESUMED (PCI Express, log 38). -/
  busMaster : Bool
  /-- MBX_NEXT_SEQ (R323, R335), 64 bits, from the journal; 1 on a new device (R335). -/
  nextSeq : Quad
  /-- Slot RAM (R330), 64 slots of PF0 and 16 of PF1, 256 bytes each; reset 0 DESIGN CHOICE (log 2). -/
  slots : FMap Slot
  /-- Commands in flight (R323, R336), in the order taken; reset empty. -/
  inflight : List Inflight
  /-- Journaled completions of the last 64 accepted commands (R337), the newest first; reset empty. -/
  completed : List Completed
  deriving DecidableEq, Repr

/-- A view after reset. -/
def ViewState.init : ViewState where
  holding := 0
  holdingOffset := none
  tbSec := 0
  tbNs := 0
  tbFrac := 0
  readData := 0
  snpReq := false
  snpIrq := false
  snpSeq := 0
  snpSheaf := 0
  snpPage := 0
  snpImage := []
  snpCopy := none
  cplHead := 0
  cplTail := 0
  ring := []
  held := []
  cplEn := false
  statEn := false
  stkIrqEn := [0, 0, 0, 0]
  msixMask := 0xFFFFFFFF#32
  msixTable := []
  msixPending := 0
  messages := []
  d3hot := false
  busMaster := false
  nextSeq := 1
  slots := []
  inflight := []
  completed := []

end Sys2Proof.Machine
end

