-- ==== Sys2Proof/Machine/StatePower.lean ====
section
/-!
DEFINITION. The state of records and stores: Tally (12), the journal and non-volatile stores (16, 18, 19), Granary (11),
self-test (14), start and power (18, 21), trust (19), observation (20).
-/
namespace Sys2Proof.Machine

/-- A Tally event waiting in the queue (R268, R273, R274): event code, DETAIL items, OPSEC and PWRCYC when it was
queued, the sheaf and registers of its snapshot, and the offsets that its snapshot set lists at that moment (R272). -/
structure TallyEvent where
  event : Half
  detail : List Quad
  opsec : Word
  pwrcyc : Word
  snapset : Nat
  regs : List Word
  filled : Bool
  sheaf : Quad
  offsets : List Nat
  deriving DecidableEq, Repr

/-- An entry as written (R268): the event, its number, EFLAGS, RING_NO. -/
structure TallyEntry where
  ev : TallyEvent
  seq : Quad
  eflags : Word
  ringNo : Word
  deriving DecidableEq, Repr

/-- The drops since the last summary (R275): how many, OPSEC and SHEAF of the first and of the last. -/
structure DropRecord where
  count : Nat
  firstOpsec : Word
  lastOpsec : Word
  firstSheaf : Quad
  lastSheaf : Quad
  deriving DecidableEq, Repr

/-- The Tally recorder (R271 to R280). -/
structure Tally where
  /-- The queue of 1,024 slots, oldest first (R274); reset empty. -/
  queue : List TallyEvent
  /-- The drop record (R275); reset no drops. -/
  drops : DropRecord
  /-- Numbers of the entries that were written while one mirror only was in service, and have not been copied since (R277, R279). -/
  single : List Quad
  /-- Next TALLY_SEQ (R271), 64 bits; 1 on a new pair of NOR devices. -/
  nextSeq : Quad
  /-- Accepted entries that the log still holds (R276), the newest first; reset empty. -/
  log : List TallyEntry
  /-- The last-resort ring of 64 entries (R280), the newest first; reset empty. -/
  ring : List TallyEntry
  /-- Next RING_NO (R280); starts at 1. -/
  nextRing : Nat
  /-- Snapshot sets 0 to 63 in force (R272), 35 words each; reset 0. -/
  snapsets : List (List Word)
  deriving DecidableEq, Repr

def Tally.init : Tally := ⟨[], ⟨0, 0, 0, 0, 0⟩, [], 1, [], [], 1, []⟩

/-- A record that Thresher has closed, or one that is open, as Granary holds it (R237, R239, R247, R251): the model's
own number in opening order, the fields of R239, the channel-list words and channel-table entries, the codec of the
primary cause, the segments coded so far, TB_STATE and digests of R251, the reservation and its part drawn from the
share, done once a close has ended it, and the body once closed. -/
structure Rec where
  openNo : Nat
  cause : Nat
  primary : Nat
  triggerM : Nat
  first : Nat
  last : Nat
  cap : Nat
  retrig : Nat
  flags : Word
  channels : List Word
  table : List (List Byte)
  codec : Nat
  fNom : Nat
  segments : List (List Byte)
  tbState : Nat
  pkgDigest : BitVec 384
  progDigest : BitVec 384
  reserved : Nat
  fromShare : Nat
  done : Bool
  body : List Byte
  deriving DecidableEq, Repr

/-- A record on eMMC (R261): its number, body and seal. -/
structure Stored where
  no : Nat
  triggerM : Nat
  flags : Word
  cause : Nat
  primary : Nat
  body : List Byte
  sealBytes : List Byte
  deriving DecidableEq, Repr

/-- A superblock (R260): the generation count, HEAD_OFS, HEAD_NO, RELEASED_THROUGH and the CRC-32. -/
structure Superblock where
  generation : Nat
  headOfs : Nat
  headNo : Nat
  releasedThrough : Nat
  crc : Word
  deriving DecidableEq, Repr

/-- The record store (R244 to R266). -/
structure Granary where
  /-- Open records (R238), at most 24, oldest first; reset empty. -/
  opened : List Rec
  /-- Closed records not accepted, in close order (R260); reset empty. -/
  closed : List Rec
  /-- The next opening number, the model's own; reset 0. -/
  nextOpen : Nat
  /-- Accepted records not released (R262, R263), oldest first; reset empty. -/
  stored : List Stored
  /-- Last accepted RECORD_NO (R262), 64 bits; 0 on a new device. -/
  lastNo : Nat
  /-- The next record number (R262); 1 on a new device; a standby may adopt a copied one (R265). -/
  nextNo : Nat
  /-- RELEASED_THROUGH (R263), 64 bits; 0 on a new device. -/
  releasedThrough : Nat
  /-- The two alternating superblocks (R260), the newer first; none written on a new device. -/
  supers : List Superblock
  /-- Bytes of the record log on eMMC (R260): 4 GiB less the areas before it, DESIGN CHOICE (log 56). -/
  capacity : Nat
  /-- Consecutive failures of the record write under way (R261); reset 0. -/
  failures : Nat
  /-- The retry interval is 10 s, after 8 failures or a device error (R261); reset false. -/
  slow : Bool
  /-- The records whose seals fail their check when the walk reads them, as the start found them (R262); reset empty. -/
  badSeals : List Nat
  /-- The walk of the log at start has ended (R262, R368); reset false. -/
  walked : Bool
  /-- The region in bytes that lies in DDR ranks in service (R249), none where no rank is mapped out; reset none. -/
  shrunk : Option Nat
  /-- DDR capacity found at training in bytes (R244); reset 0 until POWER_UP finds it. -/
  ddrBytes : Nat
  deriving DecidableEq, Repr

def Granary.init : Granary := ⟨[], [], 0, [], 0, 1, 0, [], 4156555264, 0, false, [], false, none, 0⟩

/-- One queued self-test (R309, R310): the command it answers, its target, runs ended so far, the first abort cause,
whether a run is under way, the boundary at which the last run started, the first boundary at which the next one may, the
values of the last run, whether it waits for its rerun (R312), the instant at which the last run started. -/
structure BistRun where
  hostSeq : Quad
  target : Word
  runs : Nat
  abortCause : Nat
  started : Bool
  startSheaf : Nat
  notBefore : Nat
  values : BistValues
  waiting : Bool
  startAt : Time
  deriving DecidableEq, Repr

/-- The self-test sequencer and the volatile secrets (R308 to R312, R393). -/
structure Bist where
  /-- The test queue, at most 8 entries, the run under way first (R310); reset empty. -/
  queue : List BistRun
  /-- A decided test of a lane whose outcome takes effect at the next boundary (R289): run, passed; reset none. -/
  decided : Option (BistRun × Bool)
  /-- The volatile secrets are present (R308, R393): session keys, identity key, cached verification key. -/
  sessionKeys : Bool
  identityKey : Bool
  settingsKey : Bool
  /-- The instant at which the last scan ended, from which the re-derivation counts (R308, R311); reset none. -/
  scanEnd : Option Time
  deriving DecidableEq, Repr

def Bist.init : Bist := ⟨[], none, false, false, false, none⟩

/-- The fatal-error dump copies and their header fields (R402 to R406). -/
structure Dump where
  cause : Nat
  no : Nat
  bytes : List Byte
  deriving DecidableEq, Repr

/-- An activation record (R381): SEQ, ACTIVE_SLOT, and each slot's STATE, DIGEST, VERSION and BG. -/
structure ActRecord where
  seq : Nat
  activeSlot : Nat
  state : List Nat
  digest : List (BitVec 384)
  version : List Word
  bg : List Nat
  deriving DecidableEq, Repr

/-- Firmware, keys and trust (R380 to R394). -/
structure Trust where
  /-- Firmware slot running (R322 GLB_REV.FW_SLOT), 0 A, 1 B; reset 0 DESIGN CHOICE (log 7). -/
  running : Nat
  /-- Activation record SEQ (R381), 64 bits; 1 on a new device DESIGN CHOICE (log 7). -/
  actSeq : Nat
  /-- ACTIVE_SLOT of the governing activation record (R381); 0 DESIGN CHOICE (R432 names slot A; log 7). -/
  activeSlot : Nat
  /-- STATE of each slot: 0 empty, 1 installing, 2 verified (R381); slot A verified, B empty (R432), DESIGN CHOICE (log 7). -/
  slotState : List Nat
  /-- DIGEST, VERSION and BG of each slot (R381); 0 DESIGN CHOICE (log 7). -/
  slotDigest : List (BitVec 384)
  slotVersion : List Word
  slotBg : List Nat
  /-- The two alternating activation records in mirror A and in mirror B, the newer first (R381); reset none: those of the
  factory are what the fields above show (log 7). -/
  recordsA : List ActRecord
  recordsB : List ActRecord
  /-- The stored image bytes of each slot and whether it carries an owner co-signature (R382); empty DESIGN CHOICE
  (log 7). -/
  slotImage : List (List Byte)
  slotCosigned : List Bool
  /-- Owner key generations burnt: fuse entries 1 to 4 (R380, R389); empty on a new device. -/
  fuses : List (BitVec 384)
  /-- The stored owner key package (R380); empty when none is set. -/
  ownerPackage : List Byte
  /-- ZEROISE_ON_TAMPER of the last FLAGS applied (R389, R394); reset false DESIGN CHOICE (log 2). -/
  zeroiseOnTamper : Bool
  /-- The journaled requirement that packages and programs be signed (R391); reset false. -/
  requireSigned : Bool
  /-- Blocks of an INSTALL_FW journaled as verified (R385), none when no install runs; reset none. -/
  install : Option Nat
  /-- The install was carried across a reset (R386); reset false. -/
  installResumed : Bool
  /-- A start from the other slot took place (R384); reset false. -/
  fallback : Bool
  /-- Tamper detectors that fired since the last start, in order: which, and ZEROISE set (R394 entries at the next start). -/
  tamperReport : List (Nat × Bool)
  /-- The engine begins a warm restart 10 ms after an activation completed (R387); reset false. -/
  activationDue : Bool
  deriving DecidableEq, Repr

def Trust.init : Trust where
  running := 0
  actSeq := 1
  activeSlot := 0
  slotState := [2, 0]
  slotDigest := [0, 0]
  slotVersion := [0, 0]
  slotBg := [1, 0]
  recordsA := []
  recordsB := []
  slotImage := [[], []]
  slotCosigned := [false, false]
  fuses := []
  ownerPackage := []
  zeroiseOnTamper := false
  requireSigned := false
  install := none
  installResumed := false
  fallback := false
  tamperReport := []
  activationDue := false

/-- Non-volatile stores and mirrors (R336, R279, R360, R376, R377). -/
structure Store where
  /-- NOR mirror A and B in service (R279); reset in service. -/
  norA : Bool
  norB : Bool
  /-- The eMMC has failed (R261 STK2.EMMC_FAIL cause); reset false. -/
  emmcFailed : Bool
  /-- ENGINE_SEQ of the last accepted command (R336), 64 bits; 0 on a new device DESIGN CHOICE (log 2). -/
  engineSeq : Quad
  /-- GLB_OPSEC as last written to NOR (R377); 0 on a new device. -/
  opsecStored : Word
  /-- The retained log (R376): the last checkpoint and batches as the image restored: sheaf, points with quality. -/
  retainedSheaf : Nat
  retainedImage : List (Nat × Word × Half)
  /-- Program digest and keys of the checkpoint (R376); reset 0. -/
  retainedDigest : BitVec 384
  /-- Bytes the log advanced since the last checkpoint (R376); reset 0. -/
  retainedAdvance : Nat
  /-- The pending set of changed retained points (R376): index to value and quality; reset empty. -/
  retainedPending : List (Nat × Word × Half)
  /-- The sheaf of the end boundary that the pending set shows (R376); reset 0. -/
  pendingSheaf : Nat
  /-- The power-fail flush under way (R375): sheaf, OPSEC at the assertion, deltas; and the marker verified: sheaf, OPSEC,
  deltas, lost Tally entries, lost records (R376, R379). -/
  flush : Option (Nat × Word × List (Nat × Word × Half))
  flushMarker : Option (Nat × Word × Nat × Nat × Nat)
  /-- The package and program of the two copies of the configuration area, and the copy in force (R369). -/
  configCopies : List (List Byte × List Byte)
  configInForce : Option Nat
  deriving DecidableEq, Repr

def Store.init : Store where
  norA := true
  norB := true
  emmcFailed := false
  engineSeq := 0
  opsecStored := 0
  retainedSheaf := 0
  retainedImage := []
  retainedDigest := 0
  retainedAdvance := 0
  retainedPending := []
  pendingSheaf := 0
  flush := none
  flushMarker := none
  configCopies := [([], []), ([], [])]
  configInForce := none

/-- Pins, supplies and the supervisor (R372 to R378, R400, R413 to R416). -/
structure Power where
  /-- RST_N asserted (R372); reset released. -/
  inReset : Bool
  /-- RST_N has been held for 10 s (R372); reset false. -/
  longHold : Bool
  /-- The reset followed HALTED (R370), and the restarts from HALTED counted (R370); reset false, none. -/
  fromHalted : Bool
  lastHaltedRestart : Option Time
  haltedForGood : Bool
  /-- PFAIL_N asserted (R375); reset released. -/
  pfail : Bool
  /-- The instant of the last assertion of PFAIL_N, from which the 0.5 ms of R360 count; reset 0. -/
  pfailAt : Time
  /-- Under PFAIL_N, the Tally entry and the Granary seal in progress at its assertion may still be written (R266, R278);
  reset false. -/
  lastEntry : Bool
  lastSeal : Bool
  /-- The backup latch (R378), 32 bits; CHECK 0xA5 and no bit set. -/
  latch : Word
  /-- VCORE and VIO33 in range (R413); reset in range. -/
  supplyOk : Bool
  /-- VANA below 3.10 V since an instant (R426); reset none. -/
  vanaDip : Option Time
  /-- Past VANA dips whose kernel windows may still matter (R426, R47), start and end; reset empty. -/
  vanaPast : List (Time × Time)
  /-- VID[3:0] (R414), 4 bits; reset 0xF. -/
  vid : BitVec 4
  /-- VCORE_LOW and TEMP_HIGH conditions stand (R312, R416, R427); reset false. -/
  vcoreLow : Bool
  tempHigh : Bool
  /-- The supervisor serves the mailbox (R373, R323 OFFLINE is its opposite); reset offline. -/
  online : Bool
  /-- The supervisor does not run: parked (R373), or no valid firmware slot (R365, R384); reset false. -/
  parked : Bool
  /-- Power has been applied (R367); reset false, before the first power-up. -/
  powered : Bool
  /-- A start sequence runs (R368, R370): from the release of RST_N to the first boundary; reset false. -/
  booting : Bool
  /-- Instants of the supervisor restarts of the last 600 s (R373), newest first; reset empty. -/
  restarts : List Time
  /-- TEST_EN as sampled at the last release of RST_N (R365); reset low. -/
  testEn : Bool
  /-- The selected TAP instruction (R400): IDCODE after Test-Logic-Reset. -/
  tap : Byte
  /-- The kind of the start under way or last made: 0 cold start, 1 cold restart, 2 warm restart (R379). -/
  startKind : Nat
  /-- Latch value before copying, and the sheaf of the restored retained image (R379); reset 0. -/
  startLatch : Word
  startRetained : Nat
  /-- PCIe link up, PERST_N released (R316); reset true. -/
  linkUp : Bool
  /-- Findings of the start whose package load failed (R369): no package in force; reset false. -/
  loadFailed : Bool
  /-- Blocks that failed their cold-start self-test (R313), by row of R304: 4 is Thresher, Granary and Winnow; reset
  empty. -/
  failedBlocks : List Nat
  /-- The package and program of a cold start are still to be read (R368, R369): the verdict of the digest check, and the
  retained points restored for them; reset none. -/
  configDue : Option (Bool × List (Nat × Word × Half))
  /-- Events that arose while the mailbox was offline, one for each code with the latest ARG (R353); reset empty. -/
  heldEvents : List (Half × Quad)
  deriving DecidableEq, Repr

def Power.init : Power where
  inReset := false
  longHold := false
  fromHalted := false
  lastHaltedRestart := none
  haltedForGood := false
  pfail := false
  pfailAt := 0
  lastEntry := false
  lastSeal := false
  latch := 0xA5000000#32
  supplyOk := true
  vanaDip := none
  vanaPast := []
  vid := 0xF
  vcoreLow := false
  tempHigh := false
  online := false
  parked := false
  powered := false
  booting := false
  restarts := []
  testEn := false
  tap := 1
  startKind := 0
  startLatch := 0xA5000000#32
  startRetained := 0
  linkUp := true
  loadFailed := false
  failedBlocks := []
  configDue := none
  heldEvents := []

end Sys2Proof.Machine
end

