-- ==== Sys2Proof/Machine/StateTime.lean ====
section
/-!
DEFINITION. The state of the ports and of ingest (03), of the timebase, PTP and timed launch (04), and of line
differential and Dovetail (07, 05 R137).
-/
namespace Sys2Proof.Machine

/-- What a timed-launch entry or an untimed frame is (R73, R81, R97, R105, R156). -/
inductive TxKind where
  | goose (block : Nat)
  | ldf (descriptor path : Nat)
  | pdelayReq
  | pdelayResp (seqId : Nat)
  | pdelayFollow (seqId : Nat)
  | prpSupervision
  deriving DecidableEq, Repr

/-- The head of a frame sent: MAC addresses, VLAN ID and priority of its 802.1Q tag where it has one, EtherType (R59, R80,
R97, R154, R158). -/
structure EthHead where
  dst : Mac
  src : Mac
  tag : Option (Nat × Nat)
  etherType : Half
  deriving DecidableEq, Repr

/-- The redundancy control trailer (R73). -/
structure Rct where
  seq : Nat
  lan : Nat
  lsdu : Nat
  suffix : Half
  deriving DecidableEq, Repr

/-- A PTP message sent (R97): messageType, domain, our clockIdentity and port, sequenceId, the clockIdentity of the asker,
and the time-stamp that it carries in 2^-16 ns (R100). -/
structure PtpTx where
  type : Nat
  domain : Nat
  identity : Quad
  port : Nat
  seqId : Nat
  requester : Quad
  stamp : Int
  deriving DecidableEq, Repr

/-- What a frame sent carries (R80, R97, R158, R73). -/
inductive TxData where
  | goose (appid : Nat) (test : Bool) (msg : GooseMsg)
  | ldf (octets : List Nat)
  | ptp (m : PtpTx)
  | supervision
  deriving DecidableEq, Repr

/-- A frame queued for launch (R106): its kind, its launch instant (untimed frames have none), whether the instant had
passed at insertion (R107), its head and data, the redundancy trailer of a PRP pair. -/
structure Launch where
  kind : TxKind
  instant : Option Time
  late : Bool
  head : EthHead
  data : TxData
  trailer : Option Rct
  deriving DecidableEq, Repr

/-- A frame that left a port (R83 CNT_PB_TX): the instant at the ball, and the egress stamp of R100 in 2^-16 ns. -/
structure Sent where
  port : Nat
  kind : TxKind
  instant : Time
  stamp : Int
  head : EthHead
  data : TxData
  trailer : Option Rct
  deriving DecidableEq, Repr

/-- One process-bus port (R59 to R63, R106). -/
structure Port where
  /-- Link state (R75); reset down DESIGN CHOICE (log 2). -/
  link : Bool
  /-- Bytes held in the receive buffer's classes 0, 1, 2 (R62); reset 0. -/
  used : List Nat
  /-- Frames waiting in the classes, oldest first (R63); reset empty. -/
  waiting : List Frame
  /-- Timed-launch queue, at most 256 entries, in launch order (R106, R107); reset empty. -/
  queue : List Launch
  /-- Untimed frames held back for the next launch, oldest first (R107); reset empty. -/
  untimed : List Launch
  /-- Sequence number of the redundancy trailer sent next (R73), 16 bits, kept at the pair's lower port; reset 0. -/
  prpSeq : Nat
  /-- PRP_LAN_DOWN reported and not yet ended for the pair of this lower port (R75): cause, source and instant; reset none. -/
  lanDown : Option (Nat × Mac × Time)
  deriving DecidableEq, Repr

def Port.init : Port := ⟨false, [0, 0, 0], [], [], [], 0, none⟩

/-- One entry of the PRP node table (R74): the pair's lower port, the source, the highest number seen, the numbers
marked at or below it, the last instant seen on LAN A, on LAN B and at all, the instant of its first frame. -/
structure PrpNode where
  pair : Nat
  src : Mac
  highest : Nat
  marked : List Nat
  seenA : Option Time
  seenB : Option Time
  last : Time
  since : Time
  deriving DecidableEq, Repr

/-- A sampled-value stream's state (R67 to R72). -/
structure Stream where
  /-- smpCnt of the last ASDU and λ of the previous accepted frame (R70); none before the first and after loss. -/
  prev : Option (Nat × Time)
  /-- t_arr of the last accepted frame, none before the first (R72). -/
  lastArr : Option Time
  /-- The stream is lost (R72); reset false. -/
  lost : Bool
  /-- The confRev received by the failure that stands since the last good frame (R67); reset none. -/
  confRev : Option Word
  /-- Count-jump check suspended for the first frame after a timebase step (R70); reset false. -/
  afterStep : Bool
  /-- Instant at which the entry came into force, from which a stream without a frame counts (R72); reset 0. -/
  since : Time
  deriving DecidableEq, Repr

def Stream.init : Stream := ⟨none, none, false, none, false, 0⟩

/-- A GOOSE subscription's state (R77, R78). -/
structure GooseSub where
  /-- t_arr of the last accepted frame and its TAL in ms; none until the first. -/
  accepted : Option (Time × Nat)
  /-- Current stNum, none until the first accepted frame, and the (stNum, sqNum) pairs seen (R77). -/
  stNum : Option Word
  seen : List (Word × Word)
  /-- Values and qualities of the members as last received (R78). -/
  values : List (Word × Half)
  /-- ndsCom was true: the points are invalid from the next boundary (R77); reset false. -/
  ndsCom : Bool
  /-- The passing of the TAL was reported (R78); reset false. -/
  stale : Bool
  /-- Instants from which a value is visible to a cycle's start boundary (R77): t_arr + 10 µs of the last values. -/
  visible : Time
  /-- Earlier values that a boundary before visible may still show, newest first, each with its own such instant. -/
  before : List (Time × List (Word × Half))
  deriving DecidableEq, Repr

def GooseSub.init : GooseSub := ⟨none, none, [], [], false, false, 0, []⟩

/-- A GOOSE publication's state (R81, R82). -/
structure GoosePub where
  stNum : Word
  sqNum : Word
  /-- The present retransmission interval in ms (R81); reset 0. -/
  interval : Nat
  /-- The values last published: value and quality of each member; none before the first publication. -/
  last : Option (List (Word × Half))
  /-- The instant of the next planned transmission (R81); reset none. -/
  next : Option Time
  deriving DecidableEq, Repr

def GoosePub.init : GoosePub := ⟨0, 0, 0, none, none⟩

/-- A PTP port (R97 to R100, R345). -/
structure PtpPort where
  /-- state: 0 disabled, 1 SLAVE, 2 PASSIVE, 3 LISTENING (R345). -/
  state : Nat
  /-- The last Announce of the best foreign master heard on the port; none after its receipt times out. -/
  announce : Option Announce
  /-- A two-step Sync waiting for its Follow_Up: sequence, ingress instant in 2^-16 ns, correction. -/
  sync : Option (Nat × Int × Int)
  /-- The last eight valid peer delays in 2^-16 ns, newest first (R100). -/
  delays : List Int
  /-- Instant of the last valid peer-delay exchange (R99). -/
  lastExchange : Option Time
  /-- Valid peer-delay exchanges counted (R345). -/
  exchanges : Nat
  /-- The next Pdelay_Req sequence (R97), 16 bits; reset 0. -/
  reqSeq : Nat
  /-- Last offset in 2^-16 ns (R345). -/
  lastOffset : Int
  /-- Consecutive measurements that lie within LOCK_NS of the PPS reference (R103). -/
  withinPps : Nat
  /-- logSyncInterval of the master's last Sync (R97, R99); reset 0. -/
  logSync : Int
  /-- The instant of the last Pdelay_Req (R97); reset none. -/
  reqAt : Option Time
  deriving DecidableEq, Repr

def PtpPort.init : PtpPort := ⟨0, none, none, [], none, 0, 0, 0, 0, 0, none⟩

/-- TB_STATE (R89). -/
inductive TbState where
  | freerun
  | acquiring
  | locked
  | holdover
  | unlocked
  deriving DecidableEq, Repr

/-- The value TB_STATE reports (R89). -/
def TbState.code : TbState → Nat
  | .freerun => 0
  | .acquiring => 1
  | .locked => 2
  | .holdover => 3
  | .unlocked => 4

/-- The timebase, its servo and its sources (R84 to R105). -/
structure Timebase where
  /-- Timebase time of the last event, in steps (R85: SEC 48 bits, NS 32 bits, FRAC 16 bits); reset 0 s. -/
  now : Time
  /-- Steps of the 200 MHz count clock, 32 to a period (R84), since power-up; reset 0. -/
  clock : Nat
  /-- The servo's accumulator, in 2^-40 of a step (R87); reset 0. -/
  acc : Int
  /-- E of R217 for the last commit, as a step of the count clock; reset 0. -/
  edge : Nat
  /-- TB_STATE.STATE (R89, R329), 3 bits; reset FREERUN. -/
  state : TbState
  /-- TB_STATE as committed at the last boundary, which points 192 and 161 show (R182, R185); reset FREERUN. -/
  shown : TbState
  /-- TB_STATE.SRC (R329): 0 none, 1 PTP, 2 PPS_IN; reset 0. -/
  src : Nat
  /-- The record T0 to T8, A, B, C of R91, 105 words; reset values of R91. -/
  config : List Word
  /-- Offset θ of the last valid measurement in 2^-16 ns (R92, R329 TB_OFFSET); reset 0. -/
  theta : Int
  /-- Integrator I in ppb, exact (R92, TB_INTEG); reset 0. -/
  integ : Rat
  /-- Adjustment y in ppb, exact (R92, TB_ADJ); reset 0. -/
  adj : Rat
  /-- Instant of the last valid measurement (R92, R96); reset none. -/
  lastMeas : Option Time
  /-- Instant of the last measurement fed to the servo (R93); reset none. -/
  lastFed : Option Time
  /-- The next valid measurement has τ 0 (R92); reset true. -/
  fresh : Bool
  /-- TB_MEAS_CNT (R329), 32 bits; reset 0. -/
  measCount : Word
  /-- Run of measurements within LOCK_NS (R90); reset 0. -/
  lockRun : Nat
  /-- Consecutive outliers or step candidates in 2^-16 ns, newest first (R93, R95); reset empty. -/
  outliers : List Int
  /-- Lock was declared since the last cold start (R90); reset false. -/
  everLocked : Bool
  /-- First lock declared and SV and line-differential zones not yet armed (R27, R90); reset false. -/
  armDue : Bool
  /-- Whole seconds are known from PTP or from PPS_SEC (R103); reset false. -/
  secondsKnown : Bool
  /-- A step decided and not yet applied: its size in steps (R36, R95); reset none. -/
  step : Option Int
  /-- PPS_SEC waiting for its edge: the acceptance instant (R91); reset none. -/
  ppsSecFrom : Option Time
  /-- The last valid PPS_IN edge (R104) and its θ; reset none. -/
  lastPps : Option Time
  ppsTheta : Int
  /-- The PTP ports (R97); reset disabled. -/
  ports : FMap PtpPort
  /-- Slave port (R98, R329); reset none. -/
  slave : Option Nat
  /-- The sync intervals without a valid measurement are counted from here (R99): last valid PTP measurement. -/
  lastPtp : Option Time
  /-- grandmasterIdentity in use (R98, R345); reset 0. -/
  grandmaster : Quad
  /-- PPS_OUT level (R105); reset low. -/
  ppsOut : Bool
  /-- The timed-launch entry of PPS_OUT's fall (R105); reset none. -/
  ppsFall : Option Time
  deriving DecidableEq, Repr

/-- The record of R91 at its reset values. -/
def timeConfigReset : List Word :=
  [0#32, 0x07D001F4#32, 100000#32, 0x01F401F4#32, 0x00006464#32, 10#32, 0#32, 0#32, 0#32] ++ List.replicate 96 0#32

def Timebase.init : Timebase where
  now := 0
  clock := 0
  acc := 0
  edge := 0
  state := .freerun
  shown := .freerun
  src := 0
  config := timeConfigReset
  theta := 0
  integ := 0
  adj := 0
  lastMeas := none
  lastFed := none
  fresh := true
  measCount := 0
  lockRun := 0
  outliers := []
  everLocked := false
  armDue := false
  secondsKnown := false
  step := none
  ppsSecFrom := none
  lastPps := none
  ppsTheta := 0
  ports := []
  slave := none
  lastPtp := none
  grandmaster := 0
  ppsOut := false
  ppsFall := none

/-- Mode of a remote terminal (R168). -/
inductive LdfMode where
  | timed
  | echo
  | frozen
  deriving DecidableEq, Repr

/-- A decoded set (R159, R161): remote sheaf, validity, components N, charging steps; mapped local sheaf and phasors
already referred to the local grid (R169). -/
structure LdfDecoded where
  sheaf : Nat
  mapped : Nat
  validity : Nat
  test : Bool
  phasors : List Cplx
  charging : List Nat
  deriving DecidableEq, Repr

/-- What the measurements of a terminal's frames have formed (R167 to R173), fields as in LdfTerm. -/
structure LdfMeas where
  mode : LdfMode
  rtts : List Int
  dIns : List Int
  dOuts : List Int
  theta : Int
  measAt : Option (Int × Int)
  frozen : Option (Int × Int)
  lapsed : Bool
  raised : Bool
  backTo : Option Int
  refill : Bool
  backRun : Nat
  suspects : List Int
  suspectSince : Option Time
  holdoff : Option Time
  postStep : List Int
  outIn : List Int
  outOut : List Int
  deriving DecidableEq, Repr

/-- A remote terminal of a descriptor (R164 to R173). -/
structure LdfTerm where
  mode : LdfMode
  /-- FRAME_SEQ of the last accepted and of the last decoded frame; none before the first. -/
  lastSeq : Option Nat
  lastDecoded : Option Nat
  /-- N of each component in the last decoded set (R161). -/
  prevN : List Int
  /-- 64-bit sheaf of the last set (R164). -/
  lastSheaf : Nat
  /-- Arrival of the last accepted frame (R177), and its ingress stamp in ns (R100, R158 HOLD_NS). -/
  lastIn : Option Time
  ingress : Int
  /-- Accepted measurements, newest first, at most 8, in ns (R167). -/
  rtts : List Int
  dIns : List Int
  dOuts : List Int
  /-- Consecutive frames with TIME_VALID = 1 (R168), up to 64. -/
  validRun : Nat
  /-- The sender's last TIME_VALID (R168). -/
  timeValid : Bool
  /-- Θ of R169 in ns from the most recent accepted measurement, whose L_r and I follow. -/
  theta : Int
  measAt : Option (Int × Int)
  /-- FRAME_SEQ of the last frame that gave a measurement, what stood before it, and the mode that it left (R167). -/
  measSeq : Option Nat
  undo : Option (LdfMeas × LdfMode)
  /-- a_frz and RTT_frz (R172), lapsed; ε raised (R170, R172), the RTT at whose return it falls (R173). -/
  frozen : Option (Int × Int)
  lapsed : Bool
  raised : Bool
  backTo : Option Int
  /-- After a channel loss the instance waits for 8 round trips in ECHO (R177). -/
  refill : Bool
  /-- Consecutive measurements back within ±20 µs (R173). -/
  backRun : Nat
  /-- Suspect measurements of R170 and the instant of the first; hold-off end; post-step agreements. -/
  suspects : List Int
  suspectSince : Option Time
  holdoff : Option Time
  postStep : List Int
  /-- Consecutive out-of-band delays in TIMED mode (R171): d_in, d_out. -/
  outIn : List Int
  outOut : List Int
  /-- The channel is lost (R177) since. -/
  lost : Option Time
  /-- One-way delay measured on the last frame (R158 DELAY_NS); none outside TIMED. -/
  delay : Option Nat
  /-- Decoded sets of the last 256 sheaves by mapped local sheaf (R166). -/
  sets : List LdfDecoded
  deriving DecidableEq, Repr

def LdfTerm.init : LdfTerm where
  mode := .echo
  lastSeq := none
  lastDecoded := none
  prevN := []
  lastSheaf := 0
  lastIn := none
  ingress := 0
  rtts := []
  dIns := []
  dOuts := []
  validRun := 0
  timeValid := false
  theta := 0
  measAt := none
  measSeq := none
  undo := none
  frozen := none
  lapsed := false
  raised := false
  backTo := none
  refill := false
  backRun := 0
  suspects := []
  suspectSince := none
  holdoff := none
  postStep := []
  outIn := []
  outOut := []
  lost := none
  delay := none
  sets := []

/-- A remote-channel descriptor's state (R154 to R177). -/
structure Ldf where
  terms : FMap LdfTerm
  /-- Own sets of the last 256 sheaves (R166): sheaf, N of the six components, validity, charging, phasors. -/
  own : List LdfDecoded
  /-- N of the last set sent (R161). -/
  sentN : List Int
  /-- The next frame must be a key frame (R161); reset true. -/
  forceKey : Bool
  /-- A launch slipped on path 0, 1: PREV_BAD in the next frame (R156). -/
  prevBad : List Bool
  /-- Sets of the frame being gathered (R156): coded fields of each sheaf. -/
  gather : List (Nat × List Int)
  /-- Planned launch instants of the last 512 frames of each path: FRAME_SEQ, path and instant (R167). -/
  launches : List (Nat × Nat × Time)
  /-- a(k−1) and the sheaves since it advanced (R166). -/
  aligned : Option Nat
  stalled : Nat
  /-- Blocked under R166, R170 or R177. -/
  blocked : Bool
  /-- Instant from which a terminal that was never heard counts as silent (R177); reset 0. -/
  since : Time
  deriving DecidableEq, Repr

def Ldf.init : Ldf := ⟨[], [], [], true, [false, false], [], [], none, 0, false, 0⟩

end Sys2Proof.Machine
end

