-- ==== Sys2Proof/Machine/StateProt.lean ====
section
/-!
DEFINITION. The state of protection: settings (16 R347, R348), sampling (02), zones and elements (05, 06), logic (08), trip path (09),
Thresher (10), lanes and pairs (13).
-/
namespace Sys2Proof.Machine

/-- One record of a package section: section type, index, the words after the index (R347, R348). -/
structure PkgRec where
  type : Nat
  index : Nat
  words : List Word
  deriving DecidableEq, Repr

/-- A setting package as read (R347): its digest (R390), its records, whether it carries a valid signature block. -/
structure Package where
  digest : BitVec 384
  records : List PkgRec
  signed : Bool
  deriving DecidableEq, Repr

/-- A program in force or staged, with its image digest (R190, R390) and whether it carries a valid block. -/
structure Loaded where
  digest : BitVec 384
  program : Program
  signed : Bool
  deriving DecidableEq, Repr

/-- A sub-sample in a buffer or a history (R22, R47, R71): value, 32-bit quality word (bits [1:0] validity as R186). -/
structure Sample where
  value : Int
  quality : Word
  deriving DecidableEq, Repr

/-- A raw sub-sample on Tenon's own path (R212): value and whether it is usable. -/
structure RawSample where
  value : Int
  usable : Bool
  deriving DecidableEq, Repr

/-- A converter slice (R38, R51, R55, R436). -/
structure Slice where
  failed : Bool
  /-- O_s and G_s (R51), binary32; reset 0 and 1.0 DESIGN CHOICE (log 2) until the cold-start calibration. -/
  offset : F32
  gain : F32
  /-- Coefficients held before the calibration of the slot under way (R55). -/
  oldOffset : F32
  oldGain : F32
  /-- Gleaner count and instant of the last calibration (R47, R56). -/
  calCount : Nat
  calAt : Time
  /-- Last check reading in µV (R345); reset 0. -/
  check : Int
  /-- Conversions that the windows to come may need, oldest first, and the newest conversion (R42, R57). -/
  convs : List Conversion
  last : Option Conversion
  deriving DecidableEq, Repr

/-- A slice before its first calibration. The instant from which the 720 h of R47 count is timebase 0 s, at which the
cold-start calibration is held to end (R47 states no instant; DESIGN CHOICE, log 92). -/
def Slice.init : Slice := ⟨false, 0#32, F32.one, 0#32, F32.one, 0, 0, 0, [], none⟩

/-- A slice failure decided in sheaf d, whose map change takes effect at C_d (R27, R55): the channels that change source,
the slices that show as failed, the replaced index, the group in which calibration stops, and whether it ran there until then
(CAL_RUN shows it until the boundary, R322). -/
structure SliceChange where
  d : Nat
  group : Nat
  sources : List (Nat × Option Nat)
  failed : List Nat
  replaced : Option Nat
  stops : Bool
  deriving DecidableEq, Repr

/-- A slot inserted for a self-test (R54): the slice under test. -/
structure InsertedSlot where
  slice : Nat
  deriving DecidableEq, Repr

/-- What an overlap has compared so far (R52), in units of 1/64 LSB: the number of sub-samples, Σd and Σd² of the differences
spare minus slice, and the sums for the fit of the slice's calibrated value y over the spare's code x. -/
structure OverlapSums where
  n : Nat
  sumD : Int
  sumD2 : Nat
  sx : Int
  sy : Int
  sxx : Nat
  sxy : Int
  deriving DecidableEq, Repr

def OverlapSums.init : OverlapSums := ⟨0, 0, 0, 0, 0, 0, 0⟩

/-- A converter group (R38, R49, R54, R322 GLB_HEALTH_GRP). -/
structure CalGroup where
  /-- REPL_IDX when REPL_VALID (R322); reset none. -/
  replaced : Option Nat
  /-- CAL_RUN (R322), 1 bit; reset 1. -/
  running : Bool
  /-- Instant at which calibration stopped (R47, R55). -/
  stoppedAt : Option Time
  /-- Sheaves by which inserted slots delay the rotation (R54); reset 0. -/
  delay : Nat
  /-- Slot sheaf p at the next commit and the slot index q (R49); p counts 0 to 2,399. -/
  slotSheaf : Nat
  slotIndex : Nat
  /-- The rotation has begun: n reached 600 g (R49). -/
  started : Bool
  /-- An inserted self-test slot runs now or is due at the next slot start (R54). -/
  inserted : Option InsertedSlot
  insertDue : Option InsertedSlot
  /-- The spare feeds the channel of the slot's slice (R50). -/
  standIn : Bool
  /-- Transfer fitted at overlap-out, effective at the handback (R52). -/
  fit : Option (F32 × F32)
  /-- Sum and number of the codes averaged at each calibration point of the slot under way (R50); reset empty. -/
  points : List (Int × Nat)
  /-- The overlap of the slot under way (R52); reset OverlapSums.init. -/
  overlap : OverlapSums
  deriving DecidableEq, Repr

def CalGroup.init : CalGroup := ⟨none, true, none, 0, 0, 0, false, none, none, false, none, [], OverlapSums.init⟩

/-- A local channel (R38, R47): the slice that feeds it, the last conversion ever made for it with the SKEW_NS that its assigned
instant took (R57), and the stall or
reroute windows that make its sub-samples invalid (R47, R55). -/
structure Channel where
  source : Option Nat
  lastConv : Option Conversion
  lastSkew : Int
  gaps : List (Time × Time)
  deriving DecidableEq, Repr

/-- A point of the image: a word (booleans use bit 0) and its 16-bit quality (R185, R186). -/
structure Point where
  value : Word
  q : Half
  deriving DecidableEq, Repr

/-- false or 0 with validity invalid: what unused and reserved points read (R185). -/
def Point.invalid : Point := ⟨0, 1⟩

/-- The state of an auto-reclose instance (R140). -/
inductive Reclose where
  | disabled
  | lockout
  | ready
  | waitOpen
  | dead
  | closing
  | reclaim
  deriving DecidableEq, Repr

/-- An element instance (R123 to R141, R147). -/
structure Inst where
  /-- Timer counts c and r of R126; reset 0. -/
  c : Nat
  r : Nat
  /-- Consecutive picked-up sheaves (R147); reset 0. -/
  run : Nat
  /-- Accumulator pair S, C of R147, binary32; reset 0. -/
  s : F32
  comp : F32
  /-- Pickup state of the phases or of the single quantity (R126). -/
  pu : List Bool
  /-- OP held (R135, R126). -/
  op : Bool
  /-- Confirmation counts of the phases (R139, R175). -/
  confirm : List Nat
  /-- θ of R135, in 2^-160 (log 3). -/
  thetaSum : Int
  /-- Voltage-loss run of R130: k_f, the memorised V1 with its quality and k_f, the frozen f_t. -/
  lossFrom : Option Nat
  memory : Option (Nat × (Cplx × Half) × F32)
  /-- The last sheaf with |V1| at least 0.5 × V_NOM/√3 (R130); reset none. -/
  v1Seen : Option Nat
  /-- Breaker failure: initiation sealed, second timer (R134). -/
  initiated : Bool
  c2 : Nat
  r2 : Nat
  /-- Auto-reclose: state, shot counter, sheaves in the state, second wait, previous INIT_POINT (R140). -/
  reclose : Reclose
  shots : Nat
  ticks : Nat
  syncTicks : Nat
  prevInit : Bool
  /-- Frozen after a timebase step until its windows are full (R122). -/
  frozen : Bool
  /-- Blocked under R141 in the last sheaf: the worst input validity, 0 for not blocked. -/
  blocked : Nat
  /-- EN in the last sheaf evaluated (R116). -/
  wasOn : Bool
  /-- Outputs committed: booleans in order of R125, words in order. -/
  bools : List Point
  words : List Point
  deriving DecidableEq, Repr

/-- Reset state of an instance (R116, R125; auto-reclose LOCKOUT). -/
def Inst.init : Inst where
  c := 0
  r := 0
  run := 0
  s := 0#32
  comp := 0#32
  pu := []
  op := false
  confirm := []
  thetaSum := 0
  lossFrom := none
  memory := none
  v1Seen := none
  initiated := false
  c2 := 0
  r2 := 0
  reclose := .lockout
  shots := 0
  ticks := 0
  syncTicks := 0
  prevInit := false
  frozen := false
  blocked := 0
  wasOn := false
  bools := []
  words := []

/-- A zone context (R113 to R122, R331). -/
structure Zone where
  /-- Setting group in force (R115), 0 to 7; reset GRP_DEFAULT, 0 before a package. -/
  group : Nat
  /-- An invalid group source was reported since the last valid selection (R115). -/
  groupBad : Bool
  /-- DEGRADED (R34), the backstop armed (R215), armed at the boundary of the last commit. -/
  degraded : Bool
  armed : Bool
  /-- The zone overran in the last sheaf (R34). -/
  overran : Bool
  /-- f_z and its validity (R118), f_t; reset F_NOM at evaluation, invalid. -/
  fz : F32
  fzQ : Nat
  ft : F32
  /-- Reference phasors of the last 577 sheaves, newest first: source 1 V1, 2 I1, angle, questionable (R118). -/
  refs : List (Nat × F32 × Bool)
  /-- f_raw of the last sheaves, newest first (R118). -/
  fraws : List (F32 × Bool)
  /-- f_z of the last sheaves, newest first, with validity (R133). -/
  fzs : List (F32 × Nat)
  /-- V1 phasors of the last 193 sheaves, newest first, with validity (R130). -/
  v1s : List (Cplx × Nat)
  /-- The sheaf of the newest entry of the four lists; none while they are empty. -/
  estAt : Option Nat
  /-- Sub-sample from which the estimator windows hold samples (R122). -/
  estFrom : Nat
  /-- Figures of the ZST record (R331): quantity validity maps, magnitudes. -/
  qInv : Nat
  qQst : Nat
  iMax : F32
  v1Mag : F32
  i2Mag : F32
  i0Mag : F32
  /-- Outputs were held in the last committed sheaf (R331 HELD). -/
  held : Bool
  /-- TOGGLING in the last commit and the last sheaf at which it rose (R331). -/
  toggling : Bool
  tripCmd : Bool
  lastTrip : Word
  deriving DecidableEq, Repr

def Zone.init : Zone where
  group := 0
  groupBad := false
  degraded := false
  armed := false
  overran := false
  fz := 0#32
  fzQ := 1
  ft := 0#32
  refs := []
  fraws := []
  fzs := []
  v1s := []
  estAt := none
  estFrom := 0
  qInv := 0
  qQst := 0
  iMax := 0#32
  v1Mag := 0#32
  i2Mag := 0#32
  i0Mag := 0#32
  held := false
  toggling := false
  tripCmd := false
  lastTrip := 0

/-- Tenon's state of a zone (R211, R214). -/
structure TenonZone where
  /-- Consecutive usable sub-samples at or above the phase thresholds, by channel, and those of the backstop threshold
  (R211, R214). Keys: 0 to 2 the phases, 3 the residual, 8 + 3 × bay + phase a busbar zone's bays. -/
  runs : FMap Nat
  bsRuns : FMap Nat
  /-- The last sub-sample at which a release condition held, and at which a backstop run was complete. -/
  lastHold : Option Nat
  lastBs : Option Nat
  /-- Consecutive sheaves with BS_PRESENT; the last sheaf that met n_bs (R214). -/
  bsSheaves : Nat
  lastBsop : Option Nat
  /-- REL and BSOP for the sheaf in the pipeline (R211, R214). -/
  rel : Bool
  bsop : Bool
  deriving DecidableEq, Repr

def TenonZone.init : TenonZone := ⟨[], [], none, none, 0, none, false, false⟩

/-- A zone's results waiting in the pending buffer (R23, R25): the zone and its instances after the sheaf. -/
structure ZoneResult where
  zone : Zone
  insts : FMap Inst
  deriving DecidableEq, Repr

/-- A program timer or edge detector (R183): counted cycles, previous input, running, output. -/
structure LTimer where
  count : Nat
  prev : Bool
  active : Bool
  q : Bool
  deriving DecidableEq, Repr

def LTimer.init : LTimer := ⟨0, false, false, false⟩

/-- The cyclic program's state (R178 to R206). -/
structure Logic where
  /-- Program in force and staged (R190, R344); reset none. -/
  program : Option Loaded
  staged : Option Loaded
  /-- Program-written boolean and word points as committed (R180); others read by R185 rules; reset invalid. -/
  bools : FMap Point
  words : FMap Point
  /-- Declared input points as received and aged (R78, R203). -/
  inBools : FMap Point
  inWords : FMap Point
  /-- Parameter values (R193, R194). -/
  params : FMap Word
  /-- Forces, keyed 0 to 98,303 boolean, 131,072 + index word (R196), at most 256. -/
  forces : FMap Word
  /-- Forces whose value the committed image shows (R196, R199). -/
  shown : FMap Word
  /-- Timers and edge memory (R183). -/
  timers : FMap LTimer
  /-- First sheaf of the cycle in progress; none between a logic start and its first cycle (R201). -/
  cycle : Option Nat
  /-- The latched image of the cycle (R179): inputs, status, parameters, forces. -/
  latBools : FMap Point
  latWords : FMap Point
  latParams : FMap Word
  latForces : FMap Word
  /-- The sheaf image of the cycle (R179): element outputs and binary inputs of its first sheaf; none before. -/
  sheafBools : FMap Point
  sheafWords : FMap Point
  imaged : Bool
  /-- Positions whose lane's work or comparison was missing in a sheaf of the cycle (R205); a lane hold
  that covers the cycle (R205, R286). -/
  missed : List Nat
  holdCycle : Bool
  /-- FIRST_CYCLE (R185, R201) and word 162 (R185). -/
  first : Bool
  cycles : Word
  /-- The last cycle overran (R206). -/
  overran : Bool
  /-- Retained image of the last end boundary (R200): key, value, quality. -/
  retained : List (Nat × Word × Half)
  deriving DecidableEq, Repr

def Logic.init : Logic where
  program := none
  staged := none
  bools := []
  words := []
  inBools := []
  inWords := []
  params := []
  forces := []
  shown := []
  timers := []
  cycle := none
  latBools := []
  latWords := []
  latParams := []
  latForces := []
  sheafBools := []
  sheafWords := []
  imaged := false
  missed := []
  holdCycle := false
  first := true
  cycles := 0
  overran := false
  retained := []

/-- A trip wire and its readback (R208 to R220). -/
structure Wire where
  /-- TOGGLE of the last commit (R208). -/
  gate : Bool
  /-- CMD of the last commit (R209). -/
  cmd : Bool
  /-- The level that the driver took at its last start or stop, and whether it follows the oscillator since (R217). -/
  level : Bool
  toggling : Bool
  /-- The step of the count clock at which it rose first, while it toggles (R216, R217); reset 0. -/
  edge : Nat
  /-- Toggling by the backstop alone at the last commit (R215). -/
  alone : Bool
  /-- Failing windows in a row and a standing readback fault (R220). -/
  failing : Nat
  fault : Bool
  /-- The last commit at which the gate was true (R301). -/
  lastGate : Option Nat
  deriving DecidableEq, Repr

def Wire.init : Wire := ⟨false, false, false, false, 0, false, 0, false, none⟩

/-- A pair before the change of a sub-sample: both channels may change at one (R223). -/
structure BiPairMark where
  m : Nat
  value : Bool
  agreed : Bool
  disagreeSince : Option Nat
  agreeSince : Option Nat
  deriving DecidableEq, Repr

/-- A dual-channel pair (R223, R224). -/
structure BiPair where
  value : Bool
  /-- The channels have agreed under the sense in force (R224). -/
  agreed : Bool
  fault : Bool
  /-- First sub-sample of the present disagreement, of the present agreement (R223). -/
  disagreeSince : Option Nat
  agreeSince : Option Nat
  /-- The pair before its last change (R223); reset none. -/
  was : Option BiPairMark
  deriving DecidableEq, Repr

def BiPair.init : BiPair := ⟨false, false, false, none, none, none⟩

/-- A trigger program's sequencer (R231 to R233). -/
structure Trig where
  state : Nat
  k0 : Nat
  k1 : Nat
  /-- Timer counts; none when stopped (R231). -/
  tm0 : Option Nat
  tm1 : Option Nat
  /-- Mask runs 0 to 7 (R233). -/
  masks : List Nat
  /-- The sub-sample at which the program was stepped last (R232); none before the first. -/
  stepped : Option Nat
  deriving DecidableEq, Repr

def Trig.init : Trig := ⟨0, 0, 0, none, none, [], none⟩

/-- A fire waiting for its resolution (R232): program, trigger instant, from a cross-trigger, manual. -/
structure Fire where
  program : Nat
  m : Nat
  cross : Bool
  manual : Bool
  deriving DecidableEq, Repr

/-- A cross-trigger message (R240): source engine, program, instant, the sheaf at whose position 0 it applies. -/
structure CrossMsg where
  src : Nat
  program : Nat
  m : Nat
  sheaf : Nat
  deriving DecidableEq, Repr

/-- State of a lane (R284). -/
inductive LaneState where
  | spare
  | serving
  | testing
  | retired
  deriving DecidableEq, Repr

def LaneState.code : LaneState → Nat
  | .spare => 0
  | .serving => 1
  | .testing => 2
  | .retired => 3

/-- A suspect (R286, R287): the lane, its position, the deciding sheaf k, mismatch (a stall otherwise, or a
failed periodic test), the sheaf whose commit decides the outcome, and whether the lane is no suspect but a lane recalled
from its self-test, which takes the position on a pass (R312). -/
structure Suspect where
  lane : Nat
  pos : Nat
  sheaf : Nat
  decideAt : Nat
  stall : Bool
  recalling : Bool
  deriving DecidableEq, Repr

/-- The lanes (R284 to R290). -/
structure Lanes where
  /-- State of lanes 0 to 12 (R284, R322); reset all serving but lane 12 spare. -/
  states : List LaneState
  /-- Lane serving positions 0 to 11, none for no lane (R284, R322); reset lane n at position n. -/
  positions : List (Option Nat)
  /-- The suspects, those of one boundary by position (R286, R287); reset none. -/
  suspects : List Suspect
  /-- The position to compare again in a sheaf, in place of the rotation (R286). -/
  recheck : Option (Nat × Nat)
  /-- Sheaf of the last mismatch of each lane whose tests both passed (R286). -/
  lastMismatch : FMap Nat
  /-- Lanes that delivered for the sheaf in the pipeline, and the spare's comparison (R23, R285). -/
  delivered : List Nat
  compared : Bool
  mismatch : Bool
  /-- Lane that retires at the next boundary without a spare, with the cause of R346 0x0106 (R288). -/
  retire : List (Nat × Nat)
  /-- Zones that the lane rules mark DEGRADED in step 6 of the boundary under way (R31, R288); reset empty. -/
  marks : List Nat
  /-- Two logic cycles in a row overran: step 6 of the boundary under way marks every zone (R31, R206); reset false. -/
  markAll : Bool
  /-- The line-differential state as at the close deadline of the sheaf in the pipeline, which the lanes evaluate (R3, R166,
  R168); reset empty. -/
  ldf : FMap Ldf
  deriving DecidableEq, Repr

def Lanes.init : Lanes where
  states := List.replicate 12 .serving ++ [.spare]
  positions := (List.range 12).map some
  suspects := []
  recheck := none
  lastMismatch := []
  delivered := []
  compared := false
  mismatch := false
  retire := []
  marks := []
  markAll := false
  ldf := []

/-- What an interlock input reads (R299). -/
inductive IlkClass where
  | absent
  | claim
  | release
  | undefined
  deriving DecidableEq, Repr

/-- The progress of a role swap (R301, R302). -/
inductive Swap where
  | idle
  /-- Due since an instant; by SWAP_ROLES or by the timer. -/
  | due (since : Time) (byCommand : Bool)
  /-- The marker of the epoch ending at C_j was sent; its acknowledgement is awaited. -/
  | marked (since : Time) (byCommand : Bool) (j : Nat)
  | acked (since : Time) (byCommand : Bool) (j : Nat)
  /-- At C_r the active drove RELEASE and sent the notice; the token ends at C_(r+1). -/
  | released (since : Time) (byCommand : Bool) (r : Nat)
  /-- The token ended at C_(r+1); CLAIM is expected at C_(r+2). -/
  | handed (since : Time) (byCommand : Bool) (r : Nat)
  deriving DecidableEq, Repr

/-- An epoch copy as sent (R295): the pair ports that carry it, the copy, the byte count and CRC-32 of its commit marker. -/
structure EpochSent where
  ports : List Nat
  copy : EpochCopy
  bytes : Nat
  crc : Word
  deriving DecidableEq, Repr

/-- The pair, the interlock and the epochs (R291 to R303). -/
structure Pair where
  /-- C0 and C1 of R291, 32 bits each; reset 0 and SWAP_H 24. -/
  c0 : Word
  c1 : Word
  /-- The engine holds the interlock token (R293); reset false. -/
  token : Bool
  /-- In step with the partner (R292), the agreeing comparisons in a row. -/
  inStep : Bool
  agreeing : Nat
  /-- What the partner's last epoch copy says of it (R291, R295); reset none. -/
  partner : Option PartnerInfo
  /-- Boundaries in a row with both lines RELEASE, all three ABSENT, an UNDEFINED input (A, B, HLTH), A and B different,
  HLTH absent with a live line (R299, R300). -/
  relRun : Nat
  absRun : Nat
  undefRuns : List Nat
  diffRun : Nat
  hlthRun : Nat
  /-- Classes at the last boundary. -/
  classes : List IlkClass
  /-- A line fault stands and was reported, by cause (R300). -/
  faults : List Nat
  /-- Partner declared lost and reported (R303). -/
  partnerLost : Bool
  /-- Own captures by epoch, newest first, and the last complete copy of the partner (R295, R296). -/
  captures : List EpochCopy
  copied : Option EpochCopy
  /-- A copy to adopt at the next boundary (R296), with the bitmap of items that differed. -/
  adopt : Option (EpochCopy × Nat)
  /-- A command was accepted alone and none has been acknowledged since (R294). -/
  alone : Bool
  /-- A PF0 sequence is to be adopted at the first complete epoch after PAIR_CONFIG (R434). -/
  seqAdoptDue : Bool
  /-- Swap notice held: the boundary r it names (R299, R301). -/
  notice : Option Nat
  /-- The progress of a role swap (R301, R302); reset idle. -/
  swap : Swap
  /-- Instant from which the swap interval counts (R301). -/
  swapFrom : Time
  /-- RELEASE is driven by the holder from C_r until the token ends at C_(r+1) (R297, R301). -/
  releaseDriven : Bool
  /-- A takeover at the last boundary: every control block is transmitted at the next (R82). -/
  publishDue : Bool
  /-- GLB_ENGINE.ROLE as still shown where PAIR_CONFIG has changed it between boundaries (R322); reset none. -/
  roleHeld : Option Nat
  /-- The epoch that the words of partner belong to (R292). -/
  partnerEpoch : Nat
  /-- Epoch copies sent to the partner, newest first: the pair link's output (R295). -/
  sent : List EpochSent
  /-- Swap notices sent: the boundaries named (R301). -/
  notices : List Nat
  deriving DecidableEq, Repr

def Pair.init : Pair where
  c0 := 0
  c1 := 24#32
  token := false
  inStep := false
  agreeing := 0
  partner := none
  relRun := 0
  absRun := 0
  undefRuns := [0, 0, 0]
  diffRun := 0
  hlthRun := 0
  classes := [.absent, .absent, .absent]
  faults := []
  partnerLost := false
  captures := []
  copied := none
  adopt := none
  alone := false
  seqAdoptDue := false
  notice := none
  swap := .idle
  swapFrom := 0
  releaseDriven := false
  publishDue := false
  roleHeld := none
  partnerEpoch := 0
  sent := []
  notices := []

/-- GLB_STATE (R8). -/
inductive GState where
  | boot
  | config
  | protecting
  | degraded
  | halted
  | test
  deriving DecidableEq, Repr

/-- The value GLB_STATE reports (R8). -/
def GState.code : GState → Nat
  | .boot => 0
  | .config => 1
  | .protecting => 2
  | .degraded => 3
  | .halted => 4
  | .test => 5

/-- A change that an accepted command has asked for (R27, R30). package: the sheaf j it takes effect from, and whether it
brings the staged program. -/
inductive Change where
  | package (j : Nat) (prog : Bool)
  | snapsets (words : List Word)
  | group (zone : Nat) (group : Nat)
  | param (index : Nat) (value : Word)
  | force (point : PRef) (value : Word)
  | unforce (point : Option PRef)
  /-- Forces removed, by key: the command completes with the commit that shows the computed values (R199). -/
  | unforced (keys : List Nat)
  | restartLogic (cold : Bool)
  | manual (program : Nat)
  deriving DecidableEq, Repr

/-- A change held in the sheaf fabric for the boundary before sheaf j (R30), with the command that asked for it. -/
structure Pending where
  j : Nat
  view : View
  hostSeq : Quad
  change : Change
  deriving DecidableEq, Repr

/-- A trace message (R396): the type byte and the fields after it. -/
structure TraceMsg where
  type : Nat
  fields : List Byte
  /-- IDLE bytes, with the SYNC messages among them, that the port sent since the message before (R395). -/
  idle : Nat
  deriving DecidableEq, Repr

end Sys2Proof.Machine
end

