-- ==== Sys2Proof/Machine/State.lean ====
section
/-!
DEFINITION. The state of the EVD160 as one block of plain data: the queue of commands, the register views, the engine's
global state, settings, sampling and ingest, the timebase, zones and logic, the trip path, acquisition, redundancy,
records, non-volatile stores, pins. Fault and Refusal are the reasons a step may stop with. State.reset is a new device
before its first power-up (log 1).
-/
namespace Sys2Proof.Machine

/-- Global engine state (R8, R322, 01_sheaf.md). -/
structure Glb where
  /-- GLB_STATE.STATE (R8, R322), 3 bits; reset BOOT. -/
  gstate : GState
  /-- GLB_SHEAF (R14, R322), 64 bits: the most recently committed sheaf; 0 until the first commit after cold start. -/
  sheaf : Nat
  /-- The sheaf in the pipeline, whose commit is next (R22, R36); reset 0. -/
  cur : Nat
  /-- The close deadline of that sheaf has passed (R22); reset false. -/
  frozen : Bool
  /-- Commits run: from BOOT_COMPLETE until HALTED or a reset (R365, R368); reset false. -/
  running : Bool
  /-- GLB_LPIPE (R322), 12 bits; 0 until a package is in force. -/
  lpipe : Nat
  /-- The value SET_LPIPE set last, 0 where none has been set (R348 E0); reset 0. -/
  lpipeSet : Nat
  /-- GLB_OPSEC (R322), 32 bits, non-volatile; 0 on a new device DESIGN CHOICE (log 2). -/
  opsec : Word
  /-- GLB_PWRCYC (R322), 32 bits, non-volatile; 0 on a new device DESIGN CHOICE (log 2). -/
  pwrcyc : Word
  /-- GLB_STATE decided for the next boundary (R27, R365); reset none. -/
  next : Option GState
  /-- The instant of entry to CONFIG, from which LOCK_WAIT_S counts (R365, R366), none in another state; reset none. -/
  configFrom : Option Time
  /-- HLTH_O toggles: the last flip was complete in time (R298); reset false. -/
  hlthArmed : Bool
  /-- The sheaf committed before the flip that is under way (R35); none once it is complete; reset none. -/
  flipFrom : Option Nat
  /-- The model's own counter behind free values (Config.freeWord); reset 0 DESIGN CHOICE (log 9). -/
  free : Nat
  deriving DecidableEq, Repr

def Glb.init : Glb := ⟨.boot, 0, 0, false, false, 0, 0, 0, 0, none, none, false, none, 0⟩

/-- The sticky trouble record (R281 to R283, R326). -/
structure Sticky where
  /-- STK0 to STK3 as committed at the last boundary (R326), 32 bits each; reset 0. -/
  regs : List Word
  /-- Bits set since the last boundary (R281), visible at the next; reset 0. -/
  sets : List Word
  /-- Bits cleared by W1C writes since the last boundary (R281); reset 0. -/
  clears : List Word
  /-- Bits whose STICKY_SET entry waits for the first boundary, set while no boundary runs (R281, R282); reset 0. -/
  early : List Word
  /-- STK_FIRST (R283, R326), 32 bits; reset 0. -/
  first : Word
  /-- STK_FIRST_SHEAF (R283, R326), 64 bits; reset 0. -/
  firstSheaf : Nat
  /-- STK_FIRST is armed (R283), 1 bit; reset armed. -/
  armed : Bool
  deriving DecidableEq, Repr

def Sticky.init : Sticky := ⟨[0, 0, 0, 0], [0, 0, 0, 0], [0, 0, 0, 0], [0, 0, 0, 0], 0, 0, true⟩

/-- Setting packages (R347, R348, R27 to R32). -/
structure Settings where
  /-- The package in force (R344); reset none. -/
  package : Option Package
  /-- The staged package (R344); reset none. -/
  staged : Option Package
  /-- The bytes of the staged package and of the staged program, for the configuration area (R369); reset empty. -/
  stagedBytes : List Byte
  programBytes : List Byte
  /-- Changes accepted for a boundary (R27, R30), in acceptance order; reset empty. -/
  changes : List Pending
  /-- The first sheaf whose interval began after the armed package was accepted (R28); reset 0. -/
  armedFrom : Nat
  deriving DecidableEq, Repr

def Settings.init : Settings := ⟨none, none, [], [], [], 0⟩

/-- Local sampling and the sample histories (02_local_sampling.md, R22, R29). -/
structure Sampling where
  /-- Histories of the 2,048 analogue slots, newest sub-sample first: the sheaf buffers, the estimators' windows and
  Thresher's ring hold the same sub-samples; reset empty. -/
  hist : FMap (List (Nat × Sample))
  /-- The raw sub-samples on Tenon's own path (R212), newest first; reset empty. -/
  raw : FMap (List (Nat × RawSample))
  /-- The 68 converter slices (R38); reset healthy. -/
  slices : FMap Slice
  /-- The 4 converter groups (R38, R49); reset as CalGroup.init. -/
  groups : FMap CalGroup
  /-- The 64 local channels (R38); reset each fed by its own slice. -/
  channels : FMap Channel
  /-- The Gleaner count n (R49); reset 0. -/
  gleaner : Nat
  /-- Slice failures whose map change waits for its boundary (R27, R55); reset empty. -/
  fixes : List SliceChange
  /-- The first sheaf with samples of a slot that a package newly bound (R28); reset empty. -/
  boundFrom : FMap Nat
  deriving DecidableEq, Repr

def Sampling.init : Sampling := ⟨[], [], [], [], [], 0, [], []⟩

/-- A sub-sample sent to the Dovetail ports of a mask (R137): the source slot, its number m, value and quality. -/
structure DvtSent where
  ports : Nat
  slot : Nat
  m : Nat
  sample : Sample
  deriving DecidableEq, Repr

/-- Process-bus ports and ingest (03_process_bus_ingest.md). -/
structure Ingest where
  /-- The 32 ports (R59); reset Port.init. -/
  ports : FMap Port
  /-- PRP node table, at most 1,024 entries (R74); reset empty. -/
  nodes : List PrpNode
  /-- Stream states of the running package (R67 to R72); reset Stream.init. -/
  streams : FMap Stream
  /-- Stream states of a package armed and not yet in force (R29); reset empty. -/
  streamsNew : FMap Stream
  /-- GOOSE subscription states (R77); reset GooseSub.init. -/
  subs : FMap GooseSub
  /-- GOOSE publication states (R81); reset GoosePub.init. -/
  pubs : FMap GoosePub
  /-- Sub-samples published to Dovetail neighbours (R137), newest first: Dovetail's output; reset empty. -/
  dvtSent : List DvtSent
  /-- The port served last (R63); reset 31 DESIGN CHOICE (log 44), so that port 0 is served first. -/
  served : Nat
  /-- Sampled-value frames that waited in the ports at a timebase step: they arrived on the old timescale (R70); reset
  empty. -/
  oldFrames : List (Frame × Time)
  deriving DecidableEq, Repr

def Ingest.init : Ingest := ⟨[], [], [], [], [], [], [], 31, []⟩

/-- Binary inputs (R221 to R224). -/
structure Bi where
  /-- Debounced value of the 128 inputs (R222), by number; reset not energised. -/
  debounced : FMap Bool
  /-- Committed value of each input as the image shows it, and its quality (R222); reset false, invalid. -/
  points : FMap Point
  /-- The 64 pairs (R223); reset BiPair.init. -/
  pairs : FMap BiPair
  /-- Transitions by sub-sample, newest first (R222, R223): (m, key, value); keys 0 to 127 the inputs, 128 + p the pair
  values, 256 + p the pair faults, 384 + p the pairs that have agreed; reset empty. -/
  log : List (Nat × Nat × Bool)
  deriving DecidableEq, Repr

def Bi.init : Bi := ⟨[], [], [], []⟩

/-- Thresher (10_trigger_acquisition.md). -/
structure Thresher where
  /-- The 8 trigger programs' sequencers (R231); reset Trig.init. -/
  trigs : FMap Trig
  /-- Fires waiting for resolution in the sheaf (R232, R236); reset empty. -/
  fires : List Fire
  /-- Cross-triggers received and waiting for their sheaf (R240); reset empty. -/
  cross : List CrossMsg
  /-- Cross-triggers sent, newest first: Dovetail's output (R240): port, source engine ID, program, instant; reset empty. -/
  crossSent : List (Nat × Nat × Nat × Nat)
  /-- First sub-sample since the last start or timebase step (R243); reset 0. -/
  ringFrom : Nat
  /-- Oldest sub-sample that the ring can hold after a start, a timebase step or a package (R235, R243); reset 0. -/
  heldFrom : Nat
  /-- First sub-sample that the ring holds of a channel added by a package, by channel-list word (R243); reset empty. -/
  added : FMap Nat
  /-- Changes of boolean points above 191 that a program watches or records, newest first: sub-sample, point, value
  (R226, R228); reset empty. -/
  points : List (Nat × Nat × Bool)
  /-- The value of each such point at the last commit (R226); reset empty. -/
  last : FMap Bool
  /-- What a record header tells of the sheaf that holds its trigger instant (R251), one entry for each sheaf from which it
  changed, newest first: the sheaf, the TB_STATE of its commit, the package and program digests; reset empty. -/
  facts : List (Nat × Nat × BitVec 384 × BitVec 384)
  deriving DecidableEq, Repr

def Thresher.init : Thresher := ⟨[], [], [], [], 0, 0, [], [], [], []⟩

/-- The observation port's output (R395 to R398). -/
structure TracePort where
  /-- Messages sent, newest first (R396); reset empty. -/
  msgs : List TraceMsg
  /-- The whole second of the last message (R397); reset none. -/
  sec : Option Int
  /-- Bytes sent since the last SYNC (R397); reset 0. -/
  run : Nat
  /-- The count of the count clock at which the output FIFO is empty (R395, R397); reset 0. -/
  emptyAt : Int
  /-- Messages lost since the last OVERFLOW (R396, R397); reset 0. -/
  lost : Nat
  deriving DecidableEq, Repr

def TracePort.init : TracePort := ⟨[], none, 0, 0, 0⟩

/-- A doorbell not yet taken: its view and slot, and whether it was written while the mailbox was offline (R323). -/
structure Bell where
  view : View
  slot : Nat
  held : Bool
  deriving DecidableEq, Repr

/-- The engine. -/
structure State where
  /-- The model's own queue of waiting commands, first in first out; reset empty. -/
  pending : List Instr
  /-- The privileged view. -/
  pf0 : ViewState
  /-- The unprivileged view. -/
  pf1 : ViewState
  /-- Doorbells not yet taken, in the order written (R323, R334); reset empty. -/
  bells : List Bell
  glb : Glb
  stk : Sticky
  /-- The counters of R328, 64 bits each, by index; reset 0. -/
  cnt : FMap Nat
  cfg : Settings
  samp : Sampling
  ing : Ingest
  tb : Timebase
  /-- Line-differential descriptors 0 to 15 (R154); reset Ldf.init. -/
  ldf : FMap Ldf
  /-- Dovetail ports 0 to 3: link up (R137, R282 STK3.DOVETAIL_LINK_DOWN); reset down DESIGN CHOICE (log 2). -/
  dovetail : FMap Bool
  /-- Zone contexts 0 to 159 (R113); reset Zone.init. -/
  zones : FMap Zone
  /-- Tenon's state of zones 0 to 159 (R211); reset TenonZone.init. -/
  tenon : FMap TenonZone
  /-- Element instances, 32 × zone + slot (R123); reset Inst.init. -/
  insts : FMap Inst
  /-- The pending buffer: results of the sheaf in the pipeline by zone (R23, R25); reset empty. -/
  results : FMap ZoneResult
  logic : Logic
  /-- Trip wires 0 to 191 (R207); reset Wire.init. -/
  wires : FMap Wire
  bi : Bi
  thr : Thresher
  lanes : Lanes
  pair : Pair
  tally : Tally
  granary : Granary
  bist : Bist
  /-- DDR dump area (R403); reset none. -/
  dumpDdr : Option Dump
  /-- eMMC dump slot (R403); reset none. -/
  dumpEmmc : Option Dump
  /-- The dump that is being written (R374, R406); reset none. -/
  dumpBusy : Option Dump
  /-- The visible and the hidden ZST buffer (R331, R332): the 16 words of each zone's record; reset 0 DESIGN CHOICE
  (log 2). -/
  zst : FMap (List Word)
  zstHidden : FMap (List Word)
  /-- Dumps written so far (R404 numbering); reset 0. -/
  dumpNo : Nat
  trust : Trust
  store : Store
  power : Power
  trace : TracePort
  /-- Frames that left the ports, newest first: the wires' output (R83, R106); reset empty. -/
  sent : List Sent
  /-- Host memory that descriptors name (R339), in canonical form; unlisted bytes read 0 DESIGN CHOICE (log 10). -/
  hostMem : List Host.Cell
  deriving DecidableEq, Repr

/-- Why a step may stop with a fault. No command of the EVD160 stops the model: every row has an effect. -/
inductive Fault where
  /-- Raised by nobody: an access to an address that does not exist. R317 gives every access an effect. Safe. -/
  | noSuchAddress
  deriving DecidableEq, Repr

/-- Why a step may be refused. -/
inductive Refusal where
  /-- Raised by an arm of exec whose command has no meaning yet, with the row's mnemonic. Safe. -/
  | notModelled (mnemonic : String)
  deriving DecidableEq, Repr

/-- The engine of a new device before power is applied (log 1). -/
def State.reset : State where
  pending := []
  pf0 := ViewState.init
  pf1 := ViewState.init
  bells := []
  glb := Glb.init
  stk := Sticky.init
  cnt := []
  cfg := Settings.init
  samp := Sampling.init
  ing := Ingest.init
  tb := Timebase.init
  ldf := []
  dovetail := []
  zones := []
  tenon := []
  insts := []
  results := []
  logic := Logic.init
  wires := []
  bi := Bi.init
  thr := Thresher.init
  lanes := Lanes.init
  pair := Pair.init
  tally := Tally.init
  granary := Granary.init
  bist := Bist.init
  dumpDdr := none
  dumpEmmc := none
  dumpBusy := none
  zst := []
  zstHidden := []
  dumpNo := 0
  trust := Trust.init
  store := Store.init
  power := Power.init
  trace := TracePort.init
  sent := []
  hostMem := []

end Sys2Proof.Machine
end

