-- ==== Sys2Proof/Machine/Ops.lean ====
section
/-!
DEFINITION. The shared operations over the state: counters, sticky bits, the Tally queue, asynchronous events, the
completion ring and MSI-X, host memory, the observation port, the retirement of a NOR mirror.
-/
namespace Sys2Proof.Machine

/-- Adds n to counter i (R327). -/
def count (i n : Nat) (s : State) : State := { s with cnt := FMap.set s.cnt i (FMap.get s.cnt 0 i + n) }

/-- The list with element i changed by f. -/
def modAt {α : Type} (f : α → α) : Nat → List α → List α
  | _, [] => []
  | 0, a :: rest => f a :: rest
  | i + 1, a :: rest => a :: modAt f i rest

/-- The word at index i of a register list. -/
def regAt (ws : List Word) (i : Nat) : Word := (ws[i]?).getD 0#32

/-- Sets sticky bit b of register r (R281): it becomes visible at the boundary that follows; while no boundary runs it
is readable at once (R282) and its STICKY_SET entry waits for the first boundary; a bit whose clear is pending is set again. Log 11. -/
def sticky (r b : Nat) (s : State) : State :=
  if s.glb.running then { s with stk := { s.stk with sets := modAt (fun w => setBit w b) r s.stk.sets } }
  else if bit (regAt s.stk.regs r) b then
    (if bit (regAt s.stk.clears r) b then
      { s with stk := { s.stk with sets := modAt (fun w => setBit w b) r s.stk.sets } } else s)
  else
    { s with
      stk :=
        { s.stk with
          regs := modAt (fun w => setBit w b) r s.stk.regs
          early := modAt (fun w => setBit w b) r s.stk.early } }

/-- 2^-40 of a step, in which the servo's accumulator counts (R87). -/
def accUnit : Int := 1099511627776

/-- What one step of the count clock adds to the timebase under an adjustment of y ppb, in 2^-40 of a step (R87). -/
def clockRate (y : Rat) : Int := accUnit + roundHalfAway (y.num * accUnit) (y.den * 1000000000)

/-- Steps of the count clock until the timebase reads t (R87). -/
def clockUntil (tb : Timebase) (t : Time) : Nat :=
  let r := clockRate tb.adj
  (-((tb.acc - (t - tb.now) * accUnit) / r)).toNat

/-- What the timebase reads at step n of the count clock (R87). -/
def timeAtClock (tb : Timebase) (n : Nat) : Time :=
  tb.now + (tb.acc + ((n : Int) - tb.clock) * clockRate tb.adj) / accUnit

/-- Advances the time of the last event; time never runs back here (a timebase step of R36 writes it directly). The count
clock goes on with it, and what the servo adds to its steps is kept exactly in the accumulator (R87). -/
def advance (t : Time) (s : State) : State :=
  if s.tb.now ≤ t then
    let n := clockUntil s.tb t
    { s with tb := { s.tb with
      now := t, clock := s.tb.clock + n, acc := s.tb.acc + n * clockRate s.tb.adj - (t - s.tb.now) * accUnit } }
  else s

/-- The behaviour generation of the image that runs (R12, R387). -/
def runningBg (s : State) : Nat := (s.trust.slotBg[s.trust.running]?).getD 0

/-- Half a period of the trip oscillator: 3,200 periods of the count clock (R216). -/
def tripHalf : Nat := 102400

/-- The first edge of the trip oscillator at or after t, as a step of the count clock (R216, R217): its phase is free. -/
def tripEdge (s : State) (t : Time) : Nat :=
  let c := s.tb.clock + clockUntil s.tb t
  let p := Config.oscPhase s.glb.pwrcyc % tripHalf
  p + tripHalf * ceilDiv (c - p) tripHalf

/-- The 32-bit ms, ns and count values of a Tally item: two's complement in 64 bits (R270). -/
def item (x : Int) : Quad := BitVec.ofInt 64 x

/-- Words of snapshot set n in force: S0 to S2, then O0 to O31 (R272). -/
def snapset (s : State) (n : Nat) : List Word := (s.tally.snapsets[n]?).getD []

/-- Whether an enabled snapshot set matches an event (R272, R273). -/
def snapMatches (set : List Word) (event : Half) (detail : List Quad) : Bool :=
  let s0 := wAt set 0
  let s1 := wAt set 1
  bit s0 0 &&
    match field s0 7 6 with
    | 0 => event.toNat == field s1 15 0
    | 1 => event.toNat / 256 == field s1 15 8
    | 2 =>
      event == 1 && ((detail[0]?).getD 0).toNat == field s1 17 16 &&
        (((detail[1]?).getD 0).toNat &&& (wAt set 2).toNat) != 0
    | _ => false

/-- The lowest-numbered enabled set that matches, 0xFF for none (R273). -/
def snapsetFor (s : State) (event : Half) (detail : List Quad) : Nat :=
  ((List.range 64).find? (fun n => snapMatches (snapset s n) event detail)).getD 0xFF

/-- The BAR0 offsets that a snapshot set names (R272). -/
def snapOffsets (set : List Word) : List Nat :=
  (List.range (field (wAt set 0) 5 1 + 1)).map (fun i => field (wAt set (3 + i)) 19 0)

/-- The offsets of the set an event uses, as the sets stand at the event (R272, R273): none under SNAPSET 0xFF. -/
def eventOffsets (s : State) (n : Nat) : List Nat := if n = 0xFF then [] else snapOffsets (snapset s n)

/-- Event code of DROP_SUMMARY (R269). -/
def evDropSummary : Half := 0x0003

/-- Entries waiting other than the summary (R274). -/
def tallyWaiting (t : Tally) : Nat := (t.queue.filter (fun e => e.event != evDropSummary)).length

/-- Records a dropped event (R275): the count, and OPSEC and SHEAF of the first and the last drop. -/
def dropEvent (s : State) : State :=
  let d := s.tally.drops
  let sh : Quad := BitVec.ofNat 64 s.glb.sheaf
  let d' : DropRecord :=
    if d.count = 0 then ⟨1, s.glb.opsec, s.glb.opsec, sh, sh⟩
    else { d with count := d.count + 1, lastOpsec := s.glb.opsec, lastSheaf := sh }
  let s1 := count 183 1 { s with tally := { s.tally with drops := d' } }
  if d.count = 0 then sticky 2 8 s1 else s1

/-- An event enters the Tally queue, or is dropped where 1,023 entries wait (R273, R274, R275). -/
def tally (event : Half) (detail : List Quad) (s : State) : State :=
  if 1023 ≤ tallyWaiting s.tally then dropEvent s
  else
    let set := snapsetFor s event detail
    let e : TallyEvent := ⟨event, detail.take 6, s.glb.opsec, s.glb.pwrcyc, set, [], false, 0, eventOffsets s set⟩
    { s with tally := { s.tally with queue := s.tally.queue ++ [e] } }

/-- The DROP_SUMMARY of the present drop record enters the reserved slot where fewer than 1,023 entries wait and no
earlier summary still holds the slot (R275). -/
def dropSummary (s : State) : State :=
  let d := s.tally.drops
  if d.count = 0 ∨ 1023 ≤ tallyWaiting s.tally ∨ s.tally.queue.any (fun e => e.event == evDropSummary) then s
  else
    let det : List Quad :=
      [BitVec.ofNat 64 d.count, d.firstOpsec.zeroExtend 64, d.lastOpsec.zeroExtend 64, d.firstSheaf, d.lastSheaf]
    let set := snapsetFor s evDropSummary det
    let e : TallyEvent := ⟨evDropSummary, det, s.glb.opsec, s.glb.pwrcyc, set, [], false, 0, eventOffsets s set⟩
    { s with tally := { s.tally with queue := s.tally.queue ++ [e], drops := ⟨0, 0, 0, 0, 0⟩ } }

/-- A view's state. -/
def State.view (s : State) : View → ViewState
  | .pf0 => s.pf0
  | .pf1 => s.pf1

/-- The state with a view changed. -/
def State.setView (s : State) (v : View) (x : ViewState) : State :=
  match v with
  | .pf0 => { s with pf0 := x }
  | .pf1 => { s with pf1 := x }

/-- A view sends the message of an MSI-X vector, or sets its pending bit where the vector is masked (R319). In D3hot no
message is sent (R316). -/
def raiseIn (vec : Nat) (x : ViewState) : ViewState :=
  if x.d3hot then x
  else if bit x.msixMask vec then { x with msixPending := setBit x.msixPending vec }
  else { x with messages := vec :: x.messages }

/-- HEAD − TAIL of a view's ring. -/
def ringUsed (x : ViewState) : Nat := (x.cplHead - x.cplTail).toNat

/-- Writes one entry at HEAD mod 256 and increments HEAD (R340 steps 3 and 4). -/
def ringPut (e : RingEntry) (x : ViewState) : ViewState :=
  { x with ring := FMap.set x.ring (x.cplHead.toNat % 256) e, cplHead := x.cplHead + 1 }

/-- Held entries are posted in order while the ring has room (R323), n at most. -/
def ringDrain : Nat → ViewState → ViewState
  | 0, x => x
  | n + 1, x =>
    match x.held with
    | [] => x
    | e :: rest => if 256 ≤ ringUsed x then x else ringDrain n (ringPut e { x with held := rest })

/-- Posts an entry to a view's ring: step 3 to 5 of R340, or held in order while the ring is full, in D3hot or while the
link is down (R316, R323). -/
def postIn (up : Bool) (e : RingEntry) (x : ViewState) : ViewState :=
  if x.held ≠ [] ∨ 256 ≤ ringUsed x ∨ x.d3hot ∨ up = false then { x with held := x.held ++ [e] }
  else
    let x' := ringPut e x
    if x'.cplEn then raiseIn 0 x' else x'

/-- An asynchronous event is posted to both views; while the mailbox is offline it is kept, one for each code with the
latest ARG (R353). -/
def postEvent (code : Half) (arg : Quad) (s : State) : State :=
  if s.power.online then
    let e : RingEntry := ⟨arg, code, 0xFF, 1, 0, 0⟩
    { s with pf0 := postIn s.power.linkUp e s.pf0, pf1 := postIn s.power.linkUp e s.pf1 }
  else
    { s with
      power := { s.power with heldEvents := s.power.heldEvents.filter (fun p => p.1 != code) ++ [(code, arg)] } }

/-- Of the messages that a view has sent more, vector 0 once (R319). -/
def oneRaise (old new : ViewState) : ViewState :=
  let fresh := new.messages.take (new.messages.length - old.messages.length)
  { new with messages :=
      (if fresh.contains 0 then [0] else []) ++ fresh.filter (fun v => v != 0) ++
        new.messages.drop (new.messages.length - old.messages.length) }

/-- Entries that f posts together raise one message in each view (R319). -/
def together (f : State → State) (s : State) : State :=
  let t := f s
  { t with pf0 := oneRaise s.pf0 t.pf0, pf1 := oneRaise s.pf1 t.pf1 }

/-- MBX_STAT.OFFLINE changes (R323): vector 3 in the views that enable it (R319). -/
def setOnline (b : Bool) (s : State) : State :=
  if s.power.online = b then s
  else
    let f (x : ViewState) : ViewState := if x.statEn then raiseIn 3 x else x
    { s with power := { s.power with online := b }, pf0 := f s.pf0, pf1 := f s.pf1 }

/-- Steps of the count clock that one byte of the observation port takes: 400 Mbyte/s (R395). -/
def traceByte : Int := 16

/-- Bytes that wait in the port's FIFO at a count of the clock (R397). -/
def traceFill (clock : Int) (t : TracePort) : Nat := (ceilDiv (t.emptyAt - clock).toNat 16)

/-- A message enters the FIFO of 4 KiB, or is dropped and counted where it is full (R397); whether it entered. -/
def tracePut (clock : Int) (type : Nat) (fields : List Byte) (t : TracePort) : Bool × TracePort :=
  let n := 1 + fields.length
  if 4096 < traceFill clock t + n then (false, { t with lost := t.lost + 1 })
  else
    let idle := ((clock - t.emptyAt) / traceByte).toNat
    (true, { t with
      msgs := ⟨type, fields, idle⟩ :: t.msgs, run := t.run + idle + n, emptyAt := max t.emptyAt clock + traceByte * n })

/-- SYNC, where the bytes since the last one, the message to come and what stands before it would pass 4,096 (R397). -/
def traceSync (clock : Int) (n : Nat) (t : TracePort) : TracePort :=
  if t.run + ((clock - t.emptyAt) / traceByte).toNat + n + 11 ≤ 4096 then t
  else
    let r := tracePut clock 1 [0xA5, 0x5A, 0xC3, 0x3C] t
    if r.1 then { r.2 with run := 0 } else r.2

/-- A message of the observation port (R396), after the OVERFLOW, SYNC and SECOND messages that R397 puts before it. -/
def traceMsg (type : Nat) (fields : List Byte) (s : State) : State :=
  let c := s.tb.clock
  let sec := secOf s.tb.now
  let t := s.trace
  let t := if t.lost = 0 ∨ 4096 < traceFill c t + 3 then t
    else { (tracePut c 0x7F (beBytes 2 (min t.lost 65535)) t).2 with lost := 0 }
  let t := traceSync c (1 + fields.length) t
  let t := if t.sec = some sec then t
    else
      let r := tracePut c 2 (beBytes 6 (twos 48 sec) ++ beBytes 1 s.tb.state.code) t
      if r.1 then { r.2 with sec := some sec } else r.2
  { s with trace := (tracePut c type fields t).2 }

/-- TS: the NS field of the timebase, big-endian (R396). -/
def traceTs (s : State) : List Byte := beBytes 4 (nsOf s.tb.now)

/-- The byte of host memory at an address: unlisted bytes read 0 (log 10). -/
def memGet : List Host.Cell → Nat → Byte
  | [], _ => 0#8
  | (a, b) :: rest, k => if a = k then b else memGet rest k

/-- Host memory with one byte written, in canonical form. -/
def memSet : List Host.Cell → Nat → Byte → List Host.Cell
  | [], k, b => if b = 0#8 then [] else [(k, b)]
  | (a, c) :: rest, k, b =>
    if a = k then (if b = 0#8 then rest else (k, b) :: rest)
    else if k < a then (if b = 0#8 then (a, c) :: rest else (k, b) :: (a, c) :: rest)
    else (a, c) :: memSet rest k b

/-- Host memory with bytes written from an address up. -/
def memWrite (m : List Host.Cell) : Nat → List Byte → List Host.Cell
  | _, [] => m
  | a, b :: rest => memWrite (memSet m a b) (a + 1) rest

/-- n bytes of host memory from an address up. -/
def memRead (m : List Host.Cell) (a : Nat) : Nat → List Byte
  | 0 => []
  | n + 1 => memGet m a :: memRead m (a + 1) n

/-- Every address listed in m lies above lo. -/
def memAbove : Nat → List Host.Cell → Bool
  | _, [] => true
  | lo, (a, b) :: rest => decide (lo ≤ a) && b != 0#8 && memAbove (a + 1) rest

/-- The canonical form of host memory: addresses strictly rising, no byte 0 listed. -/
def Memory.wf (m : List Host.Cell) : Bool := memAbove 0 m

/-- A NOR mirror in service. -/
def anyMirror (s : State) : Bool := s.store.norA || s.store.norB

/-- Event code of STORE_FAILOVER (R269). -/
def evStoreFailover : Half := 0x0004

/-- A mirror goes out of service after a second failure (R279), or both do (R280): the sticky bits, the STORE_FAILOVER
entry in front of the queue where a survivor remains, event 0x0E01 where none does. seq: the Tally entry whose verify
failed, 0 where a journal record met the failure. Log 12. -/
def retireMirror (isB : Bool) (seq : Quad) (s : State) : State :=
  if (if isB then s.store.norB else s.store.norA) = false then s
  else
    let st := if isB then { s.store with norB := false } else { s.store with norA := false }
    let s := sticky 2 (if isB then 6 else 5) { s with store := st }
    if anyMirror s then
      let set := snapsetFor s evStoreFailover [if isB then 1 else 0, seq]
      let e : TallyEvent :=
        ⟨evStoreFailover, [if isB then 1 else 0, seq], s.glb.opsec, s.glb.pwrcyc, set, [], false, 0, eventOffsets s set⟩
      { s with tally := { s.tally with queue := e :: s.tally.queue } }
    else postEvent 0x0E01 0 (sticky 2 7 s)

/-- Mirrors that failed twice go out of service (R279, R280): where none is left after the same write, no STORE_FAILOVER
entry is made, because there is no survivor to write it on. -/
def retireMirrors (failA failB : Bool) (seq : Quad) (s : State) : State :=
  if failA ∧ failB ∧ anyMirror s then
    let a := s.store.norA
    let b := s.store.norB
    let s := { s with store := { s.store with norA := false, norB := false } }
    let s := if a then sticky 2 5 s else s
    let s := if b then sticky 2 6 s else s
    postEvent 0x0E01 0 (sticky 2 7 s)
  else
    let s := if failA then retireMirror false seq s else s
    if failB then retireMirror true seq s else s

/-- The next free value of the state (Config.freeWord). -/
def takeFree (s : State) : Word × State :=
  (Config.freeWord s.glb.free, { s with glb := { s.glb with free := s.glb.free + 1 } })

end Sys2Proof.Machine
end

