-- ==== Sys2Proof/Machine/Package.lean ====
section
/-!
DEFINITION. The setting package (R347, R348): reading its bytes into records, and reading a record's words. The rules
of the single descriptors stand in the files of their chapters; Staging.lean runs them all.
-/
namespace Sys2Proof.Machine

/-- Section types of R348. -/
def secEngine : Nat := 0x01
def secPort : Nat := 0x02
def secChannel : Nat := 0x03
def secGroup : Nat := 0x04
def secSv : Nat := 0x05
def secGooseSub : Nat := 0x06
def secGoosePub : Nat := 0x07
def secDvtPub : Nat := 0x08
def secDvtSub : Nat := 0x09
def secCurve : Nat := 0x0A
def secLdf : Nat := 0x0B
def secWire : Nat := 0x0C
def secBi : Nat := 0x0D
def secBiPair : Nat := 0x0E
def secTrigger : Nat := 0x0F
def secZone : Nat := 0x10
def secTenon : Nat := 0x11
def secBay : Nat := 0x12
def secInstance : Nat := 0x13

/-- Number of indices and of words after INDEX of each section type (R348). -/
def sectionShape (type : Nat) : Option (Nat × Nat) :=
  ([(0x01, 1, 5), (0x02, 32, 2), (0x03, 64, 3), (0x04, 4, 2), (0x05, 512, 47), (0x06, 1024, 102), (0x07, 256, 103),
    (0x08, 384, 1), (0x09, 384, 2), (0x0A, 8, 34), (0x0B, 16, 11), (0x0C, 192, 1), (0x0D, 128, 1), (0x0E, 64, 1),
    (0x0F, 8, 357), (0x10, 160, 14), (0x11, 160, 4), (0x12, 3840, 3), (0x13, 5120, 193)].find?
      (fun p => p.1 == type)).map (fun p => p.2)

/-- The words of the record of a type and index, if the package has one. -/
def recOf (p : Package) (type index : Nat) : Option (List Word) :=
  (p.records.find? (fun r => r.type == type && r.index == index)).map (fun r => r.words)

/-- The words of a record, or the reset words of its descriptor where the package has none (R347). -/
def recOr (p : Option Package) (type index : Nat) (reset : List Word) : List Word :=
  (p.bind (fun q => recOf q type index)).getD reset

/-- The indices of a type that the package has records for, rising. -/
def indicesOf (p : Option Package) (type : Nat) : List Nat :=
  match p with
  | none => []
  | some q => (q.records.filter (fun r => r.type == type)).map (fun r => r.index)

/-- One directory entry: TYPE, OFFSET, COUNT, RECLEN, and its own byte offset. -/
structure DirEntry where
  type : Nat
  offset : Nat
  count : Nat
  reclen : Nat
  at' : Nat
  deriving DecidableEq, Repr

/-- The n directory entries from byte 32 (R347). -/
def directory (bs : List Byte) (n : Nat) : List DirEntry :=
  (List.range n).map (fun i =>
    let o := 32 + 16 * i
    ⟨leAt bs o 2, leAt bs (o + 4) 4, leAt bs (o + 8) 4, leAt bs (o + 12) 4, o⟩)

/-- The bits of the first words of a record that belong to a field, by section type; the others are RSV (R348 and the tables it
names). -/
def headMasks (type : Nat) : List Word :=
  let all : Word := 0xFFFFFFFF
  match type with
  | 0x01 => [0xFFF, 0x0FFF0003, 0x3FFF]
  | 0x02 => [0x7FF]
  | 0x03 => [0x0FFF0001, 0x1FFFFF, 0xFFFF]
  | 0x04 => [1, 0x3FFFFF]
  | 0x05 => [0x0FFF1F01, 0x0FFFFFFF, all, 0x01FFFFFF, all, 0x00FF0FFF]
  | 0x06 => [0x1FFF1F01, 0x7FFFFFFF, all, 0xFFFF, all, 0x7F7F]
  | 0x07 => [0x7FFF1F01, 0x7FFFFF, all, 0xFFFF, all, 0xFFFF007F, 0x7F7F]
  | 0x08 => [0xFFFF]
  | 0x09 => [0x7FF, 0x07FF07FF]
  | 0x0A => [0x1F]
  | 0x0B => [0x01FFFF01, all, all, all, 0xFF, 0x00FFF1FF, all, 0xFFFF, 0x00FFF1FF, all, 0xFFFF]
  | 0x0C => [0x3FF01]
  | 0x0D => [0xFFF]
  | 0x0E => [0x1FFF]
  | 0x0F => [0x7FFF, 0xFFFFF, 0x1FFFFF, 0xFFFFFF, 0xFFFFFF]
  | 0x10 => [0xFFF, 0x7FFF]
  | 0x11 => [0xFF, all, all, 0xFFFF]
  | 0x12 => [0x07FF07FF, 0x1FFF]
  | 0x13 => [0x3FF]
  | _ => []

/-- The same of word w of a record: map, member and channel lists, masks and state blocks repeat one layout. -/
def fieldMask (type w : Nat) : Word :=
  match (headMasks type)[w]? with
  | some m => m
  | none =>
    if type = 0x05 ∧ 23 ≤ w then 0x97FF
    else if (type = 0x06 ∧ 38 ≤ w) ∨ (type = 0x07 ∧ 39 ≤ w) then 0x3FFFFF
    else if type = 0x0F ∧ w < 29 ∧ w % 3 = 2 then 0x0FFFFFFF
    else if type = 0x0F ∧ ((29 ≤ w ∧ w < 101 ∧ (w - 29) % 9 = 8) ∨ 101 ≤ w) then 0x3FFFF
    else if type = 0x10 ∧ 6 ≤ w then 0x1FFF
    else 0xFFFFFFFF

/-- The records of one section; what stands in RSV bits is ignored (R11). -/
def sectionRecords (bs : List Byte) (d : DirEntry) : List PkgRec :=
  (List.range d.count).map (fun i =>
    let o := d.offset + d.reclen * i
    ⟨d.type, leAt bs o 4,
      (wordsAt bs (o + 4) (d.reclen / 4 - 1)).zipIdx.map (fun w => w.1 &&& fieldMask d.type w.2)⟩)

/-- All records of a package. -/
def packageRecords (bs : List Byte) : List PkgRec :=
  (directory bs (leAt bs 12 2)).flatMap (sectionRecords bs)

/-- Two ranges of bytes overlap. -/
def overlaps (a n b m : Nat) : Bool := decide (a < b + m) && decide (b < a + n) && decide (0 < n) && decide (0 < m)

/-- The byte offset of the first fault of the header and directory (R347), or none. bodyLen: the bytes that precede any
signature block; bg: the running behaviour generation. -/
def frameFault (bg : Nat) (bs : List Byte) (bodyLen : Nat) : Option Nat :=
  let n := leAt bs 12 2
  if leAt bs 0 4 ≠ ascii4 0x45 0x56 0x53 0x50 then some 0
  else if leAt bs 4 2 ≠ 1 then some 4
  else if leAt bs 6 2 ≠ bg then some 6
  else if leAt bs 8 4 ≠ bodyLen then some 8
  else if 19 < n then some 12
  else
    let dir := directory bs n
    let rec go (prev : Nat) (seen : List DirEntry) : List DirEntry → Option Nat
      | [] => none
      | d :: rest =>
        match sectionShape d.type with
        | none => some d.at'
        | some (count, words) =>
          if d.type ≤ prev then some d.at'
          else if d.offset % 4 ≠ 0 then some (d.at' + 4)
          else if bodyLen < d.offset + d.count * (4 * (1 + words)) then some (d.at' + 4)
          else if seen.any (fun e => overlaps d.offset (d.count * d.reclen) e.offset (e.count * e.reclen)) then
            some (d.at' + 4)
          else if count < d.count then some (d.at' + 8)
          else if d.reclen ≠ 4 * (1 + words) then some (d.at' + 12)
          else go d.type (d :: seen) rest
    go 0 [] dir

/-- The byte offset of the first INDEX out of order or out of range (R347), or none. -/
def indexFault (bs : List Byte) : Option Nat :=
  (directory bs (leAt bs 12 2)).findSome? (fun d =>
    let limit := ((sectionShape d.type).map (fun p => p.1)).getD 0
    (List.range d.count).findSome? (fun i =>
      let o := d.offset + d.reclen * i
      let idx := leAt bs o 4
      if limit ≤ idx ∨ (i ≠ 0 ∧ idx ≤ leAt bs (o - d.reclen) 4) then some o else none))

/-- The byte offset of word w of the record of a type and index. -/
def wordOffset (bs : List Byte) (type index w : Nat) : Nat :=
  ((directory bs (leAt bs 12 2)).findSome? (fun d =>
    if d.type = type then
      (List.range d.count).findSome? (fun i =>
        if leAt bs (d.offset + d.reclen * i) 4 = index then some (d.offset + d.reclen * i + 4 + 4 * w) else none)
    else none)).getD 0

/-- A trailing signature block is present: the last 256 bytes begin with ASCII EVSG (R390). -/
def hasBlock (bs : List Byte) : Bool :=
  decide (256 ≤ bs.length) && leAt bs (bs.length - 256) 4 == ascii4 0x45 0x56 0x53 0x47

/-- The bytes that precede any signature block (R347, R390). -/
def bodyLength (bs : List Byte) : Nat := if hasBlock bs then bs.length - 256 else bs.length

/-- A fault in a record's word: the type, the index, the word. -/
abbrev FieldFault := Nat × Nat × Nat

/-- The lowest-numbered word of a list of (word, fine) checks that is not fine. -/
def firstBad (checks : List (Nat × Bool)) : Option Nat := (checks.find? (fun c => !c.2)).map (fun c => c.1)

/-- A field's value lies in a range. -/
def within (v lo hi : Nat) : Bool := decide (lo ≤ v) && decide (v ≤ hi)

/-- A binary32 field lies in [lo, hi], given as ratios: a number, not below lo, not above hi. -/
def f32In (w : Word) (lo hi : Int × Nat) : Bool :=
  F32.le (F32.ofRatio lo.1 lo.2) w && F32.le w (F32.ofRatio hi.1 hi.2)

end Sys2Proof.Machine
end

