-- ==== Sys2Proof/Machine/Sampling.lean ====
section
/-!
DEFINITION. Local sampling, the resampler and the Gleaner (02_local_sampling.md).
-/
namespace Sys2Proof.Machine

/-- 16-bit quality fields of R186 used by several blocks: validity in [1:0], then the detail bits. -/
def qGood : Half := 0x0000
def qInvalid : Half := 0x0001
def qQuestionable : Half := 0x0003
def qOverflow : Half := 0x0004
def qFailure : Half := 0x0040
def qOldData : Half := 0x0080
def qInconsistent : Half := 0x0100
def qInaccurate : Half := 0x0200
def qSubstituted : Half := 0x0400
def qTestBit : Half := 0x0800

/-- Validity as a rank: 0 good, 1 questionable, 2 invalid; binary 10 ranks invalid (R71, R187). -/
def validityRank (q : Nat) : Nat :=
  match q % 4 with
  | 0 => 0
  | 3 => 1
  | _ => 2

/-- Words W0 to W2 of local channel c (R48). -/
def channelWords (p : Option Package) (c : Nat) : List Word := recOr p secChannel c [0, 0, 0]

/-- Words G0 and G1 of converter group g (R48). -/
def groupWords (p : Option Package) (g : Nat) : List Word := recOr p secGroup g [0, 0]

/-- ENABLE, SKEW_NS, EXT_GAIN_PPM, EXT_OFFSET of R48. -/
def chEnabled (ws : List Word) : Bool := bit (wAt ws 0) 0
def chSkew (ws : List Word) : Int := sfield (wAt ws 0) 27 16
def chGain (ws : List Word) : Int := sfield (wAt ws 1) 20 0
def chOffset (ws : List Word) : Int := sfield (wAt ws 2) 15 0

/-- The first word of a channel descriptor outside its range (R48). -/
def channelFault (ws : List Word) : Option Nat :=
  firstBad
    [(0, decide (-2000 ≤ chSkew ws) && decide (chSkew ws ≤ 2000)),
     (1, decide (-100000 ≤ chGain ws) && decide (chGain ws ≤ 100000)),
     (2, decide (-32767 ≤ chOffset ws))]

/-- The first word of a group descriptor outside its range (R48). -/
def groupFault (ws : List Word) : Option Nat :=
  firstBad [(1, !bit (wAt ws 0) 0 || within (field (wAt ws 1) 21 0) 500000 2400000)]

/-- Slice n, channel c and group g of the state. -/
def sliceOf (s : State) (n : Nat) : Slice := FMap.get s.samp.slices Slice.init n
def channelOf (s : State) (c : Nat) : Channel := FMap.get s.samp.channels ⟨some c, none, 0, []⟩ c
def groupOf (s : State) (g : Nat) : CalGroup := FMap.get s.samp.groups CalGroup.init g

def setSlice (n : Nat) (x : Slice) (s : State) : State :=
  { s with samp := { s.samp with slices := FMap.set s.samp.slices n x } }
def setChannel (c : Nat) (x : Channel) (s : State) : State :=
  { s with samp := { s.samp with channels := FMap.set s.samp.channels c x } }
def setGroup (g : Nat) (x : CalGroup) (s : State) : State :=
  { s with samp := { s.samp with groups := FMap.set s.samp.groups g x } }

/-- The group of a slice: 0 to 63 by sixteens, 64 + g the spare of group g (R38). -/
def groupOfSlice (n : Nat) : Nat := if n < 64 then n / 16 else n - 64

/-- The assigned instant t_i = aperture − SKEW_NS ns (R42) in units of 1/90 step, in which midpoints and kernel corners
are whole numbers. It is taken exact: R14 has the engine compute in whole steps, R344's example of t_i is no whole step, and
the model follows the example (DEDUCED, log 91). -/
def assigned90 (skew : Int) (c : Conversion) : Int := 90 * c.aperture - 576 * skew

/-- 2·T1·T2 times the integral of the kernel of R43 from −∞ to x, x in 1/90 step from the centre: T1 = 40,000,000,
T2 = 320,000, zero beyond 20,160,000 (35 µs), flat within 19,840,000. -/
def kernelInt (x : Int) : Int :=
  let b : Int := 20160000
  let a : Int := 19840000
  let t2 : Int := 320000
  if x ≤ -b then 0
  else if x ≤ -a then (x + b) * (x + b)
  else if x ≤ a then t2 * t2 + 2 * t2 * (x + a)
  else if x ≤ b then 2 * 40000000 * t2 - (b - x) * (b - x)
  else 2 * 40000000 * t2

/-- Weights and codes of the conversions about grid instant tg90 (R43): prev is the assigned instant before the head. -/
def kernelTerms (skew tg90 : Int) : Option Int → List Conversion → List (Int × Conversion)
  | _, [] => []
  | prev, c :: rest =>
    let t := assigned90 skew c
    let lo := match prev with
      | some p => (p + t) / 2
      | none => t
    let hi := match rest with
      | n :: _ => (t + assigned90 skew n) / 2
      | [] => t
    (kernelInt (hi - tg90) - kernelInt (lo - tg90), c) :: kernelTerms skew tg90 (some t) rest

/-- sat24 of R43. -/
def sat24 (x : Int) : Int := clampInt x (-8388608) 8388607

/-- The resampled output of R43 for one grid instant, with whether sat24 clamped; none where no conversion has weight.
The printed formula is evaluated exactly and rounded once (log 14). -/
def resample (offset gain : F32) (ext extOff : Int) (terms : List (Int × Conversion)) : Option (Int × Bool) :=
  let sw := terms.foldl (fun a p => a + p.1) 0
  if sw ≤ 0 then none
  else
    let o := F32.toRatio offset
    let g := F32.toRatio gain
    let num := terms.foldl (fun a p => a + p.1 * (p.2.code * o.2 - o.1)) 0
    let n := 64 * num * g.1 * (1000000 + ext)
    let d := (sw.toNat) * o.2 * g.2 * 1000000
    let y := roundHalfAway n d + extOff
    some (sat24 y, sat24 y != y)

/-- Whether the kernel window of tg meets a stall or reroute of a channel (R47, R55): the 35 µs window meets the stall
and the 3 µs until the switch, or tg lies in the deciding sheaf after the stall. Log 15. -/
def inGap (tg : Time) (gaps : List (Time × Time)) : Bool :=
  gaps.any (fun p =>
    (decide (p.1 - 224000 ≤ tg) && decide (tg ≤ p.1 + 243200)) || (decide (p.1 ≤ tg) && decide (tg < p.2)))

/-- Whether the kernel window of tg overlaps a VANA dip (R426), the one under way included. -/
def inDip (s : State) (tg : Time) : Bool :=
  s.power.vanaPast.any (fun p => decide (p.1 ≤ tg + 224000) && decide (tg - 224000 ≤ p.2)) ||
    (match s.power.vanaDip with
      | some a => decide (a ≤ tg + 224000)
      | none => false)

/-- The value and quality of sub-sample m of local channel c (R43, R47); none where nothing was converted. -/
def localSample (s : State) (c m : Nat) : Sample :=
  let ch := channelOf s c
  let tg := subInstant m
  let opened : Int := (Config.openSample c m).toInt
  match ch.source with
  | none => ⟨opened, (qInvalid ||| qFailure).zeroExtend 32⟩
  | some n =>
    let sl := sliceOf s n
    let ws := channelWords s.cfg.package c
    let terms := kernelTerms (chSkew ws) (90 * tg) none sl.convs
    let used := terms.filter (fun p => p.1 != 0)
    match resample sl.offset sl.gain (chGain ws) (chOffset ws) terms with
    | none => ⟨opened, (qInvalid ||| qFailure).zeroExtend 32⟩
    | some (y, clamped) =>
      let q : Half :=
        if inGap tg ch.gaps || inDip s tg then qInvalid ||| qFailure
        else if clamped || used.any (fun p => p.2.code == -131072 || p.2.code == 131071) then qQuestionable ||| qOverflow
        else if decide (msSteps (720 * 3600000) < tg - sl.calAt) then qQuestionable ||| qInaccurate
        else qGood
      ⟨y, q.zeroExtend 32⟩

/-- A history with sub-sample m put in its place, newest first; a value already there stays (R22: a frozen sheaf never
receives a sample). -/
def histPut (m : Nat) (x : Sample) : List (Nat × Sample) → List (Nat × Sample)
  | [] => [(m, x)]
  | (n, y) :: rest =>
    if n < m then (m, x) :: (n, y) :: rest
    else if n = m then (n, y) :: rest
    else (n, y) :: histPut m x rest

/-- The history of slot k. -/
def histOf (s : State) (k : Nat) : List (Nat × Sample) := FMap.get s.samp.hist [] k

/-- Sub-sample m of slot k. -/
def sampleAt (s : State) (k m : Nat) : Option Sample := ((histOf s k).find? (fun p => p.1 == m)).map (fun p => p.2)

/-- Stores sub-sample m of slot k (R19, R22). -/
def storeSample (k m : Nat) (x : Sample) (s : State) : State :=
  { s with samp := { s.samp with hist := FMap.set s.samp.hist k (histPut m x (histOf s k)) } }

/-- What a missing sub-sample holds (R22, R71): value 0, invalid, oldData. -/
def missingSample : Sample := ⟨0, 0x81#32⟩

/-- The raw history of slot k, and raw sub-sample m of it (R212). -/
def rawOf (s : State) (k : Nat) : List (Nat × RawSample) := FMap.get s.samp.raw [] k
def rawAt (s : State) (k m : Nat) : Option RawSample := ((rawOf s k).find? (fun p => p.1 == m)).map (fun p => p.2)
def storeRaw (k m : Nat) (x : RawSample) (s : State) : State :=
  { s with
    samp := { s.samp with raw := FMap.set s.samp.raw k ((m, x) :: (rawOf s k).filter (fun p => p.1 != m)) } }

/-- Tenon's raw value of local channel c at m: the code of the first conversion at or after the grid instant, invalid in
a stall window and in a VANA dip (R212). -/
def localRaw (s : State) (c m : Nat) : RawSample :=
  let ch := channelOf s c
  let tg := subInstant m
  match ch.source with
  | none => ⟨0, false⟩
  | some n =>
    match (sliceOf s n).convs.find? (fun v => decide (tg ≤ v.aperture)) with
    | none => ⟨0, false⟩
    | some v =>
      let stalled := ch.gaps.any (fun p => decide (p.1 ≤ v.aperture) && decide (v.aperture < p.2))
      let dip := s.power.vanaPast.any (fun p => decide (p.1 ≤ v.aperture) && decide (v.aperture ≤ p.2)) ||
        (match s.power.vanaDip with
          | some a => decide (a ≤ v.aperture)
          | none => false)
      ⟨v.code, !stalled && !dip⟩

/-- The chain of slice n shifts at instant t (R39, R304): the first 2 ms of its run, and 10 µs more until it converts again. That
the scan comes first in the run is the model's (DESIGN CHOICE, log 92). -/
def scanning (s : State) (n : Nat) (t : Time) : Bool :=
  match s.bist.queue with
  | r :: _ => r.started && field r.target 7 0 == 1 && field r.target 15 8 == n && decide (r.startAt ≤ t) &&
    decide (t ≤ r.startAt + usSteps 2010)
  | [] => false

/-- New conversions join their slices (R42), as 18-bit codes (R40); a slice makes none in its scan (R39). Those that no window of sheaf k or later can need leave, but one. -/
def addConversions (k : Nat) (convs : List Conversion) (s : State) : State :=
  let horizon := subInstant (3 * k) - usSteps 80
  let add (s : State) (c : Conversion) : State :=
    let sl := sliceOf s c.slice
    let ch := (List.range 64).find? (fun x => (channelOf s x).source = some c.slice)
    let s := setSlice c.slice { sl with convs := sl.convs ++ [c], last := some c } s
    match ch with
    | none => s
    | some x =>
      setChannel x { channelOf s x with lastConv := some c, lastSkew := chSkew (channelWords s.cfg.package x) } s
  let code (c : Conversion) : Conversion := { c with code := clampInt c.code (-131072) 131071 }
  let s := ((convs.filter (fun c => !scanning s c.slice c.aperture)).map code).foldl add s
  { s with
    samp := { s.samp with
      slices := s.samp.slices.mapVals (fun _ sl =>
        { sl with convs := sl.convs.dropWhile (fun c => decide (c.aperture < horizon)) }) } }

/-- Stores the three sub-samples of sheaf k on every enabled local channel, and Tenon's raw values (R43, R47, R212): a channel
that is newly bound misses those of a sheaf that began before (R28). -/
def storeLocal (k : Nat) (s : State) : State :=
  let chans := (List.range 64).filter (fun c => chEnabled (channelWords s.cfg.package c))
  chans.foldl (fun s c =>
    [3 * k, 3 * k + 1, 3 * k + 2].foldl (fun s m =>
      if k < FMap.get s.samp.boundFrom 0 c then storeRaw c m ⟨0, false⟩ (storeSample c m missingSample s)
      else storeRaw c m (localRaw s c m) (storeSample c m (localSample s c m) s)) s) s

/-- Histories keep this many sub-samples: Thresher's largest ring of 28,803 (R235) and the 14,400 that a record segment
or an estimator can still need. -/
def histDepth : Nat := 57603

/-- Old sub-samples leave the histories. -/
def trimHistories (k : Nat) (s : State) : State :=
  let low := 3 * k - histDepth
  { s with
    samp := { s.samp with
      hist := s.samp.hist.mapVals (fun _ l => l.takeWhile (fun p => decide (low ≤ p.1)))
      raw := s.samp.raw.mapVals (fun _ l => l.takeWhile (fun p => decide (low ≤ p.1))) } }

/-- A binary64 pattern of n / d (R270: analogue quantities are binary64), rounded to nearest even; exact zero as 0. -/
def f64OfRatio (n : Int) (d : Nat) : Quad :=
  if n = 0 then 0
  else
    let a := n.natAbs
    let e0 : Int := (Nat.log2 a : Int) - (Nat.log2 d : Int) - 53
    let p := scale2 a d (-e0)
    let q := p.1 / p.2
    let e := if q < 2 ^ 53 then e0 else e0 + 1
    let p := scale2 a d (-e)
    let m := roundEven p.1 p.2
    let e := if m = 2 ^ 53 then e + 1 else e
    let m := if m = 2 ^ 53 then 2 ^ 52 else m
    let sgn : Nat := if n < 0 then 2 ^ 63 else 0
    BitVec.ofNat 64 (sgn + (e + 1075).toNat * 2 ^ 52 + (m - 2 ^ 52))

/-- A binary64 pattern of the square root of n / d. -/
def f64OfSqrt (n d : Nat) : Quad :=
  let r := isqrt (n * d * 2 ^ 200)
  f64OfRatio (r : Int) (d * 2 ^ 100)

/-- Gleaner slot sheaf p and slice index of a group's sheaf in the pipeline (R49), as the group's state keeps them. -/
def slotSlice (g : Nat) (x : CalGroup) : Nat := 16 * g + x.slotIndex

/-- The slice under calibration or test in the slot under way. -/
def slotSubject (g : Nat) (x : CalGroup) : Nat :=
  match x.inserted with
  | some i => i.slice
  | none => slotSlice g x

/-- Calibration stops in a group, any slot in progress is abandoned (R55); what the spare feeds changes with the map, at the
boundary (R27, R436). -/
def stopGroup (s : State) (x : CalGroup) : CalGroup :=
  { x with running := false, stoppedAt := some s.tb.now, insertDue := none, fit := none }

/-- SPARE_OK of R322: the spare is healthy and free. -/
def spareOk (s : State) (g : Nat) : Bool :=
  let x := groupOf s g
  !(sliceOf s (64 + g)).failed && x.replaced.isNone && !x.standIn

/-- Applies a slice failure's map change (R27: the boundary after the deciding sheaf). -/
def applyFix (f : SliceChange) (s : State) : State :=
  let s := f.sources.foldl (fun s p => setChannel p.1 { channelOf s p.1 with source := p.2 } s) s
  let s := f.failed.foldl (fun s n => setSlice n { sliceOf s n with failed := true } s) s
  setGroup f.group { groupOf s f.group with replaced := f.replaced, standIn := false, inserted := none } s

/-- What a failure of slice n in sheaf d changes (R55), seen after the failures that wait for their boundary: sources, failed
slices, replaced index, and whether the slice in the slot under way returns with its previous coefficients: not once it has
its new ones, from slot sheaf 2,336 on (R51; DEDUCED, log 45). -/
def sliceChange (s : State) (n d : Nat) : SliceChange × Bool :=
  let s := s.samp.fixes.foldl (fun s f => applyFix f s) s
  let g := groupOfSlice n
  let x := groupOf s g
  let spare := 64 + g
  let subj := slotSubject g x
  let r := x.running
  let spareUp := !(sliceOf s spare).failed
  if n < 64 then
    let feeds := (channelOf s n).source = some n
    if ¬ feeds then
      -- the slice under calibration fails while the spare stands in: the spare stays
      (⟨d, g, [], [n], if x.standIn then some (n % 16) else x.replaced, r⟩, false)
    else if spareUp ∧ x.replaced.isNone then
      if x.standIn then (⟨d, g, [(subj, some subj), (n, some spare)], [n], some (n % 16), r⟩, decide (x.slotSheaf < 2336))
      else (⟨d, g, [(n, some spare)], [n], some (n % 16), r⟩, false)
    else (⟨d, g, [(n, none)], [n], x.replaced, r⟩, false)
  else if x.standIn then (⟨d, g, [(subj, some subj)], [n], none, r⟩, decide (x.slotSheaf < 2336))
  else
    match x.replaced with
    | some i => (⟨d, g, [(16 * g + i, none)], [n], x.replaced, r⟩, false)
    | none => (⟨d, g, [], [n], none, r⟩, false)

/-- A slice fails in sheaf d (R51, R55, R313), cause as in R346 0x0201 and 0x0202; the gap instant of a stall. -/
def failSlice (n d cause : Nat) (gap : Option Time) (s : State) : State :=
  if (sliceOf s n).failed ∨ s.samp.fixes.any (fun f => f.failed.contains n) then s
  else
    let g := groupOfSlice n
    let (f, back) := sliceChange s n d
    let subj := slotSubject g (groupOf s g)
    let s := if back then
        let sl := sliceOf s subj
        setSlice subj { sl with offset := sl.oldOffset, gain := sl.oldGain } s
      else s
    let s := match gap with
      | some t => f.sources.foldl (fun s p =>
          let ch := channelOf s p.1
          setChannel p.1 { ch with gaps := (t, sheafEnd d) :: ch.gaps } s) s
      | none => s
    let s := setGroup g (stopGroup s (groupOf s g)) s
    let s :=
      if n < 64 then
        let repl := match f.sources.find? (fun p => p.1 == n) with
          | some (_, some r) => r
          | some (_, none) => 0xFF
          | none => 64 + g
        sticky 1 0 (tally 0x0201 [item n, item n, item repl, item d, item cause] s)
      else sticky 1 2 (tally 0x0202 [item g, item n, item d, item cause] s)
    if s.glb.running then { s with samp := { s.samp with fixes := s.samp.fixes ++ [f] } } else applyFix f s

/-- Map changes due at boundary C_k (R31 step 1). -/
def applyFixes (k : Nat) (s : State) : State :=
  let due := s.samp.fixes.filter (fun f => decide (f.d ≤ k))
  due.foldl (fun s f => applyFix f s)
    { s with samp := { s.samp with fixes := s.samp.fixes.filter (fun f => decide (k < f.d)) } }

/-- Group g in the sheaf in the pipeline: its rotation begins with count 600 g, with a slot inserted by then (R49, R54). -/
def groupNow (s : State) (g : Nat) : CalGroup :=
  let x := groupOf s g
  if x.running ∧ x.started = false ∧ s.samp.gleaner = 600 * g then
    { x with started := true, slotSheaf := 0, slotIndex := 0, inserted := x.insertDue, insertDue := none }
  else x

/-- The Gleaner of group g at the boundary that ends its slot sheaf (R49, R50, R54): handover, handback, the next slot. -/
def gleanerStep (g : Nat) (s : State) : State :=
  let x := groupNow s g
  if ¬ x.running then s
  else
    if ¬ x.started then s
    else
      let subj := slotSubject g x
      let spareSlot := match x.inserted with
        | some i => decide (64 ≤ i.slice)
        | none => false
      let s := setGroup g x s
      if x.slotSheaf = 63 ∧ spareSlot = false then
        let sl := sliceOf s subj
        let s := setSlice subj { sl with oldOffset := sl.offset, oldGain := sl.gain } s
        let s := setChannel subj { channelOf s subj with source := some (64 + g) } s
        setGroup g { x with slotSheaf := 64, standIn := true } s
      else if x.slotSheaf = 2399 then
        let s := if spareSlot then s else setChannel subj { channelOf s subj with source := some subj } s
        let s := match x.fit with
          | some (o, k) =>
            setSlice (64 + g) { sliceOf s (64 + g) with
              offset := o, gain := k, calAt := (sliceOf s subj).calAt, calCount := (sliceOf s subj).calCount } s
          | none => s
        let q := if x.inserted.isSome then x.slotIndex else (x.slotIndex + 1) % 16
        let d := if x.inserted.isSome then x.delay + 2400 else x.delay
        setGroup g
          { x with
            slotSheaf := 0, slotIndex := q, delay := d, standIn := false, fit := none
            inserted := x.insertDue, insertDue := none } s
      else setGroup g { x with slotSheaf := x.slotSheaf + 1 } s

/-- The Gleaner at a boundary: every group, then the count (R49, R53). The sheaf committed at the first boundary carries count
0, so the count reads 1 behind it (R53 leaves open which sheaf does; DESIGN CHOICE, log 92). -/
def gleanerBoundary (s : State) : State :=
  let s := (List.range 4).foldl (fun s g => gleanerStep g s) s
  { s with samp := { s.samp with gleaner := s.samp.gleaner + 1 } }

/-- Sum and number of the codes averaged at point i: zero, +2.000 V, −2.000 V, check input or zero again (R50, R53). -/
def calPoint (ps : List (Int × Nat)) (i : Nat) : Int × Nat := (ps[i]?).getD (0, 0)

/-- Mean code at +2.000 V less mean code at −2.000 V, as a ratio. -/
def calSpan (ps : List (Int × Nat)) : Int × Nat :=
  let a := calPoint ps 1
  let b := calPoint ps 2
  (a.1 * b.2 - b.1 * a.2, a.2 * b.2)

/-- The coefficients of R51 as binary32 (the format CAL_STATUS reports, R345): O_s, G_s; none where the two reference
means are equal. -/
def calCoefficients (ps : List (Int × Nat)) : Option (F32 × F32) :=
  let z := calPoint ps 0
  let d := calSpan ps
  if z.2 = 0 ∨ d.2 = 0 ∨ d.1 ≤ 0 then none
  else some (F32.ofRatio z.1 z.2, F32.ofRatio (2097152 * d.2) (10 * d.1.toNat))

/-- Calibration in range: |O_s| ≤ 1,024 LSB and |G_s − 1| ≤ 0.01 (R51). -/
def calInRange (ps : List (Int × Nat)) : Bool :=
  let z := calPoint ps 0
  let d := calSpan ps
  decide (0 < z.2) && decide (0 < d.1) && decide (z.1.natAbs ≤ 1024 * z.2) &&
    decide (99 * 10 * d.1 ≤ 100 * (2097152 * (d.2 : Int))) && decide (100 * (2097152 * (d.2 : Int)) ≤ 101 * 10 * d.1)

/-- The check reading in µV, corrected with the new coefficients, as a ratio (R51): 1 LSB is 5 V / 2^18. -/
def checkReading (ps : List (Int × Nat)) (c : F32 × F32) : Int × Nat :=
  let o := F32.toRatio c.1
  let g := F32.toRatio c.2
  let p := calPoint ps 3
  ((p.1 * o.2 - o.1 * p.2) * g.1 * 5000000, p.2 * o.2 * g.2 * 262144)

/-- What a slice without error reads at the four points: 4.000 V apart in LSB (R51). A start that does not list a slice's
readings found these. -/
def idealPoints : List (Int × Nat) := [(0, 10), (1048576, 10), (-1048576, 10), (0, 10)]

/-- The cold-start calibration of slice n (R53): its coefficients, or the failure of R51. A spare that fails reports the nearest
cause R346 has, 1 (DESIGN CHOICE, log 92). -/
def coldCalibrate (n : Nat) (ps : List (Int × Nat)) (s : State) : State :=
  match calCoefficients ps with
  | none => failSlice n 0 1 none (sticky 1 1 s)
  | some c =>
    if ¬ calInRange ps then failSlice n 0 1 none (sticky 1 1 s)
    else setSlice n { sliceOf s n with offset := c.1, gain := c.2, calAt := s.tb.now } s

/-- The codes of slice n whose apertures lie in sheaf k: their sum and their number. -/
def codesIn (s : State) (n k : Nat) : Int × Nat :=
  let cs := (sliceOf s n).convs.filter (fun c => sheafOf c.aperture == k)
  (cs.foldl (fun a c => a + c.code) 0, cs.length)

/-- The calibration points of the slot under way take sheaf k (R50): each has 48 sheaves of settling and 520 averaged. -/
def gatherPoint (g k : Nat) (s : State) : State :=
  let x := groupOf s g
  if ¬ (x.running ∧ x.standIn ∧ x.inserted.isNone ∧ 64 ≤ x.slotSheaf ∧ x.slotSheaf < 2336) then s
  else
    let i := (x.slotSheaf - 64) / 568
    let ps := if x.slotSheaf = 64 then List.replicate 4 (0, 0) else x.points
    let c := codesIn s (slotSlice g x) k
    setGroup g { x with
      points := if (x.slotSheaf - 64) % 568 < 48 then ps else modAt (fun p => (p.1 + c.1, p.2 + c.2)) i ps } s

/-- One sub-sample of an overlap (R52): the spare's and the slice's values as the channel would carry them, the spare's code
without coefficients and the slice's calibrated value. -/
def overlapAdd (s : State) (g n m : Nat) (v : OverlapSums) : OverlapSums :=
  let ws := channelWords s.cfg.package n
  let terms (i : Nat) : List (Int × Conversion) :=
    kernelTerms (chSkew ws) (90 * subInstant m) none (sliceOf s i).convs
  let sp := sliceOf s (64 + g)
  let sl := sliceOf s n
  let a := terms (64 + g)
  let b := terms n
  match resample sp.offset sp.gain (chGain ws) (chOffset ws) a, resample sl.offset sl.gain (chGain ws) (chOffset ws) b,
    resample 0#32 F32.one 0 0 a, resample sl.offset sl.gain 0 0 b with
  | some p, some q, some x, some y =>
    let d := p.1 - q.1
    ⟨v.n + 1, v.sumD + d, v.sumD2 + d.natAbs * d.natAbs, v.sx + x.1, v.sy + y.1, v.sxx + x.1.natAbs * x.1.natAbs,
      v.sxy + x.1 * y.1⟩
  | _, _, _, _ => v

/-- The overlap of the slot under way takes the sub-samples of sheaf k (R50, R52). -/
def gatherOverlap (g k : Nat) (s : State) : State :=
  let x := groupNow s g
  let n := slotSubject g x
  if ¬ (x.running ∧ x.started ∧ n < 64 ∧ (x.slotSheaf < 64 ∨ 2336 ≤ x.slotSheaf)) then s
  else
    let v := if x.slotSheaf = 0 ∨ x.slotSheaf = 2336 then OverlapSums.init else x.overlap
    setGroup g { x with overlap := [3 * k, 3 * k + 1, 3 * k + 2].foldl (fun v m => overlapAdd s g n m v) v } s

/-- What the Gleaner measures in sheaf k, group by group (R50, R52). -/
def gleanerMeasure (k : Nat) (s : State) : State :=
  (List.range 4).foldl (fun s g => gatherOverlap g k (gatherPoint g k s)) s

/-- The spare's transfer fitted at overlap-out (R52): the least-squares line of y = (x − O) G; where the input did not vary,
the gain stays and O is fitted alone. R52 names no method (DESIGN CHOICE, log 92). -/
def fitTransfer (v : OverlapSums) (gain : F32) : F32 × F32 :=
  let num : Int := v.n * v.sxy - v.sx * v.sy
  let den : Int := v.n * v.sxx - v.sx * v.sx
  let r := F32.toRatio gain
  let a : Int × Int := if 0 < num ∧ 0 < den then (num, den) else (r.1, r.2)
  (F32.ofRatio (v.sx * a.1 - v.sy * a.2) (64 * v.n * a.1.toNat), F32.ofRatio a.1 a.2.toNat)

/-- The result of the calibration points of the slot under way (R51). -/
def calibrationResult (g : Nat) (s : State) : State :=
  let x := groupOf s g
  let m := x.points
  if ¬ (x.running ∧ x.standIn ∧ x.inserted.isNone ∧ x.slotSheaf = 2336) then s
  else
    let n := slotSlice g x
    match calCoefficients m with
    | none => failSlice n s.glb.cur 1 none (sticky 1 1 s)
    | some c =>
      if ¬ calInRange m then failSlice n s.glb.cur 1 none (sticky 1 1 s)
      else
        let r := checkReading m c
        let uv := roundHalfAway r.1 r.2
        let sl := sliceOf s n
        let gw := groupWords s.cfg.package g
        let s := setSlice n
          { sl with
            offset := c.1, gain := c.2, calCount := s.samp.gleaner, calAt := s.tb.now
            check := if bit (wAt gw 0) 0 then uv else sl.check } s
        let decl : Int := (field (wAt gw 1) 21 0 : Nat)
        if bit (wAt gw 0) 0 ∧ decl * r.2 < 1000 * (r.1 - decl * r.2).natAbs then
          sticky 1 1 (tally 0x0203 [item n, item uv, item decl] s)
        else s

/-- The comparison of an overlap of the slot under way (R52, R55). -/
def overlapResult (g : Nat) (s : State) : State :=
  let x := groupOf s g
  let n := slotSubject g x
  let v := x.overlap
  let agrees := decide (0 < v.n) && decide (v.sumD.natAbs ≤ 16 * 64 * v.n) && decide (v.sumD2 ≤ v.n * 2048 * 2048)
  let detail (out : Int) : List Quad :=
    [item n, item out, f64OfRatio v.sumD (v.n * 64), f64OfSqrt v.sumD2 (v.n * 64 * 64)]
  if ¬ (x.running ∧ x.started) then s
  else if x.slotSheaf = 63 ∧ ¬ x.standIn then
    if agrees then s else tally 0x0204 (detail 0) s
  else if x.slotSheaf = 2399 ∧ x.standIn then
    if agrees then setGroup g { x with fit := some (fitTransfer v (sliceOf s (64 + g)).gain) } s
    else
      let s := tally 0x0204 (detail 1) s
      let s := sticky 1 2 (tally 0x0202 [item g, item (64 + g), item s.glb.cur, item 1] s)
      let f : SliceChange := ⟨s.glb.cur, g, [(n, some n)], [64 + g], none, x.running⟩
      setGroup g (stopGroup s x) { s with samp := { s.samp with fixes := s.samp.fixes ++ [f] } }
  else s

/-- The state CAL_STATUS reports for a slice, and the channel it feeds (R436). -/
def calState (s : State) (n : Nat) : Nat × Nat :=
  let g := groupOfSlice n
  let x := groupOf s g
  if (sliceOf s n).failed then (3, 0xFF)
  else if n < 64 then (if (channelOf s n).source = some n then (0, n) else (2, 0xFF))
  else if x.standIn then (1, slotSubject g x)
  else
    match x.replaced with
    | some i => (0, 16 * g + i)
    | none => (4, 0xFF)

/-- The CAL_STATUS buffer of R345, 3,232 bytes. -/
def calStatusBytes (s : State) : List Byte :=
  let slices := (List.range 68).flatMap (fun n =>
    let st := calState s n
    let sl := sliceOf s n
    leBytes 1 st.1 ++ leBytes 1 st.2 ++ zeros 2 ++ leBytes 4 sl.offset.toNat ++ leBytes 4 sl.gain.toNat ++
      leBytes 8 sl.calCount ++ leBytes 4 (twos 32 sl.check) ++ zeros 8)
  let groups := (List.range 4).flatMap (fun g =>
    let x := groupOf s g
    leBytes 1 (if x.running then 1 else 0) ++ leBytes 1 (if spareOk s g then 1 else 0) ++
      leBytes 1 (if x.replaced.isSome then 1 else 0) ++ leBytes 1 (x.replaced.getD 0) ++ zeros 4)
  let chans := (List.range 64).flatMap (fun c =>
    let ws := channelWords s.cfg.package c
    leBytes 1 ((channelOf s c).source.getD 0xFF) ++ zeros 3 ++
      wordBytes [wAt ws 0 &&& 0x0FFF0001#32, wAt ws 1 &&& 0x001FFFFF#32, wAt ws 2 &&& 0x0000FFFF#32])
  slices ++ groups ++ chans

/-- The newest quality field of a channel (R57): that of its newest sub-sample; a channel with ENABLE 0 keeps none, and the
quality is what R47 gives at the end of the last frozen sheaf. Invalid where it has no slice. -/
def channelQuality (s : State) (c : Nat) : Half :=
  let k := if s.glb.frozen then s.glb.cur else s.glb.cur - 1
  match (channelOf s c).source, histOf s c with
  | some _, (_, x) :: _ => x.quality.truncate 16
  | some _, [] => (localSample s c (3 * k + 2)).quality.truncate 16
  | none, _ => qInvalid ||| qFailure

/-- The result bytes of SPOT_CONVERT (R57, R344): 44 bytes. v_i is that of R43 in output units; a channel without a slice keeps
the assigned instant of its last conversion. -/
def spotResult (s : State) (c : Nat) : List Byte :=
  let ch := channelOf s c
  let conv : Option Conversion := match ch.source with
    | some n => match (sliceOf s n).last with
      | some v => some v
      | none => ch.lastConv
    | none => ch.lastConv
  match conv with
  | none =>
    zeros 4 ++ leBytes 1 (ch.source.getD 0xFF) ++ zeros 1 ++ leBytes 2 (qInvalid ||| qFailure).toNat ++ zeros 36
  | some v =>
    let sl := sliceOf s v.slice
    let o := F32.toRatio sl.offset
    let g := F32.toRatio sl.gain
    let y := roundHalfAway (64 * (v.code * o.2 - o.1) * g.1) (o.2 * g.2)
    let ti : Int := v.aperture * 10240 - (if ch.source.isSome then chSkew (channelWords s.cfg.package c) else ch.lastSkew) * 65536
    leBytes 4 (twos 32 v.code) ++ leBytes 1 v.slice ++ zeros 1 ++ leBytes 2 (channelQuality s c).toNat ++
      timeBytes v.aperture ++ timeBytesUnits ti ++ leBytes 4 (twos 32 y)

/-- The slot of an inserted self-test is asked for at the next slot start (R54). -/
def insertSlot (n : Nat) (s : State) : State :=
  let g := groupOfSlice n
  setGroup g { groupOf s g with insertDue := some ⟨n⟩ } s

end Sys2Proof.Machine
end

