-- ==== Sys2Proof/Machine/Ingest.lean ====
section
/-!
DEFINITION. Process-bus ports, sampled values, PRP and GOOSE (03_process_bus_ingest.md, R349, R350).
-/
namespace Sys2Proof.Machine

/-- Words P0 and P1 of port n (R59). -/
def portWords (p : Option Package) (n : Nat) : List Word := recOr p secPort n [0x00000004#32, 0]
def portMode (ws : List Word) : Nat := field (wAt ws 0) 1 0
def portRole (ws : List Word) : Nat := field (wAt ws 0) 3 3
def portPrp (ws : List Word) : Bool := bit (wAt ws 0) 4
def portPartner (ws : List Word) : Nat := field (wAt ws 0) 9 5
def portPtp (ws : List Word) : Bool := bit (wAt ws 0) 10

/-- The first word of port n's descriptor at fault: SRC_MAC_SEL not 0, or a pair rule of R59. -/
def portFault (p : Option Package) (n : Nat) (ws : List Word) : Option Nat :=
  let q := portWords p (portPartner ws)
  let pairOk := !portPrp ws ||
    (portPrp q && portPartner q == n && portPartner ws != n && portMode q == portMode ws &&
      portRole ws == 0 && portRole q == 0)
  firstBad [(0, pairOk), (1, wAt ws 1 == 0)]

/-- PTP_EN on at most 4 ports (R59). -/
def ptpPorts (p : Option Package) : List Nat := (List.range 32).filter (fun n => portPtp (portWords p n))

/-- MODE, ROLE, PRP_EN and PRP_PARTNER equal in two packages (R60). -/
def portFixedEq (a b : List Word) : Bool :=
  field (wAt a 0) 1 0 == field (wAt b 0) 1 0 && field (wAt a 0) 9 3 == field (wAt b 0) 9 3

/-- Port n of the state. -/
def portOf (s : State) (n : Nat) : Port := FMap.get s.ing.ports Port.init n
def setPort (n : Nat) (x : Port) (s : State) : State :=
  { s with ing := { s.ing with ports := FMap.set s.ing.ports n x } }

/-- The lower port of the PRP pair that port n is one LAN of, if it is (R73). -/
def prpPair (p : Option Package) (n : Nat) : Option Nat :=
  let ws := portWords p n
  if portPrp ws then some (min n (portPartner ws)) else none

/-- Two ports name the same receiving port or pair (R66). -/
def samePort (p : Option Package) (a b : Nat) : Bool :=
  a == b || (match prpPair p a, prpPair p b with
    | some x, some y => x == y
    | _, _ => false)

/-- Control words of an SV subscription (R65, R348): S0 to S5, SVID_LEN, svID, M0 to M23. -/
def svEnabled (ws : List Word) : Bool := bit (wAt ws 0) 0
def svPort (ws : List Word) : Nat := field (wAt ws 0) 12 8
def svVlan (ws : List Word) : Nat := field (wAt ws 0) 27 16
def svAppid (ws : List Word) : Nat := field (wAt ws 1) 15 0
def svRate (ws : List Word) : Nat := field (wAt ws 1) 16 16
def svAsduN (ws : List Word) : Nat := field (wAt ws 1) 19 17
def svNch (ws : List Word) : Nat := field (wAt ws 1) 24 20
def svSyncReq (ws : List Word) : Nat := field (wAt ws 1) 26 25
def svAcceptTest (ws : List Word) : Bool := bit (wAt ws 1) 27
def svMac (ws : List Word) : Mac := BitVec.ofNat 48 ((wAt ws 2).toNat * 65536 + field (wAt ws 3) 15 0)
def svLoss (ws : List Word) : Nat := field (wAt ws 3) 24 16
def svConfRev (ws : List Word) : Word := wAt ws 4
def svDmax (ws : List Word) : Nat := field (wAt ws 5) 11 0
def svStation (ws : List Word) : Nat := field (wAt ws 5) 23 16
def svIdLen (ws : List Word) : Nat := (wAt ws 6).toNat
def svId (ws : List Word) : List Byte := (wordBytes ((ws.drop 7).take 16)).take (svIdLen ws)
def svMap (ws : List Word) (i : Nat) : Word := wAt ws (23 + i)
def mapSlot (m : Word) : Nat := field m 10 0
def mapKind (m : Word) : Nat := field m 12 12
def mapOn (m : Word) : Bool := bit m 15

/-- Samples in a second of a stream (R64). -/
def svPerSec (ws : List Word) : Nat := if svRate ws = 1 then 14400 else 4800

/-- The mapped (channel, slot, kind) of an entry (R65). -/
def svMapped (ws : List Word) : List (Nat × Nat × Nat) :=
  ((List.range (min (svNch ws) 24)).filter (fun i => mapOn (svMap ws i))).map
    (fun i => (i, mapSlot (svMap ws i), mapKind (svMap ws i)))

/-- Enabled SV entries of a package (R65). -/
def svEntries (p : Option Package) : List (Nat × List Word) :=
  (indicesOf p secSv).filterMap (fun i =>
    let ws := recOr p secSv i []
    if svEnabled ws then some (i, ws) else none)

/-- A string of 1 to 64 octets; an entry that is not in use may keep the empty string of reset (log 39). -/
def octetsOk (enabled : Bool) (n : Nat) : Bool := within n (if enabled then 1 else 0) 64

/-- The first word of an SV descriptor outside its range (R64, R65), in use or not. -/
def svFault (ws : List Word) : Option Nat :=
  firstBad
    ([(0, decide (svVlan ws ≤ 4094)),
      (1, within (svAppid ws) 0x4000 0x7FFF &&
        (if svRate ws = 1 then [1, 2, 3, 6].contains (svAsduN ws) else svAsduN ws == 1) &&
        within (svNch ws) 1 24 && within (svSyncReq ws) 1 2),
      (3, within (svLoss ws) 2 480), (5, within (svDmax ws) 1 3200), (6, octetsOk (svEnabled ws) (svIdLen ws))] ++
      (svMapped ws).map (fun p => (23 + p.1, decide (64 ≤ p.2.1))))

/-- a of R20, R21, R64 in ns. -/
def svOffsetNs (ws : List Word) : Int :=
  if svRate ws = 0 then -208333 else if svAsduN ws = 6 then 138889 else if svAsduN ws = 2 then 0 else -69444

/-- Minimum L_pipe in µs of a stream (R20): max(D_max, D_max + a + 180 µs) rounded up. -/
def svMinLpipe (ws : List Word) : Nat :=
  let d : Int := (svDmax ws : Nat)
  let x := d * 1000 + svOffsetNs ws + 180000
  let up : Int := -((-x) / 1000)
  (if up < d then d else up).toNat

/-- Two SV entries have the same matching key (R66). -/
def svSameKey (p : Option Package) (a b : List Word) : Bool :=
  samePort p (svPort a) (svPort b) && svVlan a == svVlan b && svMac a == svMac b && svAppid a == svAppid b &&
    svId a == svId b

/-- A frame's key is that of an entry (R66). -/
def svMatches (p : Option Package) (f : Frame) (asdus : List Asdu) (ws : List Word) : Bool :=
  samePort p f.port (svPort ws) && f.vlan == svVlan ws && f.dst == svMac ws && f.appid == svAppid ws &&
    (match asdus with
      | a :: _ => a.svId == svId ws
      | [] => false)

/-- Dovetail publications and subscriptions (R351). -/
def dpEnabled (ws : List Word) : Bool := bit (wAt ws 0) 15
def dpSlot (ws : List Word) : Nat := field (wAt ws 0) 10 0
def dpPorts (ws : List Word) : Nat := field (wAt ws 0) 14 11
def dsEnabled (ws : List Word) : Bool := bit (wAt ws 0) 0
def dsEngine (ws : List Word) : Nat := field (wAt ws 0) 6 1
def dsPort (ws : List Word) : Nat := field (wAt ws 0) 8 7
def dsKind (ws : List Word) : Nat := field (wAt ws 0) 9 9
def dsRate (ws : List Word) : Nat := field (wAt ws 0) 10 10
def dsSrcSlot (ws : List Word) : Nat := field (wAt ws 1) 10 0
def dsLocal (ws : List Word) : Nat := field (wAt ws 1) 26 16

/-- Enabled Dovetail subscriptions and publications. -/
def dsEntries (p : Option Package) : List (Nat × List Word) :=
  (indicesOf p secDvtSub).filterMap (fun i =>
    let ws := recOr p secDvtSub i [0, 0]
    if dsEnabled ws then some (i, ws) else none)
def dpEntries (p : Option Package) : List (Nat × List Word) :=
  (indicesOf p secDvtPub).filterMap (fun i =>
    let ws := recOr p secDvtPub i [0]
    if dpEnabled ws then some (i, ws) else none)

/-- How a slot is fed: a local channel, an enabled SV entry with the map's kind, a Dovetail subscription, nothing. -/
inductive SlotSource where
  | localChannel
  | sv (entry : Nat) (ws : List Word) (kind : Nat)
  | dovetail (entry : Nat) (ws : List Word)
  | unfed
  deriving DecidableEq, Repr

/-- The source of slot k under a package (R65, R137). -/
def slotSource (p : Option Package) (k : Nat) : SlotSource :=
  if k < 64 then .localChannel
  else
    match (svEntries p).findSome? (fun e =>
        ((svMapped e.2).find? (fun m => m.2.1 == k)).map (fun m => SlotSource.sv e.1 e.2 m.2.2)) with
    | some x => x
    | none =>
      match (dsEntries p).find? (fun e => dsLocal e.2 == k) with
      | some e => .dovetail e.1 e.2
      | none => .unfed

/-- A slot carries position 0 only: 4,800/s SV, and Dovetail RATE 1 (R68, R351). -/
def slotSlow (p : Option Package) (k : Nat) : Bool :=
  match slotSource p k with
  | .sv _ ws _ => svRate ws == 0
  | .dovetail _ ws => dsRate ws == 1
  | _ => false

/-- The entry of an ASDU's channel that feeds slot k. -/
def svChannel (ws : List Word) (k : Nat) : Option (Nat × Nat × Nat) := (svMapped ws).find? (fun m => m.2.1 == k)

/-- Slot k has one and the same source under two packages (R29): the stream by its matching key, and the channel. -/
def sameFeed (p q : Option Package) (k : Nat) : Bool :=
  match slotSource p k, slotSource q k with
  | .localChannel, .localChannel => chEnabled (channelWords p k) == chEnabled (channelWords q k)
  | .sv _ a _, .sv _ b _ => svSameKey q a b && svChannel a k == svChannel b k
  | .dovetail _ a, .dovetail _ b => a == b
  | .unfed, .unfed => true
  | _, _ => false

/-- The package armed beside the one in force, with its sheaf j (R29). -/
def armedPackage (s : State) : Option (Nat × Package) :=
  (s.cfg.changes.findSome? (fun c =>
    match c.change with
    | .package j _ => some j
    | _ => none)).bind (fun j => s.cfg.staged.map (fun p => (j, p)))

/-- A sample of sheaf k reaches slot's buffer under the running or the armed package (R28, R29): the running one stores
sheaves before j, the armed one those from j on, and a slot that it binds newly has none of a sheaf that began before the
package was armed. -/
def storesFor (s : State) (new : Bool) (slot k : Nat) : Bool :=
  match armedPackage s with
  | none => !new && decide (FMap.get s.samp.boundFrom 0 slot ≤ k)
  | some (j, q) =>
    if new then decide (j ≤ k) && (sameFeed s.cfg.package (some q) slot || decide (s.cfg.armedFrom ≤ k))
    else decide (k < j) && decide (FMap.get s.samp.boundFrom 0 slot ≤ k)

/-- A stream's state in the set of the running or the armed package (R29). -/
def streamOf (s : State) (new : Bool) (i : Nat) : Stream :=
  FMap.get (if new then s.ing.streamsNew else s.ing.streams) Stream.init i
def setStream (new : Bool) (i : Nat) (x : Stream) (s : State) : State :=
  if new then { s with ing := { s.ing with streamsNew := FMap.set s.ing.streamsNew i x } }
  else { s with ing := { s.ing with streams := FMap.set s.ing.streams i x } }

/-- Sheaf k still accepts samples (R22). -/
def acceptsSheaf (s : State) (k : Nat) : Bool := decide (s.glb.cur < k) || (s.glb.cur == k && !s.glb.frozen)

/-- The sub-sample of smpCnt n in a frame that arrived at t (R68); none before timebase 0. -/
def placeCount (rate n : Nat) (t : Time) : Option Nat :=
  let sec := (rate * (t + 3200000000) - n * 6400000000) / (rate * 6400000000)
  if sec < 0 then none else some (14400 * sec.toNat + (if rate = 14400 then n else 3 * n))

/-- λ of R69: arrival minus the sample instant of the frame's last ASDU. -/
def svLambda (rate n : Nat) (t : Time) : Time :=
  match placeCount rate n t with
  | some m => t - subInstant m
  | none => 0

/-- The stored quality of a received sample (R71). -/
def svQuality (ws : List Word) (smpSynch : Nat) (q : Word) : Word :=
  let inval : Word := (q &&& 0xFFFFFFFC#32) ||| 1
  if smpSynch < svSyncReq ws then inval ||| 0x100
  else if bit q 11 ∧ ¬ svAcceptTest ws then inval
  else if field q 1 0 = 2 then inval
  else q

/-- Received validity invalid or reserved (R71). -/
def svReceivedBad (ws : List Word) (smpSynch : Nat) (q : Word) : Bool :=
  decide (svSyncReq ws ≤ smpSynch) && !(bit q 11 && !svAcceptTest ws) && (field q 1 0 == 1 || field q 1 0 == 2)

/-- Stores the mapped channels of one ASDU at sub-sample m, where the entry of the running or the armed package stores the
sheaf (R29); a received validity invalid is reported whatever it stores (R71). -/
def storeAsdu (new : Bool) (ws : List Word) (a : Asdu) (m : Nat) (s : State) : State :=
  (svMapped ws).foldl (fun s p =>
    let d := (a.data[p.1]?).getD (0, 0)
    let s := if storesFor s new p.2.1 (m / 3) then storeSample p.2.1 m ⟨wInt d.1, svQuality ws a.smpSynch d.2⟩ s else s
    if svReceivedBad ws a.smpSynch d.2 then sticky 1 4 s else s) s

/-- One ASDU of an accepted frame: early, late or placed (R22, R68, R69). -/
def placeAsdu (new : Bool) (ws : List Word) (t : Time) (s : State) (a : Asdu) : State :=
  match placeCount (svPerSec ws) a.smpCnt t with
  | none => count 130 1 s
  | some m =>
    if usSteps 50 < subInstant m - t then count 129 1 s
    else if acceptsSheaf s (m / 3) then storeAsdu new ws a m s
    else count 130 1 s

/-- The first failing check of R67: 0 none, 1 confRev, 2 another. -/
def svCheck (ws : List Word) (asdus : List Asdu) : Nat :=
  let n := svAsduN ws
  let counts := asdus.map (fun a => a.smpCnt)
  let first := (counts[0]?).getD 0
  if asdus.length ≠ n ∨ asdus.any (fun a => a.svId != svId ws) then 2
  else if asdus.any (fun a => a.confRev != svConfRev ws) then 1
  else if asdus.any (fun a => match a.smpRate with
      | some r => r != svPerSec ws
      | none => false) then 2
  else if asdus.any (fun a => a.dataLen != 8 * svNch ws) then 2
  else if first % n ≠ 0 ∨ counts ≠ (List.range n).map (fun i => first + i) then 2
  else if counts.any (fun c => decide (svPerSec ws ≤ c)) then 2
  else 0

/-- Δn of R70 reduced into (−rate/2, +rate/2]. -/
def countStep (rate a b : Nat) : Int :=
  let d : Int := ((b : Int) - (a : Int)) % (rate : Int)
  if 2 * d > rate then d - rate else d

/-- Whole sheaf periods between two instants. -/
def periodsBetween (a b : Time) : Int := (b - a) * 3 / 4000000

/-- Steps in ns, to the nearest. -/
def stepsNs (t : Time) : Int := roundHalfAway (t * 5) 32

/-- One entry's handling of a matched frame (R67 to R72). The first confRev failure of a stream that has had no good frame
yet writes its entry too, which the rule's 'after a good frame' leaves open (DESIGN CHOICE, log 95). shift: the frame arrived
before timebase steps of so much; its samples belong to no sheaf of the new timescale, and its arrival is kept on it (log 96). -/
def svEntryFrame (new : Bool) (i : Nat) (ws : List Word) (f : Frame) (asdus : List Asdu) (shift : Option Time) (s : State) :
    State :=
  let st := streamOf s new i
  let old := shift.isSome
  let arrived := f.tArr + shift.getD 0
  let rate := svPerSec ws
  match svCheck ws asdus with
  | 1 =>
    let s := count 128 1 s
    if st.confRev.isSome then s
    else
      let got := ((asdus.find? (fun a => a.confRev != svConfRev ws)).map (fun a => a.confRev)).getD 0
      setStream new i { st with confRev := some got }
        (tally 0x0301 [item i, got.zeroExtend 64, (svConfRev ws).zeroExtend 64] s)
  | 0 =>
    let firstN := ((asdus.head?).map (fun a => a.smpCnt)).getD 0
    let lastN := ((asdus.getLast?).map (fun a => a.smpCnt)).getD 0
    let lam := svLambda rate lastN f.tArr
    let back := match st.prev with
      | some (n, _) => decide (countStep rate n firstN ≤ 0)
      | none => false
    if back then count 128 1 s
    else
      let jump := match st.prev with
        | some (_, l) => (old || !st.afterStep) && decide ((usSteps 500) < (lam - l).natAbs)
        | none => false
      let s := match st.prev with
        | some (_, l) =>
          if jump then count 133 1 (sticky 1 5 (tally 0x0304 [item i, item (stepsNs l), item (stepsNs lam)] s)) else s
        | none => s
      let s := if st.lost then
          tally 0x0303 [item i, item (periodsBetween (st.lastArr.getD st.since) arrived)] s
        else s
      let s := setStream new i
        { st with
          prev := some (lastN, lam), lastArr := some arrived, lost := false, confRev := none, afterStep := st.afterStep && old } s
      let s := if usSteps (svDmax ws) < lam then count 132 1 s else s
      if old then s else asdus.foldl (placeAsdu new ws f.tArr) s
  | _ => count 128 1 s

/-- The class of an accepted frame (R62). -/
def trafficClass (f : Frame) : Nat :=
  match f.body with
  | .sv _ => 2
  | .goose _ => 1
  | _ => 0

/-- The frame that is served next (R63): ports in turn behind the one served last, in a port class 0, then 1, then 2, in a
class the oldest. -/
def nextServed (s : State) : Option (Nat × Frame) :=
  ((List.range 32).map (fun i => (s.ing.served + 1 + i) % 32)).findSome? (fun n =>
    ([0, 1, 2].findSome? (fun c => (portOf s n).waiting.find? (fun f => trafficClass f == c))).map (fun f => (n, f)))

/-- Frame f leaves the buffer of port n (R62, R63). -/
def takeFrame (n : Nat) (f : Frame) (s : State) : State :=
  let x := portOf s n
  let s := setPort n
    { x with
      waiting := x.waiting.erase f
      used := modAt (fun u => u - f.len) (trafficClass f) x.used } s
  { s with ing := { s.ing with served := n, oldFrames := s.ing.oldFrames.eraseP (fun p => p.1 == f) } }

/-- The steps of the timebase since a waiting sampled-value frame arrived: none where there was no step. -/
def frameShift (s : State) (f : Frame) : Option Time := (s.ing.oldFrames.find? (fun p => p.1 == f)).map (fun p => p.2)

/-- The frame of port n that p names is served where its turn has come, with whether it is a sampled-value frame that arrived
before the last timebase step; none otherwise: a row that names another frame does nothing (log 44). -/
def serve (n : Nat) (p : Frame → Bool) (s : State) : Option (Bool × State) :=
  match nextServed s with
  | some (m, f) =>
    if m = n ∧ p f = true then
      let old := (frameShift s f).isSome
      some (old, let t := takeFrame n f s; if old then t else advance f.tArr t)
    else none
  | none => none

/-- A sampled-value frame reaches matching (R66 to R72), under the running and, from acceptance of a commit, the armed
package (R29), whose counters, sticky bits and entries the running entry raises until C_(j−1). -/
def svFrameIn (f : Frame) (s : State) : State :=
  let shift := frameShift s f
  match f.body, serve f.port (fun g => g == f) s with
  | .sv asdus, some (_, s) =>
    let s := (svEntries s.cfg.package).foldl (fun s e =>
      if svMatches s.cfg.package f asdus e.2 then svEntryFrame false e.1 e.2 f asdus shift s else s) s
    match armedPackage s with
    | none => s
    | some (_, p) =>
      (svEntries (some p)).foldl (fun s e =>
        if svMatches (some p) f asdus e.2 then
          let t := svEntryFrame true e.1 e.2 f asdus shift s
          { s with samp := t.samp, ing := t.ing }
        else s) s
  | _, _ => s

/-- Marks the sub-samples of sheaf k that a stream has not delivered (R22, R71). -/
def markMissing (k : Nat) (s : State) : State :=
  (svEntries s.cfg.package).foldl (fun s e =>
    let subs := if svRate e.2 = 1 then [3 * k, 3 * k + 1, 3 * k + 2] else [3 * k]
    subs.foldl (fun s m =>
      let slots := ((svMapped e.2).map (fun p => p.2.1)).filter (fun sl => (sampleAt s sl m).isNone)
      if slots.isEmpty then s
      else count 131 1 (slots.foldl (fun s sl => storeSample sl m missingSample s) s)) s) s

/-- A stream is lost (R72). -/
def streamLost (i : Nat) (s : State) : State :=
  let ws := recOr s.cfg.package secSv i []
  let st := streamOf s false i
  let due := decide ((svLoss ws : Int) * 4000000 ≤ (s.tb.now - st.lastArr.getD st.since) * 3)
  if ¬ (svEnabled ws ∧ st.lost = false ∧ due = true) then s
  else
    let s := setStream false i { st with lost := true, prev := none } s
    let s := tally 0x0302 [item i, item (svStation ws), item (sheafOf s.tb.now)] s
    let s := tally 0x0307 [1, item i, item (svStation ws)] s
    sticky 1 13 (sticky 1 3 s)

/-- Tenon's extractor under one entry of the running or the armed package (R212): the two preferred formats, 8 channels, no
svID, confRev or duplicate checks. -/
def tenonEntry (p : Option Package) (new : Bool) (f : Frame) (asdus : List Asdu) (ws : List Word) (s : State) : State :=
  let shape := svNch ws == 8 && ((svRate ws == 0 && svAsduN ws == 1) || (svRate ws == 1 && svAsduN ws == 6))
  let hit := samePort p f.port (svPort ws) && f.vlan == svVlan ws && f.dst == svMac ws &&
    f.appid == svAppid ws && asdus.length == svAsduN ws && asdus.all (fun a => a.dataLen == 64)
  if ¬ (shape ∧ hit) then s
  else
    asdus.foldl (fun s a =>
      if svPerSec ws ≤ a.smpCnt then s
      else
        match placeCount (svPerSec ws) a.smpCnt f.tArr with
        | none => s
        | some m =>
          if ¬ acceptsSheaf s (m / 3) then s
          else
            (svMapped ws).foldl (fun s p =>
              let d := (a.data[p.1]?).getD (0, 0)
              if storesFor s new p.2.1 (m / 3) then
                storeRaw p.2.1 m ⟨wInt d.1, field d.2 1 0 == 0 || field d.2 1 0 == 3⟩ s
              else s) s) s

/-- Under a package the port takes sampled values and GOOSE: it is enabled and at ROLE 0 (R59). -/
def busPort (p : Option Package) (n : Nat) : Bool := portMode (portWords p n) != 0 && portRole (portWords p n) == 0

/-- Tenon's extractor for a frame at the port (R212), under the running and the armed package (R29): sampled values at a ROLE 0 port
under their EtherType (R59, R64). -/
def tenonExtract (f : Frame) (s : State) : State :=
  let takes (p : Option Package) : Bool := busPort p f.port && f.etherType == 0x88BA
  match f.body with
  | .sv asdus =>
    let s := if takes s.cfg.package then
        (svEntries s.cfg.package).foldl (fun s e => tenonEntry s.cfg.package false f asdus e.2 s) s
      else s
    match armedPackage s with
    | none => s
    | some (_, p) =>
      if takes (some p) then (svEntries (some p)).foldl (fun s e => tenonEntry (some p) true f asdus e.2 s) s else s
  | _ => s

/-- GOOSE subscription words (R349). -/
def gsEnabled (ws : List Word) : Bool := bit (wAt ws 0) 0
def gsPort (ws : List Word) : Nat := field (wAt ws 0) 12 8
def gsVlan (ws : List Word) : Nat := field (wAt ws 0) 27 16
def gsAcceptTest (ws : List Word) : Bool := bit (wAt ws 0) 28
def gsAppid (ws : List Word) : Nat := field (wAt ws 1) 15 0
def gsStation (ws : List Word) : Nat := field (wAt ws 1) 23 16
def gsNmem (ws : List Word) : Nat := field (wAt ws 1) 30 24
def gsMac (ws : List Word) : Mac := BitVec.ofNat 48 ((wAt ws 2).toNat * 65536 + field (wAt ws 3) 15 0)
def gsConfRev (ws : List Word) : Word := wAt ws 4
def gsRefLen (ws : List Word) : Nat := field (wAt ws 5) 6 0
def gsSetLen (ws : List Word) : Nat := field (wAt ws 5) 14 8
def gsRef (ws : List Word) : List Byte := (wordBytes ((ws.drop 6).take 16)).take (gsRefLen ws)
def gsSet (ws : List Word) : List Byte := (wordBytes ((ws.drop 22).take 16)).take (gsSetLen ws)
def gsMember (ws : List Word) (i : Nat) : Word := wAt ws (38 + i)
def memPoint (m : Word) : PRef := ⟨bit m 17, field m 16 0⟩
def memType (m : Word) : Nat := field m 20 18
def memMapped (m : Word) : Bool := bit m 21

/-- Enabled GOOSE subscriptions. -/
def gsEntries (p : Option Package) : List (Nat × List Word) :=
  (indicesOf p secGooseSub).filterMap (fun i =>
    let ws := recOr p secGooseSub i []
    if gsEnabled ws then some (i, ws) else none)

/-- A member word's own rules (R349). -/
def memberOk (m : Word) : Bool :=
  let t := memType m
  t != 7 && (if t = 0 then !bit m 17 else if t ≤ 4 then bit m 17 else !memMapped m)

/-- The first word of a GOOSE subscription outside its range (R349): NMEM's range holds of an enabled entry. -/
def gsFault (ws : List Word) : Option Nat :=
  let on := gsEnabled ws
  firstBad
    ([(0, decide (gsVlan ws ≤ 4094)), (1, decide (gsAppid ws ≤ 0x3FFF) && (!on || within (gsNmem ws) 1 64)),
      (5, octetsOk on (gsRefLen ws) && octetsOk on (gsSetLen ws))] ++
      (List.range (min (gsNmem ws) 64)).map (fun i => (38 + i, memberOk (gsMember ws i))))

/-- Same matching key of two GOOSE entries (R349). -/
def gsSameKey (p : Option Package) (a b : List Word) : Bool :=
  samePort p (gsPort a) (gsPort b) && gsVlan a == gsVlan b && gsMac a == gsMac b && gsAppid a == gsAppid b &&
    gsRef a == gsRef b

def gsMatches (p : Option Package) (f : Frame) (g : GooseMsg) (ws : List Word) : Bool :=
  samePort p f.port (gsPort ws) && f.vlan == gsVlan ws && f.dst == gsMac ws && f.appid == gsAppid ws &&
    g.gocbRef == gsRef ws

/-- datSet, member count and member types as the entry expects (R349). -/
def gsShapeOk (ws : List Word) (g : GooseMsg) : Bool :=
  g.datSet == gsSet ws && g.members.length == gsNmem ws &&
    g.members.map (fun m => m.type) == (List.range (gsNmem ws)).map (fun i => memType (gsMember ws i))

/-- Value and quality of each member as received (R76, R78): a Quality member gives the quality of the member before
it, whose reserved bits read 0 (R186). -/
def gooseValues (ws : List Word) : List GooseMember → List (Word × Half)
  | [] => []
  | m :: rest =>
    let q : Half := match rest with
      | n :: _ => if n.type = 5 then n.quality else 0
      | [] => 0
    let q := if q.getLsbD 11 && !gsAcceptTest ws then (q &&& 0xFFFC#16) ||| 1 else q
    let q := if q.toNat % 4 = 2 then q ^^^ 3 else q
    let q := q &&& 0x1FFF#16
    (m.value, q) :: gooseValues ws rest

def subOf (s : State) (i : Nat) : GooseSub := FMap.get s.ing.subs GooseSub.init i
def setSub (i : Nat) (x : GooseSub) (s : State) : State :=
  { s with ing := { s.ing with subs := FMap.set s.ing.subs i x } }

/-- The versions that a boundary at t or later may show: nothing older than the newest that is visible at t. -/
def upToShown (t visible : Time) : List (Time × List (Word × Half)) → List (Time × List (Word × Half))
  | [] => []
  | v :: rest => if visible ≤ t then [] else v :: upToShown t v.1 rest

/-- The values of a subscription that a boundary at t shows (R77). -/
def valuesAt (x : GooseSub) (t : Time) : List (Word × Half) :=
  (((x.visible, x.values) :: x.before).find? (fun v => decide (v.1 ≤ t))).map (fun v => v.2) |>.getD []

/-- One subscription's handling of a matched frame (R77, R349). -/
def gooseEntryFrame (i : Nat) (ws : List Word) (t : Time) (g : GooseMsg) (s : State) : State :=
  let x := subOf s i
  if g.ndsCom then setSub i { x with ndsCom := true } (count 135 1 s)
  else if ¬ gsShapeOk ws g then count 135 1 s
  else if g.confRev ≠ gsConfRev ws then count 135 1 s
  else
    let x := { x with accepted := some (t, g.talMs), ndsCom := false, stale := false }
    let repeated := x.seen.contains (g.stNum, g.sqNum)
    let x :=
      if x.stNum ≠ some g.stNum ∧ repeated = false then
        { x with
          stNum := some g.stNum
          values := gooseValues ws g.members
          before := (x.visible, x.values) :: upToShown s.tb.now x.visible x.before
          visible := t + usSteps 10 }
      else x
    setSub i { x with seen := if repeated then x.seen else (g.stNum, g.sqNum) :: x.seen } s

/-- A GOOSE frame reaches matching (R76, R77). -/
def gooseFrameIn (f : Frame) (s : State) : State :=
  match f.body, serve f.port (fun h => h == f) s with
  | .goose g, some (_, s) =>
    if g.simulation then s
    else
      (gsEntries s.cfg.package).foldl (fun s e =>
        if gsMatches s.cfg.package f g e.2 then gooseEntryFrame e.1 e.2 f.tArr g s else s) s
  | _, _ => s

/-- An entry first passes its TAL (R78, R204). -/
def gooseStale (i : Nat) (s : State) : State :=
  let ws := recOr s.cfg.package secGooseSub i []
  let x := subOf s i
  match x.accepted with
  | none => s
  | some (t, tal) =>
    if gsEnabled ws ∧ x.stale = false ∧ msSteps tal < s.tb.now - t then
      sticky 1 13 (tally 0x0307 [0, item i, item (gsStation ws)] (setSub i { x with stale := true } s))
    else s

/-- The quality of a member's point at a boundary from the age of the last accepted frame (R78); an entry whose ndsCom
was true reads invalid (R77). Past TAL the member's other quality bits stay beside those that R78 names (DESIGN CHOICE, log 95). -/
def agedQuality (x : GooseSub) (q : Half) (now : Time) : Half :=
  match x.accepted with
  | none => qInvalid ||| qOldData
  | some (t, tal) =>
    let age := now - t
    let bits := q &&& 0xFFFC#16
    let aged := if age ≤ msSteps tal then q
      else if age ≤ msSteps (2 * tal) then bits ||| qQuestionable ||| qOldData
      else bits ||| qInvalid ||| qOldData
    if x.ndsCom then (aged &&& 0xFFFC#16) ||| qInvalid else aged

/-- PRP node table (R74): the entry of a source. -/
def nodeOf (s : State) (pair : Nat) (src : Mac) : Option PrpNode :=
  s.ing.nodes.find? (fun n => n.pair == pair && n.src == src)
def setNode (x : PrpNode) (s : State) : State :=
  { s with ing := { s.ing with nodes := x :: s.ing.nodes.filter (fun n => !(n.pair == x.pair && n.src == x.src)) } }

/-- a − b on 16-bit sequence numbers, signed. -/
def seqDiff (a b : Nat) : Int :=
  let d : Int := ((a : Int) - (b : Int)) % 65536
  if 32768 ≤ d then d - 65536 else d

/-- Duplicate discard (R74): whether the frame is passed, and the table after it. A number more than 255 below the highest
begins the source's window anew at it: the rule says only that it is treated as new (DESIGN CHOICE, log 95). -/
def prpCheck (pair : Nat) (f : Frame) (s : State) : Bool × State :=
  match f.trailer with
  | none => (true, s)
  | some (q, _) =>
    let lanA := f.port == pair
    let touch (x : PrpNode) : PrpNode :=
      { x with
        last := f.tArr
        seenA := if lanA then some f.tArr else x.seenA
        seenB := if lanA then x.seenB else some f.tArr }
    match nodeOf s pair f.src with
    | none =>
      if 1024 ≤ s.ing.nodes.length then (true, s)
      else (true, setNode (touch ⟨pair, f.src, q, [q], none, none, f.tArr, f.tArr⟩) s)
    | some x =>
      let d := seqDiff q x.highest
      if 0 < d then
        (true, setNode (touch { x with
          highest := q, marked := q :: x.marked.filter (fun y => decide (seqDiff q y ≤ 255)) }) s)
      else if d < -255 then (true, setNode (touch { x with highest := q, marked := [q] }) s)
      else if x.marked.contains q then (false, count 134 1 (setNode (touch x) s))
      else (true, setNode (touch { x with marked := q :: x.marked }) s)

/-- PRP_LAN_DOWN begins (R75): every loss of link (cause 0) is reported, a silent LAN only while no report stands. -/
def lanDown (pair cause : Nat) (src : Mac) (s : State) : State :=
  let x := portOf s pair
  if x.lanDown.isSome ∧ cause ≠ 0 then s
  else
    sticky 1 6 (tally 0x0305 [item pair, 0, item cause, src.zeroExtend 64]
      (setPort pair { x with lanDown := some (cause, src, s.tb.now) } s))

/-- Both LANs of a pair deliver again (R75): a source was heard on both within 2 s, after the report. -/
def lanReturn (pair : Nat) (f : Frame) (s : State) : State :=
  let x := portOf s pair
  match x.lanDown, nodeOf s pair f.src with
  | some (cause, src, since), some n =>
    let recent (o : Option Time) : Bool := match o with
      | some t => decide (f.tArr - t ≤ msSteps 2000) && decide (since ≤ t)
      | none => false
    let links := (portOf s pair).link && (portOf s (portPartner (portWords s.cfg.package pair))).link
    if recent n.seenA && recent n.seenB && links then
      tally 0x0305 [item pair, 1, item cause, src.zeroExtend 64] (setPort pair { x with lanDown := none } s)
    else s
  | _, _ => s

/-- Byte shares of the receive buffer's classes (R62). -/
def classShare (c : Nat) : Nat := if c = 2 then 98304 else 16384

end Sys2Proof.Machine
end

