-- ==== Sys2Proof/Machine/Time.lean ====
section
/-!
DEFINITION. The timebase, its servo, PTP, PPS and timed launch (04_timebase.md, R329, R345).
-/
namespace Sys2Proof.Machine

/-- The engine is paired (R291 C0.PAIRED). -/
def paired (s : State) : Bool := bit s.pair.c0 0

/-- PROTECTING or DEGRADED. -/
def protecting (s : State) : Bool := s.glb.gstate == .protecting || s.glb.gstate == .degraded

/-- The engine holds the interlock token (R291, R293). -/
def holdsToken (s : State) : Bool := if paired s then s.pair.token else protecting s

/-- Fields of the record of R91: words T0 to T8, then A0 to A31, B0 to B31, C0 to C31. -/
def tcWord (c : List Word) (i : Nat) : Word := wAt c i
def tcSource (c : List Word) : Nat := field (tcWord c 0) 1 0
def tcStepPolicy (c : List Word) : Nat := field (tcWord c 0) 2 2
def tcDomain (c : List Word) : Nat := field (tcWord c 0) 11 4
def tcPpsMode (c : List Word) : Nat := field (tcWord c 0) 13 12
def tcLockNs (c : List Word) : Nat := field (tcWord c 1) 15 0
def tcOutlierNs (c : List Word) : Nat := field (tcWord c 1) 31 16
def tcStepNs (c : List Word) : Nat := (tcWord c 2).toNat
def tcKp (c : List Word) : Nat := field (tcWord c 3) 15 0
def tcKi (c : List Word) : Nat := field (tcWord c 3) 31 16
def tcMaxAdj (c : List Word) : Nat := field (tcWord c 4) 7 0
def tcHoPpb (c : List Word) : Nat := field (tcWord c 4) 23 8
def tcHoLimit (c : List Word) : Nat := field (tcWord c 5) 15 0
def tcPpsDelay (c : List Word) : Nat := field (tcWord c 5) 31 16
def tcPpsAdv (c : List Word) : Nat := field (tcWord c 6) 15 0
def tcPpsSec (c : List Word) : Nat := (tcWord c 7).toNat + 4294967296 * field (tcWord c 8) 15 0
def tcPpsValid (c : List Word) : Bool := bit (tcWord c 8) 16
def tcIngress (c : List Word) (n : Nat) : Nat := field (tcWord c (9 + n)) 23 0
def tcEgress (c : List Word) (n : Nat) : Nat := field (tcWord c (41 + n)) 23 0
def tcAsym (c : List Word) (n : Nat) : Int := (tcWord c (73 + n)).toInt

/-- Every field of a time record lies in its range (R91). -/
def timeConfigOk (c : List Word) : Bool :=
  tcPpsMode c != 3 && within (tcLockNs c) 50 10000 && within (tcOutlierNs c) 500 65000 &&
    decide (tcLockNs c ≤ tcOutlierNs c) && within (tcStepNs c) 10000 1000000000 &&
    decide (tcOutlierNs c ≤ tcStepNs c) && within (tcKp c) 1 1000 && within (tcKi c) 1 5000 &&
    within (tcMaxAdj c) 10 200 && within (tcHoPpb c) 1 10000 && within (tcHoLimit c) 1 10000 &&
    decide (tcPpsAdv c ≤ 10000) &&
    (List.range 32).all (fun n => decide (tcIngress c n ≤ 1000000) && decide (tcEgress c n ≤ 1000000) &&
      decide ((tcAsym c n).natAbs ≤ 1000000000))

/-- Time is valid (R89). -/
def timeValid (s : State) : Bool := s.tb.state == .locked || s.tb.state == .holdover

/-- A step is permitted (R95). -/
def stepPermitted (s : State) : Bool :=
  s.glb.gstate == .config || tcStepPolicy s.tb.config == 0 || !s.tb.everLocked

/-- Units of 2^-16 ns, in which offsets and delays are kept. -/
def stepUnits (t : Time) : Int := t * 10240
def psUnits (ps : Int) : Int := roundHalfAway (ps * 8192) 125
def nsUnits (ns : Int) : Int := ns * 65536

/-- TB_STATE changes (R90): the entry, the event, and what each entry brings. -/
def tbGo (new : TbState) (s : State) : State :=
  let old := s.tb.state
  if old = new then s
  else
    let s := tally 0x0401 [item old.code, item new.code, item (roundHalfAway s.tb.theta 65536)] s
    let s := postEvent 0x0E06 (BitVec.ofNat 64 (new.code + 256 * old.code)) s
    let s := match new with
      | .unlocked => sticky 1 7 s
      | .holdover => sticky 1 8 s
      | _ => s
    let fresh := match new with
      | .freerun | .holdover | .unlocked => true
      | _ => s.tb.fresh
    let armDue := s.tb.armDue || (new == .locked && !s.tb.everLocked)
    { s with
      tb := { s.tb with
        state := new, fresh := fresh, armDue := armDue, everLocked := s.tb.everLocked || new == .locked } }

/-- clamp of R92. -/
def clampRat (x l : Rat) : Rat := if x < -l then -l else if l < x then l else x

/-- A valid measurement is noted: θ, its instant, the count, and the first one after FREERUN or UNLOCKED (R90, R96). -/
def noteMeasurement (theta : Int) (t : Time) (s : State) : State :=
  let s := { s with tb := { s.tb with
    theta := theta, lastMeas := some t, measCount := s.tb.measCount + 1, fresh := false } }
  match s.tb.state with
  | .freerun | .unlocked => tbGo .acquiring s
  | _ => s

/-- The servo of R92 on one valid measurement, the lock run of R90. τ counts from the instant given. Log 16. -/
def feedServo (theta : Int) (t : Time) (since : Option Time) (s : State) : State :=
  let c := s.tb.config
  let tau : Rat := match since, s.tb.fresh with
    | some u, false => ((t - u : Int) : Rat) / 6400000000
    | _, _ => 0
  let th : Rat := ((theta : Int) : Rat) / 65536
  let lim : Rat := ((tcMaxAdj c * 1000 : Nat) : Rat)
  let ki : Rat := ((tcKi c : Nat) : Rat) / 10000
  let kp : Rat := ((tcKp c : Nat) : Rat) / 1000
  let i := clampRat (s.tb.integ + ki * tau * th) lim
  let y := -(clampRat (kp * th + i) lim)
  let s := noteMeasurement theta t s
  let near := decide (theta.natAbs ≤ tcLockNs c * 65536)
  let run := if near then s.tb.lockRun + 1 else 0
  let s := { s with tb := { s.tb with integ := i, adj := y, lastFed := some t, outliers := [], lockRun := run } }
  let servo := beBytes 4 (twos 32 (clampInt (roundHalfAway theta 4096) (-2147483647) 2147483647)) ++
    beBytes 4 (twos 32 (roundHalfAway (y.num * 256) y.den)) ++ traceTs s
  let s := traceMsg 0x40 servo s
  if 8 ≤ run ∧ (s.tb.state = .holdover ∨ (s.tb.state = .acquiring ∧ s.tb.secondsKnown = true)) then tbGo .locked s else s

/-- Four measurements each within OUTLIER_NS of their mean (R93, R95). -/
def agreeing (gate : Nat) (l : List Int) : Bool :=
  let sum := l.foldl (· + ·) 0
  l.length == 4 && l.all (fun x => decide ((4 * x - sum).natAbs ≤ 4 * gate * 65536))

/-- A valid measurement of the selected source (R92 to R95). -/
def servoMeasurement (theta : Int) (t : Time) (s : State) : State :=
  let c := s.tb.config
  let ok := stepPermitted s
  let gated := s.tb.state == .acquiring || s.tb.state == .locked || s.tb.state == .holdover
  let big (x : Int) : Bool := decide (tcStepNs c * 65536 < x.natAbs)
  let outlier := gated && decide (tcOutlierNs c * 65536 < theta.natAbs)
  if ¬ (outlier ∨ (ok ∧ big theta)) then feedServo theta t s.tb.lastMeas s
  else
    let hist := theta :: s.tb.outliers.take 3
    if agreeing (tcOutlierNs c) hist then
      let sum := hist.foldl (· + ·) 0
      if ok ∧ hist.all big then
        let s := noteMeasurement theta t (if outlier then count 144 1 s else s)
        { s with tb := { s.tb with outliers := [], step := some (-(roundHalfAway sum 40960)) } }
      else feedServo (roundHalfAway sum 4) t s.tb.lastFed s
    else
      let s := if outlier then count 144 1 s else noteMeasurement theta t s
      { s with tb := { s.tb with outliers := hist } }

/-- The source feeding the servo is lost (R90, R96). -/
def sourceLost (s : State) : State :=
  let s := { s with tb := { s.tb with src := 0, lockRun := 0, outliers := [] } }
  match s.tb.state with
  | .acquiring => tbGo (if s.tb.everLocked then .unlocked else .freerun) s
  | .locked => tbGo .holdover { s with tb := { s.tb with adj := -s.tb.integ } }
  | .holdover => { s with tb := { s.tb with adj := -s.tb.integ, fresh := true } }
  | _ => s

/-- The source feeding the servo changes without a change of TB_STATE (R103). -/
def changeSource (new : Nat) (s : State) : State :=
  tally 0x0404 [item s.tb.src, item new] { s with tb := { s.tb with src := new } }

/-- PPS_IN is valid at t: an edge within 3 s (R104). -/
def ppsValidAt (s : State) (t : Time) : Bool :=
  match s.tb.lastPps with
  | some u => decide (t - u < 3 * stepsPerSec)
  | none => false

/-- PTP is lost (R99, R103). -/
def ptpLost (t : Time) (s : State) : State :=
  if s.tb.src ≠ 1 then s
  else if tcSource s.tb.config = 3 ∧ ppsValidAt s t = true then changeSource 2 s
  else sourceLost s

/-- PTP port n. -/
def ptpOf (s : State) (n : Nat) : PtpPort := FMap.get s.tb.ports PtpPort.init n
def setPtp (n : Nat) (x : PtpPort) (s : State) : State := { s with tb := { s.tb with ports := FMap.set s.tb.ports n x } }

/-- Port n runs PTP: PTP_EN, and SOURCE uses PTP (R59, R91, R97). -/
def ptpActive (s : State) (n : Nat) : Bool := portPtp (portWords s.cfg.package n)

/-- The rank of an Announce in the default best-master algorithm (R98): smaller is better (log 17). -/
def announceRank (a : Announce) (port : Nat) : List Nat :=
  [a.priority1, a.clockClass, a.accuracy, a.variance, a.priority2, a.grandmaster.toNat, a.stepsRemoved,
    a.srcIdentity.toNat, a.srcPort, port]

def rankLt : List Nat → List Nat → Bool
  | [], [] => false
  | [], _ => true
  | _, [] => false
  | a :: l, b :: r => decide (a < b) || (a == b && rankLt l r)

/-- The best port among those with link that hear a master (R98). -/
def bestLinked (s : State) : Option (Nat × Announce) :=
  (ptpPorts s.cfg.package).foldl (fun best n =>
    match (ptpOf s n).announce, (portOf s n).link with
    | none, _ => best
    | some _, false => best
    | some a, true =>
      match best with
      | none => some (n, a)
      | some (m, b) => if rankLt (announceRank a n) (announceRank b m) then some (n, a) else best) none

/-- The best port. Where no port with link hears a master, the slave port stays until its Announce times out: PTP is lost as R99
says, not by a loss of link. -/
def bestPort (s : State) : Option (Nat × Announce) :=
  match bestLinked s with
  | some b => some b
  | none => s.tb.slave.bind (fun n =>
    if (ptpPorts s.cfg.package).contains n then (ptpOf s n).announce.map (fun a => (n, a)) else none)

/-- Best-master selection (R98): slave port, port states, the entries of a change. -/
def selectMaster (s : State) : State :=
  let best := bestPort s
  let old := s.tb.slave
  let new := best.map (fun p => p.1)
  let gm := match best with
    | some (_, a) => a.grandmaster
    | none => s.tb.grandmaster
  let s1 := (ptpPorts s.cfg.package).foldl (fun s n =>
    let x := ptpOf s n
    let st := if !(portOf s n).link then 0 else if some n = new then 1 else if x.announce.isSome then 2 else 3
    setPtp n { x with state := st } s) s
  let s2 := { s1 with tb := { s1.tb with slave := new, grandmaster := gm } }
  match old, new with
  | some o, some n =>
    if gm ≠ s.tb.grandmaster then sticky 1 9 (tally 0x0403 [s.tb.grandmaster, gm] s2)
    else if o ≠ n then tally 0x0402 [item o, item n, gm] s2
    else s2
  | _, _ => if new.isSome ∧ gm ≠ s.tb.grandmaster ∧ s.tb.grandmaster ≠ 0 then
      sticky 1 9 (tally 0x0403 [s.tb.grandmaster, gm] s2) else s2

/-- The mean path delay over the last valid exchanges in 2^-16 ns (R100). -/
def meanDelay (x : PtpPort) : Int :=
  if x.delays.isEmpty then 0 else roundHalfAway (x.delays.foldl (· + ·) 0) x.delays.length

/-- The ingress stamp of a ball stamp in 2^-16 ns (R100). -/
def ingressUnits (s : State) (n : Nat) (t : Time) : Int := stepUnits t - psUnits (tcIngress s.tb.config n)
def egressUnits (s : State) (n : Nat) (t : Time) : Int := stepUnits t + psUnits (tcEgress s.tb.config n)

/-- θ of a completed Sync: ingress − origin − corrections − (mean path delay + asymmetry) (R100, R101). -/
def syncOffset (s : State) (n : Nat) (ingress origin correction : Int) : Int :=
  ingress - origin - correction - (meanDelay (ptpOf s n) + psUnits (tcAsym s.tb.config n))

/-- Whole seconds come from PTP (R103): where the PPS-led timebase does not know them yet, an offset of whole seconds is
stepped away like PPS_SEC's, where a step is permitted. The lock run begins again: measurements taken before never count (R90). -/
def ptpSeconds (theta : Int) (s : State) : State :=
  let d := -(roundHalfAway theta 65536000000000)
  if s.tb.secondsKnown then s
  else if d = 0 then { s with tb := { s.tb with secondsKnown := true, lockRun := 0 } }
  else if stepPermitted s then
    { s with tb := { s.tb with
      secondsKnown := true, lockRun := 0, outliers := [], step := some (d * stepsPerSec + s.tb.step.getD 0) } }
  else s

/-- An offset measurement of PTP port n is complete (R98, R99, R103). -/
def ptpMeasurement (n : Nat) (theta : Int) (t : Time) (s : State) : State :=
  let x := ptpOf s n
  let valid := match x.lastExchange with
    | some u => decide (t - u ≤ 8 * stepsPerSec)
    | none => false
  let s := setPtp n { x with lastOffset := theta, sync := none } s
  let c := s.tb.config
  if ¬ (valid = true ∧ s.tb.slave = some n ∧ (tcSource c = 1 ∨ tcSource c = 3)) then s
  else
    let s := { s with tb := { s.tb with lastPtp := some t } }
    if tcSource c = 3 ∧ s.tb.src = 2 then
      let near := decide ((theta - s.tb.ppsTheta).natAbs ≤ tcLockNs c * 65536)
      let w := if near then (ptpOf s n).withinPps + 1 else 0
      let s := setPtp n { ptpOf s n with withinPps := if 8 ≤ w then 0 else w } s
      let s := ptpSeconds theta s
      if 8 ≤ w then changeSource 1 s else s
    else servoMeasurement theta t { s with tb := { s.tb with src := 1, secondsKnown := true } }

/-- Whether a message comes from the master the port listens to, in our domain (R97, R98). -/
def fromMaster (s : State) (n domain : Nat) (src : Quad) : Bool :=
  ptpActive s n && domain == tcDomain s.tb.config &&
    (match (ptpOf s n).announce with
      | some a => a.srcIdentity == src
      | none => false)

/-- The next PTP message of port n is served (R63), and the timebase reads t. -/
def servePtp (n : Nat) (t : Time) (s : State) : Option State :=
  (serve n (fun f => f.body == .ptp true) s).map (fun x => advance t x.2)

/-- A Sync that is served (R97, R100): its log interval is the one that R99 counts. -/
def syncServed (m : PtpMsg) (s : State) : State :=
  if ¬ fromMaster s m.port m.domain m.srcIdentity then s
  else
    let s := setPtp m.port { ptpOf s m.port with logSync := clampInt m.logInterval (-4) 0 } s
    let t2 := ingressUnits s m.port m.stamp
    if m.twoStep then setPtp m.port { ptpOf s m.port with sync := some (m.seqId, t2, m.correction) } s
    else ptpMeasurement m.port (syncOffset s m.port t2 m.origin m.correction) m.stamp s

/-- A Sync. -/
def syncIn (m : PtpMsg) (s : State) : State := ((servePtp m.port m.stamp s).map (syncServed m)).getD s

/-- A Follow_Up that is served (R97, R100). -/
def followUpServed (m : PtpMsg) (s : State) : State :=
  if ¬ fromMaster s m.port m.domain m.srcIdentity then s
  else
    match (ptpOf s m.port).sync with
    | some (q, t2, corr) =>
      if q = m.seqId then
        ptpMeasurement m.port (syncOffset s m.port t2 m.origin (corr + m.correction)) m.stamp s
      else s
    | none => s

/-- A Follow_Up. -/
def followUpIn (m : PtpMsg) (s : State) : State := ((servePtp m.port m.stamp s).map (followUpServed m)).getD s

/-- An Announce that is served (R98). -/
def announceServed (a : Announce) (s : State) : State :=
  if ¬ (ptpActive s a.port ∧ a.domain = tcDomain s.tb.config) then s
  else
    let x := ptpOf s a.port
    let keep := match x.announce with
      | some b => !(b.srcIdentity == a.srcIdentity && b.srcPort == a.srcPort) &&
          rankLt (announceRank b a.port) (announceRank a a.port)
      | none => false
    selectMaster (if keep then s else setPtp a.port { x with announce := some a } s)

/-- An Announce. -/
def announceIn (a : Announce) (s : State) : State := ((servePtp a.port a.stamp s).map (announceServed a)).getD s

/-- 2^k seconds in steps, for a log interval down to 1/64 s; a shorter one counts as 1/64 s. -/
def logSteps (k : Int) : Int := 100000000 * 2 ^ (k + 6).toNat

/-- Announce receipt times out on a port (R97, R98, R99): 3 announce intervals have passed since the last Announce. -/
def announceTimeout (n : Nat) (t : Time) (s : State) : State :=
  let s := advance t s
  match (ptpOf s n).announce with
  | none => s
  | some a =>
    if t - a.stamp < 3 * logSteps a.logInterval then s
    else
      let s := selectMaster (setPtp n { ptpOf s n with announce := none } s)
      if (ptpPorts s.cfg.package).all (fun m => (ptpOf s m).announce.isNone) then ptpLost t s else s

/-- A port that sends (R59, R107): it is not disabled and has link. -/
def mayTransmit (s : State) (n : Nat) : Bool := portMode (portWords s.cfg.package n) != 0 && (portOf s n).link

/-- Octets of a frame from destination address to FCS (R61). -/
def frameOctets (e : Launch) : Nat :=
  let load := match e.data with
    | .goose _ _ m => Config.gooseSize m
    | .ldf l => l.length
    | .ptp _ => 54
    | .supervision => Config.supervisionSize
  max 64 (18 + (if e.head.tag.isSome then 4 else 0) + load + (if e.trailer.isSome then 6 else 0))

/-- How long a frame and its inter-frame gap hold port n behind the start-of-frame delimiter (R107): 12 octets of gap, 1 ns a
bit, 0.4 ns in 2500BASE-X. -/
def frameTime (s : State) (n : Nat) (e : Launch) : Time :=
  let bits : Int := 8 * (frameOctets e + 12 : Nat)
  if portMode (portWords s.cfg.package n) = 2 then ceilDiv (bits * 64).toNat 25 else ceilDiv (bits * 32).toNat 5

/-- A frame leaves a port (R83) with its first bit behind the delimiter at the ball at t; the stamp is that of R100. -/
def sendNow (n : Nat) (e : Launch) (t : Time) (s : State) : State :=
  count (96 + n) 1 { s with sent := ⟨n, e.kind, t, egressUnits s n t, e.head, e.data, e.trailer⟩ :: s.sent }

/-- Our clockIdentity (R97): the factory MAC address of the lowest PTP port with FF FE in its middle (PRESUMED, log 94). -/
def clockIdentity (s : State) : Quad :=
  let m := (((ptpPorts s.cfg.package).head?).map Config.factoryMac).getD 0
  BitVec.ofNat 64 (m.toNat / 16777216 * 1099511627776 + 0xFFFE000000 + m.toNat % 16777216)

/-- A peer-delay message of port n (R97): type, sequence, asker, time-stamp. -/
def ptpLaunch (s : State) (n : Nat) (k : TxKind) (type seq : Nat) (asker : Quad) (stamp : Int) : Launch :=
  let tag := if field (tcWord s.tb.config 0) 3 3 = 1 then some (0, 4) else none
  ⟨k, none, false, ⟨0x0180C200000E#48, Config.factoryMac n, tag, 0x88F7#16⟩,
    .ptp ⟨type, tcDomain s.tb.config, clockIdentity s, n + 1, seq, asker, stamp⟩, none⟩

/-- An untimed frame starts at t where it ends, with its gap, before the next queued launch instant (R107). -/
def untimedFits (n : Nat) (e : Launch) (t : Time) (s : State) : Bool :=
  match (portOf s n).queue with
  | [] => true
  | q :: _ => decide (egressUnits s n (t + frameTime s n e) < stepUnits (q.instant.getD 0))

/-- The follow-up of a Pdelay_Resp sent at t, which carries its egress stamp (R97, R100). -/
def followOf (s : State) (n : Nat) (e : Launch) (t : Time) : Option Launch :=
  match e.kind, e.data with
  | .pdelayResp q, .ptp m => some (ptpLaunch s n (.pdelayFollow q) 10 q m.requester (egressUnits s n t))
  | _, _ => none

/-- Untimed frames of port n leave one behind the other from t on while they fit, a Pdelay_Resp with its follow-up behind
it; the others are held back (R107). fuel: twice their number. -/
def sendUntimed (n : Nat) : Nat → Time → List Launch → State → State
  | 0, _, l, s => setPort n { portOf s n with untimed := l } s
  | _ + 1, _, [], s => setPort n { portOf s n with untimed := [] } s
  | f + 1, t, e :: rest, s =>
    if untimedFits n e t s then
      sendUntimed n f (t + frameTime s n e) ((followOf s n e t).toList ++ rest) (sendNow n e t s)
    else setPort n { portOf s n with untimed := e :: rest } s

/-- The untimed frames of port n that wait, and one more, from t on (R107). -/
def releaseUntimed (n : Nat) (t : Time) (more : List Launch) (s : State) : State :=
  let l := (portOf s n).untimed ++ more
  if l.isEmpty then s else sendUntimed n (2 * l.length + 1) t l s

/-- A Pdelay_Req of the link partner is answered by a two-step Pdelay_Resp (R97). -/
def pdelayReqIn (m : PtpMsg) (s : State) : State :=
  match servePtp m.port m.stamp s with
  | none => s
  | some s =>
    if ¬ (ptpActive s m.port ∧ mayTransmit s m.port) then s
    else
      releaseUntimed m.port s.tb.now
        [ptpLaunch s m.port (.pdelayResp m.seqId) 3 m.seqId m.srcIdentity (ingressUnits s m.port m.stamp)] s

/-- A second has passed since the port's last Pdelay_Req. -/
def pdelayDue (s : State) (n : Nat) (t : Time) : Bool := (ptpOf s n).reqAt.all (fun u => decide (u + stepsPerSec ≤ t))

/-- A Pdelay_Req is sent every second (R97). R107 does not name it among the untimed frames that are held back: it leaves at its
instant (DESIGN CHOICE, log 44). -/
def pdelayReqOut (n : Nat) (t : Time) (s : State) : State :=
  let s := advance t s
  if ¬ (ptpActive s n ∧ mayTransmit s n ∧ pdelayDue s n t) then s
  else
    let q := (ptpOf s n).reqSeq
    sendNow n (ptpLaunch s n .pdelayReq 2 q 0 0) t
      (setPtp n { ptpOf s n with reqSeq := (q + 1) % 65536, reqAt := some t } s)

/-- A peer-delay exchange that completes (R97, R100). -/
def pdelayServed (r : PdelayResp) (s : State) : State :=
  if ¬ (ptpActive s r.port ∧ r.valid) then s
  else
    let t1 := egressUnits s r.port r.t1
    let t4 := ingressUnits s r.port r.t4
    let d := roundHalfAway ((t4 - t1) - (r.t3 - r.t2) - r.correction) 2
    let x := ptpOf s r.port
    setPtp r.port
      { x with delays := d :: x.delays.take 7, lastExchange := some r.t4, exchanges := x.exchanges + 1 } s

/-- The last message of a peer-delay exchange. -/
def pdelayRespIn (r : PdelayResp) (s : State) : State := ((servePtp r.port r.t4 s).map (pdelayServed r)).getD s

/-- A rising edge of PPS_IN (R102, R103). -/
def ppsEdge (stamp : Time) (s : State) : State :=
  let s := advance stamp s
  let c := s.tb.config
  let e := stamp - nsSteps (tcPpsDelay c)
  let near : Int := (2 * e + stepsPerSec) / (2 * stepsPerSec)
  let th := e - near * stepsPerSec
  if (stepsPerSec : Int) ≤ 2 * th.natAbs then s
  else
    let theta := stepUnits th
    let s := { s with tb := { s.tb with lastPps := some stamp, ppsTheta := theta } }
    let feeds := tcSource c == 2 || (tcSource c == 3 && s.tb.src != 1)
    let s := if feeds then servoMeasurement theta stamp { s with tb := { s.tb with src := 2 } } else s
    match s.tb.ppsSecFrom with
    | some u =>
      if tcPpsValid c ∧ u + stepsPerSec ≤ stamp then
        let d : Int := (tcPpsSec c : Int) - near
        let cfg := modAt (fun w => w &&& 0xFFFEFFFF#32) 8 c
        let step := if d = 0 then s.tb.step else some (d * stepsPerSec + s.tb.step.getD 0)
        { s with tb := { s.tb with
          config := cfg, ppsSecFrom := none, secondsKnown := true, lockRun := 0, outliers := [], step := step } }
      else s
    | none => s

/-- PPS_IN is lost (R104). -/
def ppsLost (t : Time) (s : State) : State :=
  let s := advance t s
  match s.tb.lastPps with
  | none => s
  | some u =>
    if t - u < 3 * stepsPerSec then s
    else
      let s := { s with tb := { s.tb with lastPps := none } }
      if s.tb.src = 2 then sourceLost s else s

/-- The slave port delivered no valid measurement for 3 sync intervals of its master (R99). -/
def syncLost (t : Time) (s : State) : State :=
  let s := advance t s
  let log := (s.tb.slave.map (fun n => (ptpOf s n).logSync)).getD 0
  match s.tb.lastPtp with
  | none => s
  | some u => if s.tb.src = 1 ∧ 3 * logSteps log ≤ t - u then ptpLost t s else s

/-- e(t) of R96 in ns as a ratio over 6.4e9. -/
def holdoverEstimate (s : State) (t : Time) : Int × Nat :=
  let since := s.tb.lastMeas.getD 0
  let th : Int := s.tb.theta.natAbs
  (th * 6400000000 + (tcHoPpb s.tb.config : Int) * (t - since) * 65536, 65536 * 6400000000)

/-- Holdover expires (R90, R96). -/
def holdoverExpired (t : Time) (s : State) : State :=
  let s := advance t s
  let e := holdoverEstimate s t
  if s.tb.state = .holdover ∧ ((tcHoLimit s.tb.config * 1000 : Nat) : Int) * e.2 < e.1 then
    tbGo .unlocked { s with tb := { s.tb with src := 0 } }
  else s

/-- The bits of word i of the record that are fields; the others are reserved and read 0 (R91, R11). -/
def tcMask (i : Nat) : Word :=
  if i = 0 then 0x3FFF#32
  else if i = 6 then 0xFFFF#32
  else if i = 8 then 0x1FFFF#32
  else if i = 4 ∨ (9 ≤ i ∧ i < 73) then 0xFFFFFF#32
  else 0xFFFFFFFF#32

/-- TIME_CONFIG's record takes effect (R91): status of the command. PPS_SEC is judged under the STEP_POLICY that stands when the command
is accepted, not under the one it brings (DESIGN CHOICE, log 95). -/
def applyTimeConfig (c : List Word) (s : State) : Half × State :=
  let c := c.zipIdx.map (fun w => w.1 &&& tcMask w.2)
  if ¬ timeConfigOk c then (0x0200, s)
  else if tcPpsValid c ∧ ¬ stepPermitted s then (0x0103, s)
  else
    let old := s.tb.config
    let s := { s with tb := { s.tb with
      config := c, ppsSecFrom := if tcPpsValid c then some s.tb.now else s.tb.ppsSecFrom } }
    let restart := field (tcWord old 0) 11 3 != field (tcWord c 0) 11 3 || tcSource old != tcSource c
    if restart then
      let s := { s with tb := { s.tb with
        ports := s.tb.ports.mapVals (fun _ p => { p with announce := none, sync := none, state := 3 }), slave := none } }
      (0, if s.tb.src = 0 then s else sourceLost s)
    else (0, s)

/-- PPS_OUT pulses (R91). -/
def ppsOutOn (s : State) : Bool :=
  tcPpsMode s.tb.config == 2 || (tcPpsMode s.tb.config == 1 && timeValid s)

/-- An instant lies within 1.0 ns of PPS_OUT_ADV_NS before a whole second (R105), in 1/32 ns: a step is 5 of them. -/
def ppsRiseDue (c : List Word) (t : Time) : Bool :=
  let off := (5 * t + 32 * (tcPpsAdv c : Int)) % 32000000000
  decide (off ≤ 32) || decide (32000000000 - off ≤ 32)

/-- PPS_OUT (R105): a rise that is due, which sets the entry of the fall 100 ms later; a fall within 1.0 ns of its entry. -/
def ppsOut (rising : Bool) (t : Time) (s : State) : State :=
  let s := advance t s
  if rising then
    if ppsOutOn s && ppsRiseDue s.tb.config t then
      { s with tb := { s.tb with ppsOut := true, ppsFall := some (t + msSteps 100) } }
    else s
  else
    match s.tb.ppsFall with
    | some u => if (t - u).natAbs ≤ 6 then { s with tb := { s.tb with ppsOut := false, ppsFall := none } } else s
    | none => s

/-- An entry in launch-instant order, behind entries with an equal instant (R107). -/
def launchInsert (e : Launch) : List Launch → List Launch
  | [] => [e]
  | f :: rest =>
    if e.instant.getD 0 < f.instant.getD 0 then e :: f :: rest else f :: launchInsert e rest

/-- Queues a timed frame on port n (R106, R107) under the factory MAC address of the port (R59); its block's entry on the
port leaves first (R108). -/
def queueLaunch (n : Nat) (k : TxKind) (t : Time) (head : EthHead) (data : TxData) (trailer : Option Rct) (s : State) :
    State :=
  let x := portOf s n
  let late := decide (t < s.tb.now)
  let q := x.queue.filter (fun e => e.kind != k)
  let s := if late then count 147 1 s else s
  setPort n
    { x with queue := launchInsert ⟨k, some t, late, { head with src := Config.factoryMac n }, data, trailer⟩ q } s

/-- The redundancy trailer of a frame on LAN A or B of a pair (R73): the LSDU with the trailer's own 6 octets. -/
def rctOf (seq lan load : Nat) : Rct := ⟨seq, lan, load + 6, 0x88FB#16⟩

/-- The next sequence number of the pair whose lower port is lo leaves its counter (R73). -/
def takePrpSeq (lo : Nat) (s : State) : State :=
  setPort lo { portOf s lo with prpSeq := ((portOf s lo).prpSeq + 1) % 65536 } s

/-- Queues a GOOSE frame on a port, or on both ports of its PRP pair with one sequence number (R73). -/
def queueBoth (p : Option Package) (n : Nat) (k : TxKind) (t : Time) (head : EthHead) (appid : Nat) (test : Bool)
    (m : GooseMsg) (s : State) : State :=
  match prpPair p n with
  | none => queueLaunch n k t head (.goose appid test m) none s
  | some lo =>
    let q := (portOf s lo).prpSeq
    let put (n lan : Nat) (s : State) : State :=
      queueLaunch n k t head (.goose appid test m) (some (rctOf q lan (Config.gooseSize m))) s
    put (portPartner (portWords p lo)) 0xB (put lo 0xA (takePrpSeq lo s))

/-- A PRP supervision frame of port n on a LAN (R73): its address and EtherType are those of IEC 62439-3 (PRESUMED, log
94). -/
def supervisionLaunch (n seq lan : Nat) : Launch :=
  ⟨.prpSupervision, none, false, ⟨0x01154E000100#48, Config.factoryMac n, none, 0x88FB#16⟩, .supervision,
    some (rctOf seq lan Config.supervisionSize)⟩

/-- A PRP supervision frame goes out on both LANs every 2 s (R73), untimed (R107). -/
def prpSupervision (n : Nat) (s : State) : State :=
  match prpPair s.cfg.package n with
  | none => s
  | some lo =>
    let q := (portOf s lo).prpSeq
    let send (m lan : Nat) (s : State) : State :=
      if mayTransmit s m then releaseUntimed m s.tb.now [supervisionLaunch m q lan] s else s
    send (portPartner (portWords s.cfg.package lo)) 0xB (send lo 0xA (takePrpSeq lo s))

/-- Whether an entry may leave: GOOSE and line-differential frames only from the token holder (R82, R157, R293). -/
def mayLaunch (s : State) (k : TxKind) : Bool :=
  match k with
  | .goose _ => holdsToken s
  | .ldf _ _ => holdsToken s
  | _ => true

/-- Every pending launch instant moves with a timebase step (R109). -/
def shiftLaunches (d : Int) (s : State) : State :=
  { s with ing := { s.ing with
    ports := s.ing.ports.mapVals (fun _ p =>
      { p with queue := p.queue.map (fun e => { e with instant := e.instant.map (fun t => t + d) }) })
    } }

/-- TB_OFFSET, TB_ADJ, TB_INTEG and TB_HO_EST (R329). -/
def tbOffsetReg (s : State) : Word :=
  BitVec.ofInt 32 (clampInt (roundHalfAway s.tb.theta 4096) (-2147483647) 2147483647)
def ratReg (r : Rat) : Word := BitVec.ofInt 32 (roundHalfAway (r.num * 256) r.den)
def tbHoReg (s : State) : Word :=
  match s.tb.state with
  | .holdover | .unlocked =>
    let e := holdoverEstimate s s.tb.now
    BitVec.ofInt 32 (clampInt (roundHalfAway e.1 e.2) 0 4294967295)
  | _ => 0

/-- TB_STATE register (R329). -/
def tbStateReg (s : State) : Word :=
  put s.tb.state.code 0 ||| put s.tb.src 8 ||| put (if s.tb.src = 1 then s.tb.slave.getD 0 else 0) 16

/-- Saturated 2^-4 ns words of TIME_STATUS port blocks. -/
def units4 (x : Int) : List Byte := leBytes 4 (twos 32 (clampInt (roundHalfAway x 4096) (-2147483648) 2147483647))

/-- The TIME_STATUS buffer of R345, 524 bytes. -/
def timeStatusBytes (s : State) : List Byte :=
  let regs := [tbStateReg s, tbOffsetReg s, ratReg s.tb.adj, ratReg s.tb.integ, tbHoReg s, s.tb.measCount]
  let a := s.tb.slave.bind (fun n => (ptpOf s n).announce)
  let utc : Int := (a.map (fun x => x.utcOffset)).getD 0
  let utcOk : Nat := if (a.map (fun x => x.utcValid)).getD false then 1 else 0
  let tlv := a.bind (fun x => x.powerTlv)
  let use := decide (field (tcWord s.tb.config 0) 3 3 = 1)
  let ports := (ptpPorts s.cfg.package).take 4
  let blocks := ports.flatMap (fun n =>
    let x := ptpOf s n
    leBytes 1 n ++ leBytes 1 x.state ++ zeros 2 ++ units4 (meanDelay x) ++ units4 x.lastOffset ++ leBytes 4 x.exchanges)
  wordBytes s.tb.config ++ wordBytes regs ++ leBytes 8 (match a with
      | some x => x.grandmaster.toNat
      | none => 0) ++
    leBytes 2 (twos 16 utc) ++ leBytes 1 (utcOk + (if use && tlv.isSome then 2 else 0)) ++ zeros 1 ++
    leBytes 4 (if use then tlv.getD 0 else 0) ++ blocks ++ zeros (64 - 16 * ports.length)

end Sys2Proof.Machine
end

