-- ==== Sys2Proof/Machine/Image.lean ====
section
/-!
DEFINITION. The point image of the logic program as committed (R185, R186): layout, quality, what a reader of a point
sees.
-/
namespace Sys2Proof.Machine

/-- The validity code of a rank (R186). -/
def rankCode (r : Nat) : Half := if r = 0 then 0 else if r = 1 then 3 else 1

/-- The rank of a 16-bit quality. -/
def qRank (q : Half) : Nat := validityRank q.toNat

/-- The worst validity of a list of qualities with the test bits carried (R122, R141): 0 for an empty list. -/
def worstOf (qs : List Half) : Half :=
  rankCode (qs.foldl (fun a q => max a (qRank q)) 0) ||| (qs.foldl (fun a q => a ||| q) 0 &&& qTestBit)

/-- A quality is good, invalid. -/
def qIsInvalid (q : Half) : Bool := qRank q == 2
def qIsGood (q : Half) : Bool := qRank q == 0

/-- A boolean as a point value. -/
def boolWord (b : Bool) : Word := if b then 1 else 0

/-- The truth of a point value. -/
def truth (w : Word) : Bool := bit w 0

/-- The key of a point in the force tables (R196): booleans by index, words from 131,072. -/
def forceKey (p : PRef) : Nat := if p.word then 131072 + p.idx else p.idx

/-- Header word 0 of a program: P, the period in sheaves (R178, R191). -/
def programPeriod (p : Program) : Nat := 2 ^ field (wAt p.header 0) 1 0

/-- The period of the program in force, 1 where none is. -/
def periodOf (s : State) : Nat :=
  match s.logic.program with
  | some l => programPeriod l.program
  | none => 1

/-- Declared input points of the program in force, and its retained points. -/
def inputsOf (s : State) : List InputDesc := (s.logic.program.map (fun l => l.program.inputs)).getD []
def retainedOf (s : State) : List Retained := (s.logic.program.map (fun l => l.program.retained)).getD []
def inputPoint (d : InputDesc) : PRef := ⟨bit d.i0 17, field d.i0 16 0⟩
def inputDesc (s : State) (p : PRef) : Option InputDesc := (inputsOf s).find? (fun d => inputPoint d == p)
def isRetained (s : State) (p : PRef) : Bool := (retainedOf s).any (fun r => r.point == p)

/-- General regions (R185). -/
def isGeneral (p : PRef) : Bool :=
  if p.word then within p.idx 20736 32767 else within p.idx 41472 98303

/-- Reserved points (R185), and numbers outside the image. -/
def isReserved (p : PRef) : Bool :=
  if p.word then within p.idx 163 255 || decide (32767 < p.idx)
  else within p.idx 195 255 || within p.idx 41408 41471 || decide (98303 < p.idx)

/-- Points that a step of a program reads and writes. -/
def operandPoints (ops : List Operand) : List PRef :=
  ops.filterMap (fun o => match o with
    | .point p => some p
    | _ => none)
def stepReads : LogicStep → List PRef
  | .eval _ args _ => operandPoints args
  | .skipUnless c _ => operandPoints [c]
  | .skip _ => []
def stepWrites : LogicStep → List PRef
  | .eval _ _ d => [d]
  | _ => []

/-- The program in force writes a point or retains it: its committed value is the state of the program (R180, R200). -/
def isWritten (s : State) (p : PRef) : Bool :=
  isRetained s p || s.logic.program.any (fun l => l.program.steps.any (fun x => (stepWrites x).contains p))

/-- A point of the general regions or a trip-wire command as committed (R180, R196, R437): what the program committed, where
it writes or retains the point, a shown force included; in CONFIG its other points read invalid. Otherwise a shown force, or
a declared input point. -/
def storedPoint (s : State) (p : PRef) : Point :=
  if isWritten s p then
    (if protecting s || isRetained s p then FMap.get (if p.word then s.logic.words else s.logic.bools) Point.invalid p.idx
    else Point.invalid)
  else
    match FMap.get? s.logic.shown (forceKey p) with
    | some v => ⟨v, qSubstituted⟩
    | none =>
      if (inputDesc s p).isSome then
        FMap.get (if p.word then s.logic.inWords else s.logic.inBools) ⟨0, qInvalid ||| qOldData⟩ p.idx
      else Point.invalid

/-- An instance's state. -/
def instOf (s : State) (i : Nat) : Inst := FMap.get s.insts Inst.init i

/-- Zone z's context. -/
def zoneOf (s : State) (z : Nat) : Zone := FMap.get s.zones Zone.init z
def setZone (z : Nat) (x : Zone) (s : State) : State := { s with zones := FMap.set s.zones z x }

/-- A boolean point as committed (R185). -/
def boolPoint (s : State) (n : Nat) : Point :=
  if n < 192 then FMap.get s.bi.points Point.invalid n
  else if n = 192 then ⟨boolWord (s.tb.shown == .locked || s.tb.shown == .holdover), 0⟩
  else if n = 193 then ⟨boolWord (s.glb.gstate == .degraded), 0⟩
  else if n = 194 then ⟨boolWord (s.logic.first && s.logic.cycle.isSome), 0⟩
  else if n < 256 then Point.invalid
  else if n < 41216 then ((instOf s ((n - 256) / 8)).bools[(n - 256) % 8]?).getD Point.invalid
  else if isReserved ⟨false, n⟩ then Point.invalid
  else storedPoint s ⟨false, n⟩

/-- A word point as committed (R185). -/
def wordPoint (s : State) (n : Nat) : Point :=
  if n < 160 then ⟨BitVec.ofNat 32 (zoneOf s n).group, 0⟩
  else if n = 160 then ⟨BitVec.ofNat 32 s.glb.gstate.code, 0⟩
  else if n = 161 then ⟨BitVec.ofNat 32 s.tb.shown.code, 0⟩
  else if n = 162 then ⟨s.logic.cycles, 0⟩
  else if n < 256 then Point.invalid
  else if n < 20736 then ((instOf s ((n - 256) / 4)).words[(n - 256) % 4]?).getD Point.invalid
  else if isReserved ⟨true, n⟩ then Point.invalid
  else storedPoint s ⟨true, n⟩

/-- A point as committed. -/
def imagePoint (s : State) (p : PRef) : Point := if p.word then wordPoint s p.idx else boolPoint s p.idx

end Sys2Proof.Machine
end

