-- ==== Sys2Proof/Machine/Zone.lean ====
section
/-!
DEFINITION. Zone contexts: descriptors, primary values, phasors, frequency (R113 to R122).
-/
namespace Sys2Proof.Machine

/-- Words Z0 to Z5 and B0 to B7 of zone z (R113): FS_SEL resets to 1. -/
def zoneWords (p : Option Package) (z : Nat) : List Word :=
  recOr p secZone z (0x400#32 :: List.replicate 13 0#32)
def znEnabled (ws : List Word) : Bool := bit (wAt ws 0) 0
def znKind (ws : List Word) : Nat := field (wAt ws 0) 2 1
def zn60 (ws : List Word) : Bool := bit (wAt ws 0) 3
def znAcb (ws : List Word) : Bool := bit (wAt ws 0) 4
def znGroupDefault (ws : List Word) : Nat := field (wAt ws 0) 7 5
def znGroupSrc (ws : List Word) : Nat := field (wAt ws 0) 9 8
def znFullScale (ws : List Word) : Nat := field (wAt ws 0) 11 10
def znGroupPoint (ws : List Word) : Nat := field (wAt ws 1) 14 0
def znINom (ws : List Word) : F32 := wAt ws 2
def znVNom (ws : List Word) : F32 := wAt ws 3
def znIScale (ws : List Word) : F32 := wAt ws 4
def znVScale (ws : List Word) : F32 := wAt ws 5
def znSlot (ws : List Word) (q : Nat) : Nat := field (wAt ws (6 + q)) 10 0
def znInvert (ws : List Word) (q : Nat) : Bool := bit (wAt ws (6 + q)) 11
def znUse (ws : List Word) (q : Nat) : Bool := bit (wAt ws (6 + q)) 12

/-- Bay words Y0 to Y2 (R138). -/
def bayWords (p : Option Package) (z b : Nat) : List Word := recOr p secBay (24 * z + b) [0, 0, 0]
def bayUse (ws : List Word) : Bool := bit (wAt ws 1) 12
def bayInvert (ws : List Word) : Bool := bit (wAt ws 1) 11
def baySlot (ws : List Word) (ph : Nat) : Nat :=
  if ph = 0 then field (wAt ws 0) 10 0 else if ph = 1 then field (wAt ws 0) 26 16 else field (wAt ws 1) 10 0
def bayMatch (ws : List Word) : F32 := wAt ws 2
/-- The bays in use of a zone. -/
def baysOf (p : Option Package) (z : Nat) : List (List Word) :=
  ((List.range 24).map (bayWords p z)).filter bayUse

/-- A zone's words (R113, R114), in a zone that is evaluated or not: ranges, V_NOM's once a voltage is bound (else the 0 of
reset may stay, log 39), the bindings: the KIND of a Dovetail slot is checked like that of an SV slot, which R114 alone names
(DESIGN CHOICE, log 95), and VA, VB and VC are all bound or none in a busbar zone too, where R114 says it of feeder and line
zones (DESIGN CHOICE, log 95). -/
def zoneFault (p : Option Package) (ws : List Word) : Option Nat :=
  let use (q : Nat) : Bool := znUse ws q
  let anyV := use 4 || use 5 || use 6 || use 7
  let localOf (a b : Nat) : Bool := (List.range 8).any (fun q =>
    decide (a ≤ q) && decide (q ≤ b) && use q && decide (znSlot ws q < 64))
  let threes (a : Nat) : Bool := (use a == use (a + 1)) && (use (a + 1) == use (a + 2))
  let kindOk (q : Nat) : Bool :=
    let want := if q < 4 then 0 else 1
    match slotSource p (znSlot ws q) with
    | .localChannel => chEnabled (channelWords p (znSlot ws q))
    | .sv _ _ k => k == want
    | .dovetail _ w => dsKind w == want
    | .unfed => true
  firstBad
    ([(0, znKind ws != 3 && znGroupSrc ws != 3 && znFullScale ws != 3),
      (1, (znGroupSrc ws != 1 || decide (znGroupPoint ws ≤ 125)) &&
        (znGroupSrc ws != 2 || !isReserved ⟨true, znGroupPoint ws⟩)),
      (2, f32In (znINom ws) (1, 1) (100000, 1)),
      (3, (!anyV && znVNom ws == 0) || f32In (znVNom ws) (100, 1) (1000000, 1)),
      (4, !localOf 0 3 || F32.lt 0#32 (znIScale ws)), (5, !localOf 4 7 || F32.lt 0#32 (znVScale ws))] ++
      (List.range 8).map (fun q =>
        (6 + q, (!use q || kindOk q) && (q != 0 || znKind ws == 2 || threes 0) && (q != 4 || threes 4) &&
          (decide (3 < q) || znKind ws != 2 || !use q))))

/-- F_NOM in Hz. -/
def nominalHz (ws : List Word) : Nat := if zn60 ws then 60 else 50
def fNom (ws : List Word) : F32 := F32.ofInt (nominalHz ws)

/-- Samples of a nominal cycle at 4,800/s: 96 or 80 (R117). -/
def cycleSheaves (ws : List Word) : Nat := if zn60 ws then 80 else 96

/-- V_NOM/√3. -/
def vPhase (ws : List Word) : F32 := F32.div (znVNom ws) (F32.sqrt (F32.ofInt 3))

/-- I_FS of FS_SEL (R113). -/
def fullScale (ws : List Word) : F32 := F32.mul (F32.ofInt (32 * 2 ^ znFullScale ws)) (znINom ws)

/-- A setting of n steps of 1/d, times a base. -/
def stepsOf (n d : Nat) (base : F32) : F32 := F32.mul (F32.ofRatio n d) base

/-- SV and line-differential inputs are armed (R110): a boundary has passed since the first lock. -/
def timeArmed (s : State) : Bool := s.tb.everLocked && !s.tb.armDue

/-- Whether the zones may use a slot's samples now (R110): SV from arming on, Dovetail only while time is valid. -/
def slotArmed (s : State) (k : Nat) : Bool :=
  match slotSource s.cfg.package k with
  | .sv _ _ _ => timeArmed s
  | .dovetail _ _ => timeArmed s && timeValid s
  | _ => true

/-- The value and quality of sub-sample m of a slot as an estimator sees it (R122): a missing or invalid sample is 0;
none at a position that the source leaves out. -/
def slotAt (s : State) (k m : Nat) : Option (Int × Half) :=
  match (if slotArmed s k then sampleAt s k m else none) with
  | some x => if qIsInvalid (x.quality.truncate 16) then some (0, qInvalid ||| (x.quality.truncate 16 &&& qTestBit))
    else some (x.value, x.quality.truncate 16)
  | none => if m % 3 ≠ 0 ∧ slotSlow s.cfg.package k = true then none else some (0, qInvalid)

/-- The primary value of quantity q (R114) of a sub-sample of its slot. A Dovetail slot counts in the SV unit whatever its source
is: R114 and R137 leave open the scale of a remote local channel's output units (DESIGN CHOICE, log 95). -/
def primaryOf (ws : List Word) (q : Nat) (v : Int) : F32 :=
  let x := F32.ofInt v
  let y := if znSlot ws q < 64 then F32.mul x (if q < 4 then znIScale ws else znVScale ws)
    else F32.mul x (if q < 4 then F32.ofRatio 1 1000 else F32.ofRatio 1 100)
  if znInvert ws q then F32.neg y else y

/-- The primary value and quality of quantity q at sub-sample m; none where the position is absent. An unbound quantity
is invalid. -/
def quantityAt (s : State) (ws : List Word) (q m : Nat) : Option (F32 × Half) :=
  if znUse ws q then (slotAt s (znSlot ws q) m).map (fun x => (primaryOf ws q x.1, x.2)) else some (0, qInvalid)

/-- The primary current of a bay's phase at sub-sample m (R138). -/
def bayAt (s : State) (b : List Word) (ph m : Nat) : F32 × Half :=
  match slotAt s (baySlot b ph) m with
  | some x =>
    let y := F32.mul (F32.ofInt x.1) (bayMatch b)
    (if bayInvert b then F32.neg y else y, x.2)
  | none => (0, qInvalid)

/-- 2π and √2 as binary32. -/
def twoPi : F32 := 0x40C90FDB#32
def pi32 : F32 := 0x40490FDB#32
def sqrtTwo : F32 := 0x3FB504F3#32

/-- Samples with weight in a window of W (R117): N, and N + 1 where r is not 0. -/
def windowSamples (w : F32) : Nat :=
  let n := (F32.floor w).toNat
  if F32.eq (F32.ofInt n) w then n else n + 1

/-- The window sum of R117 over x(0), x(1), … newest first, at rate samples per second and W = num / f_t. The angle of
the result is that of the wave at the newest sample: the kernel turns with +j against i. Log 20. -/
def windowPhasor (num rate : Nat) (ft : F32) (xs : List F32) : Cplx :=
  let w := F32.div (F32.ofInt num) ft
  let n := (F32.floor w).toNat
  let r := F32.sub w (F32.ofInt n)
  let angle (i : Nat) : F32 := F32.div (F32.mul (F32.mul twoPi ft) (F32.ofInt i)) (F32.ofInt rate)
  let at' (i : Nat) : F32 := (xs[i]?).getD 0
  let body (f : F32 → F32) : F32 := sum32 ((List.range n).map (fun i => F32.mul (at' i) (f (angle i))))
  let tail (f : F32 → F32) : F32 := F32.mul (F32.mul r (at' n)) (f (angle n))
  let k := F32.div sqrtTwo w
  Cplx.scale k ⟨F32.add (body cos32) (tail cos32), F32.add (body sin32) (tail sin32)⟩

/-- A phasor with its quality. -/
abbrev QPhasor := Cplx × Half

/-- Full-cycle phasor of a stream of position-0 samples ending in sheaf k (R117, R122): invalid while its window
reaches before the sub-sample from which samples are held. -/
def fullPhasor (x : Nat → F32 × Half) (estFrom k : Nat) (ft : F32) : QPhasor :=
  let c := windowSamples (F32.div (F32.ofInt 4800) ft)
  let vals := (List.range c).map (fun i => if i ≤ k then x (3 * (k - i)) else (0, qInvalid))
  let short := decide (3 * (k + 1) < 3 * c + estFrom)
  (windowPhasor 4800 4800 ft (vals.map (fun v => v.1)),
    worstOf ((if short then [qInvalid] else []) ++ vals.map (fun v => v.2)))

/-- Half-cycle phasor on the 14,400/s grid at sub-sample m (R119). -/
def halfPhasor (x : Nat → F32 × Half) (estFrom m : Nat) (ft : F32) : QPhasor :=
  let c := windowSamples (F32.div (F32.ofInt 7200) ft)
  let vals := (List.range c).map (fun i => if i ≤ m then x (m - i) else (0, qInvalid))
  let short := decide (m + 1 < c + estFrom)
  (windowPhasor 7200 14400 ft (vals.map (fun v => v.1)),
    worstOf ((if short then [qInvalid] else []) ++ vals.map (fun v => v.2)))

/-- A quantity as a stream of values; an absent position counts as invalid. -/
def quantityStream (s : State) (ws : List Word) (q : Nat) (m : Nat) : F32 × Half :=
  (quantityAt s ws q m).getD (0, qInvalid)

/-- f_t for the sheaf (R117): the zone's, F_NOM after a restart. -/
def trackHz (ws : List Word) (z : Zone) : F32 := if z.ft = 0 then fNom ws else z.ft

/-- Phasor of quantity q in sheaf k. -/
def phasorOf (s : State) (ws : List Word) (z : Zone) (k : Nat) (ft : F32) (q : Nat) : QPhasor :=
  if znUse ws q then fullPhasor (quantityStream s ws q) z.estFrom k ft else (Cplx.zero, qInvalid)

/-- a = 1∠120° and its square (R120). -/
def aOp : Cplx := ⟨0xBF000000#32, 0x3F5DB3D7#32⟩
def aOp2 : Cplx := ⟨0xBF000000#32, 0xBF5DB3D7#32⟩

/-- Zero, positive and negative sequence of three phasors (R120), each with the worst quality of the three. -/
def sequences (acb : Bool) (pa pb pc : QPhasor) : QPhasor × QPhasor × QPhasor :=
  let q := worstOf [pa.2, pb.2, pc.2]
  let a := if acb then aOp2 else aOp
  let a2 := if acb then aOp else aOp2
  let third (x : Cplx) : Cplx := ⟨F32.div x.re (F32.ofInt 3), F32.div x.im (F32.ofInt 3)⟩
  let sum (x y : Cplx) : Cplx := third (Cplx.add (Cplx.add pa.1 x) y)
  ((sum pb.1 pc.1, q), (sum (Cplx.mul a pb.1) (Cplx.mul a2 pc.1), q),
    (sum (Cplx.mul a2 pb.1) (Cplx.mul a pc.1), q))

/-- The quantities of a zone in a sheaf: the eight phasors, then the sequence sets of current and voltage. -/
structure Quants where
  ph : List QPhasor
  i0 : QPhasor
  i1 : QPhasor
  i2 : QPhasor
  v0 : QPhasor
  v1 : QPhasor
  v2 : QPhasor
  deriving DecidableEq, Repr

def Quants.at (x : Quants) (q : Nat) : QPhasor := (x.ph[q]?).getD (Cplx.zero, qInvalid)

/-- All full-cycle quantities of a zone at a tracking frequency. -/
def quantsOf (s : State) (ws : List Word) (z : Zone) (k : Nat) (ft : F32) : Quants :=
  let ph := (List.range 8).map (phasorOf s ws z k ft)
  let at' (q : Nat) : QPhasor := (ph[q]?).getD (Cplx.zero, qInvalid)
  let i := sequences (znAcb ws) (at' 0) (at' 1) (at' 2)
  let v := sequences (znAcb ws) (at' 4) (at' 5) (at' 6)
  ⟨ph, i.1, i.2.1, i.2.2, v.1, v.2.1, v.2.2⟩

/-- 3·x. -/
def triple (x : QPhasor) : QPhasor := (Cplx.scale (F32.ofInt 3) x.1, x.2)

/-- wrap of an angle into (−π, +π]. -/
def wrapAngle (x : F32) : F32 :=
  if F32.lt pi32 x then F32.sub x twoPi else if F32.le x (F32.neg pi32) then F32.add x twoPi else x

/-- The angle of a phasor. -/
def argOf (x : Cplx) : F32 := arg32 x.im x.re

/-- The reference phasor of sheaf k (R118): its source (0 none, 1 V1, 2 I1), angle, whether questionable. -/
def referenceOf (ws : List Word) (q : Quants) : Nat × F32 × Bool :=
  let tenth (x : F32) : F32 := F32.mul (F32.ofRatio 1 10) x
  let ok (p : QPhasor) (base : F32) : Bool := !qIsInvalid p.2 && F32.le (tenth base) (Cplx.abs p.1)
  if ok q.v1 (vPhase ws) then (1, argOf q.v1.1, qRank q.v1.2 == 1)
  else if ok q.i1 (znINom ws) then (2, argOf q.i1.1, qRank q.i1.2 == 1)
  else (0, 0, false)

/-- A binary32 frequency rounded to 0.001 Hz. -/
def roundMilli (x : F32) : F32 :=
  let r := F32.toRatio x
  F32.ofRatio (roundHalfAway (1000 * r.1) r.2) 1000

/-- x limited to F_NOM ± 5 Hz. -/
def limitHz (ws : List Word) (x : F32) : F32 :=
  F32.max (F32.ofInt (nominalHz ws - 5)) (F32.min (F32.ofInt (nominalHz ws + 5)) x)

/-- The frequency of a zone after sheaf k, whose lists end in sheaf k − 1 (R118): references, f_raw, f_z with its validity, f_t for the next sheaf.
The references that f_z uses must be an unbroken run of one quantity. Log 21. -/
def frequencyStep (s : State) (ws : List Word) (z : Zone) (k : Nat) : Zone :=
  let q := quantsOf s ws z k (fNom ws)
  let ref := referenceOf ws q
  let refs := (ref :: z.refs).take 577
  let raw : List (F32 × Bool) := match refs[480]? with
    | some old =>
      if ref.1 ≠ 0 ∧ old.1 = ref.1 then
        let d := wrapAngle (F32.sub ref.2.1 old.2.1)
        [(F32.add (fNom ws) (F32.div (F32.mul d (F32.ofInt 10)) twoPi), ref.2.2 || old.2.2)]
      else []
    | none => []
  let n := cycleSheaves ws
  let fraws := if ref.1 = 0 then [] else (raw ++ z.fraws).take n
  let run := (refs.take (480 + n)).takeWhile (fun r => r.1 == ref.1)
  let valid := ref.1 != 0 && run.length == 480 + n && fraws.length == n
  let mean := F32.div (sum32 (fraws.map (fun r => r.1))) (F32.ofInt n)
  let fz := if valid then limitHz ws mean else z.fz
  let quest := !F32.eq fz mean || run.any (fun r => r.2.2)
  let fq : Nat := if valid then (if quest then 3 else 0) else 1
  { z with
    refs := refs
    fraws := fraws
    fz := fz
    fzQ := fq
    fzs := ((fz, fq) :: z.fzs).take 4801
    ft := if valid then limitHz ws (roundMilli fz) else z.ft }

/-- The estimators of a zone in sheaf k (R117, R118, R130): V1 at f_t, and what frequencyStep forms. -/
def estimate (s : State) (ws : List Word) (z : Zone) (k : Nat) : Zone :=
  let v1 := (quantsOf s ws z k (trackHz ws z)).v1
  { frequencyStep s ws z k with v1s := ((v1.1, v1.2.toNat) :: z.v1s).take 193, estAt := some k }

/-- Sheaves over which f_z and its rate of change can look back (R118, R133). -/
def estDepth : Nat := 5377

/-- The estimators brought up to sheaf k − 1: those of sheaves in which the zone was held, DEGRADED or not evaluated follow
from their samples, since R117 and R118 define them for every sheaf and only R122 empties them (DEDUCED, log 97). -/
def catchUp (s : State) (ws : List Word) (z : Zone) (k : Nat) : Zone :=
  match z.estAt with
  | none => z
  | some j =>
    let n := k - 1 - j
    let z := if estDepth < n then { z with refs := [], fraws := [], fzs := [], v1s := [] } else z
    (List.range (min n estDepth)).foldl (fun z i => estimate s ws z (k - min n estDepth + i)) z

end Sys2Proof.Machine
end

