-- ==== Sys2Proof/Machine/Elements.lean ====
section
/-!
DEFINITION. The element library but line differential (R123 to R136, R138 to R141, R143, R147, R151, R152): settings,
input qualities, timers, the step of each type.
-/
namespace Sys2Proof.Machine

/-- Words of instance i = 32 × zone + slot: H0, then eight groups of 24 words (R123). -/
def instWords (p : Option Package) (i : Nat) : List Word := recOr p secInstance i (List.replicate 193 0#32)
def inType (ws : List Word) : Nat := field (wAt ws 0) 7 0
def inQpol (ws : List Word) : Nat := field (wAt ws 0) 9 8
/-- Word w of group g. -/
def inSet (ws : List Word) (g w : Nat) : Word := wAt ws (1 + 24 * g + w)
def inEn (ws : List Word) (g : Nat) : Bool := bit (inSet ws g 0) 0

/-- Settings of a type (R128 to R140): word, lowest and highest value, signed. f: F_NOM in Hz. -/
def settingRanges (type f : Nat) : List (Nat × Int × Int) :=
  let overcurrent (lo hi : Int) : List (Nat × Int × Int) :=
    [(1, lo, hi), (2, 0, 15), (3, 1, 3000), (4, 0, 300000), (5, 0, 10000), (6, 0, 2), (7, 0, 60000), (8, 0, 2),
      (9, 0, 31), (10, 0, 1)]
  let fn : Int := (f : Nat)
  match type with
  | 0x01 => overcurrent 5 4000
  | 0x02 => overcurrent 1 2000 ++ [(11, 0, 1)]
  | 0x03 => overcurrent 2 2000
  | 0x04 => [(1, 0, 2), (2, -90, 90), (3, 60, 90), (4, 5, 200), (5, 2, 100), (6, 0, 2000)]
  | 0x05 => [(1, 50, 1200), (2, 0, 2), (3, 0, 1), (4, 0, 300000), (5, 5, 200), (6, 0, 200)]
  | 0x06 => [(1, 10, 2000), (2, 0, 5), (3, 0, 1), (4, 0, 300000), (5, 5, 200)]
  | 0x07 => [(1, 0, 1), (2, 1000 * fn - 5000, 1000 * fn + 5000), (3, 5, 500), (4, 0, 300000), (5, 10, 90)]
  | 0x08 => [(1, 10, 1000), (2, 0, 2), (3, 10, 100), (4, 0, 60000), (5, 10, 90)]
  | 0x09 => [(1, 2, 200), (2, 2, 200), (3, 0, 1000), (4, 50, 2000), (5, 0, 1), (6, 0, 98303), (7, 0, 98303)]
  | 0x0A => [(1, 10, 400), (2, 100, 150), (3, 10, 10000), (4, 10, 30000), (5, 50, 100), (6, 50, 99), (7, 0, 100)]
  | 0x0B => [(1, 15, 100), (2, 5, 100), (3, 10, 50), (4, 0, 300000)]
  | 0x0D => [(1, 5, 400), (2, 20, 90), (3, 1, 4)]
  | 0x0E => [(1, 1, 4), (2, 10, 30000), (3, 100, 30000), (4, 100, 30000), (5, 100, 30000), (6, 10, 6000),
      (7, 50, 5000), (8, 50, 1000), (9, 0, 60000), (10, 0, 98303), (11, 0, 98303)]
  | _ => []

/-- Admissible TIME_MULT in steps of 0.005 of a CHAR (R142): IEC 0.005 to 1.500, IEEE 0.100 to 15.000. -/
def timeMultOk (char n : Nat) : Bool :=
  if char = 0 ∨ 8 ≤ char then within n 1 3000
  else if char ≤ 4 then within n 1 300
  else within n 20 3000

/-- A boolean point that a setting may name (R185). -/
def boolPointOk (w : Word) : Bool := !isReserved ⟨false, w.toNat⟩

/-- What the step of an element sees: the state as committed, the zone, its words, its context, the sheaf, the
full-cycle quantities at f_t. -/
structure Ctx where
  s : State
  zn : Nat
  ws : List Word
  z : Zone
  k : Nat
  q : Quants
  deriving DecidableEq, Repr

/-- What a step yields: the instance, the booleans with a quality of their own where the type gives one, the words. -/
structure Verdict where
  inst : Inst
  bools : List (Bool × Option Half)
  words : List Word
  deriving DecidableEq, Repr

/-- Booleans that all carry the instance's quality. -/
def plain (bs : List Bool) : List (Bool × Option Half) := bs.map (fun b => (b, none))

/-- The R126 timer: counts c and r, OP. -/
def timerStep (nop nrst : Nat) (pu : Bool) (i : Inst) : Bool × Inst :=
  if pu then (decide (nop ≤ i.c), { i with c := i.c + 1, r := 0 })
  else (false, { i with r := i.r + 1, c := if nrst < i.r + 1 then 0 else i.c })

/-- Pickup with hysteresis of an over-element: pickup at p, dropout below d (R126). -/
def overPickup (q p d : F32) (was : Bool) : Bool := if F32.lt p q then true else if F32.lt q d then false else was
/-- Pickup of an under-element: pickup below p, dropout above d (R126). -/
def underPickup (q p d : F32) (was : Bool) : Bool := if F32.lt q p then true else if F32.lt d q then false else was

/-- 0.95 × P. -/
def dropout95 (p : F32) : F32 := F32.mul (F32.ofRatio 95 100) p

/-- A magnitude with its quality. -/
abbrev QMag := F32 × Half

def magOf (x : QPhasor) : QMag := (Cplx.abs x.1, x.2)

/-- Half-cycle phasor of a zone quantity at sub-sample m (R119). -/
def halfOf (c : Ctx) (q m : Nat) : QPhasor :=
  if znUse c.ws q then halfPhasor (quantityStream c.s c.ws q) c.z.estFrom m (trackHz c.ws c.z)
  else (Cplx.zero, qInvalid)

/-- The three sub-samples of a sheaf. -/
def subs (k : Nat) : List Nat := [3 * k, 3 * k + 1, 3 * k + 2]

/-- The largest of the magnitudes with the worst quality. -/
def maxMag (l : List QMag) : QMag := (F32.maxOf (l.map (fun x => x.1)), worstOf (l.map (fun x => x.2)))

/-- Magnitude of quantity q by the full-cycle or, with FAST, the half-cycle estimator (R119). -/
def quantityMag (c : Ctx) (fast : Bool) (q : Nat) : QMag :=
  if fast then maxMag ((subs c.k).map (fun m => magOf (halfOf c q m))) else magOf (c.q.at q)

/-- Sequence currents by the half-cycle phasors of one sub-sample (R119). -/
def halfSequences (c : Ctx) (m : Nat) : QPhasor × QPhasor × QPhasor :=
  sequences (znAcb c.ws) (halfOf c 0 m) (halfOf c 1 m) (halfOf c 2 m)

/-- |3·I0|, and |I2|, by either estimator. -/
def residualMag (c : Ctx) (fast : Bool) : QMag :=
  if fast then maxMag ((subs c.k).map (fun m => magOf (triple (halfSequences c m).1))) else magOf (triple c.q.i0)
def negativeMag (c : Ctx) (fast : Bool) : QMag :=
  if fast then maxMag ((subs c.k).map (fun m => magOf (halfSequences c m).2.2)) else magOf c.q.i2

/-- A full window of samples is held (R122): c position-0 samples, or c sub-samples, up to sheaf k. -/
def fullWindow (c : Ctx) : Bool :=
  let n := windowSamples (F32.div (F32.ofInt 4800) (trackHz c.ws c.z))
  decide (3 * n + c.z.estFrom ≤ 3 * (c.k + 1))
def halfWindow (c : Ctx) : Bool :=
  let n := windowSamples (F32.div (F32.ofInt 7200) (trackHz c.ws c.z))
  decide (n + c.z.estFrom ≤ 3 * c.k + 1)

/-- WINDOW of 0x08 in sheaves: w = 24 × WINDOW/5 of a count of 10 ms (R133, R124). -/
def rocofSheaves (set : Nat → Word) : Nat := 48 * (set 3).toNat

/-- The instance's input windows are full (R122). -/
def windowsFull (c : Ctx) (type : Nat) (set : Nat → Word) : Bool :=
  let fast := decide (1 ≤ type ∧ type ≤ 3) && truth (set 10)
  let fzValid := c.z.fzQ != 1
  match type with
  | 0x0E => true
  | 0x0D => fullWindow c && halfWindow c
  | 0x07 => fzValid && fullWindow c
  | 0x08 => fzValid && fullWindow c &&
    decide (((c.z.fzs.take (rocofSheaves set + 1)).takeWhile (fun f => f.2 != 1)).length = rocofSheaves set + 1)
  | _ => fullWindow c && (!fast || halfWindow c)

/-- Sub-samples of the BF detector (R134): the residual is IN where bound, else the sum of the phases where all three
are present. -/
def bfSamples (c : Ctx) (m : Nat) : List (F32 × Half) × List (F32 × Half) :=
  let ph := [0, 1, 2].map (fun q => quantityAt c.s c.ws q m)
  let phases := ph.filterMap id
  let resid := if znUse c.ws 3 then (quantityAt c.s c.ws 3 m).toList
    else match ph with
      | [some a, some b, some d] => [(F32.add (F32.add a.1 b.1) d.1, worstOf [a.2, b.2, d.2])]
      | _ => []
  (phases, resid)

/-- The sub-samples of the BF window up to position 2 of the sheaf (R134). -/
def bfWindow (c : Ctx) : List Nat :=
  (List.range (if zn60 c.ws then 144 else 172)).map (fun i => 3 * c.k + 2 - i)

/-- A point setting's committed point; none where it names none. -/
def pointSet (c : Ctx) (w : Word) : Option Point :=
  if w = 0xFFFFFFFF#32 then none else some (boolPoint c.s w.toNat)

/-- Half-cycle phasors of the bays of a busbar zone, by phase, at sub-sample m (R139). -/
def bayPhasors (c : Ctx) (ph m : Nat) : List QPhasor :=
  (baysOf c.s.cfg.package c.zn).map (fun b =>
    halfPhasor (fun n => bayAt c.s b ph n) c.z.estFrom m (trackHz c.ws c.z))

/-- The worst quality of an instance's inputs (R141). The quality of the direction that DIR_REF names is not one of them: an
invalid direction prevents pickup and blocks nothing (DESIGN CHOICE, log 46). -/
def inputQuality (c : Ctx) (type : Nat) (set : Nat → Word) : Half :=
  let fast := truth (set 10)
  let phases : List Half := [0, 1, 2].map (fun q => (c.q.at q).2)
  let volts : List Half := [4, 5, 6].map (fun q => (c.q.at q).2)
  match type with
  | 0x01 => worstOf ([0, 1, 2].map (fun q => (quantityMag c fast q).2))
  | 0x02 => if truth (set 11) then (quantityMag c fast 3).2 else (residualMag c fast).2
  | 0x03 => (negativeMag c fast).2
  | 0x04 =>
    match (set 1).toNat with
    | 0 => worstOf (phases ++ volts)
    | 1 => worstOf [if znUse c.ws 3 then (c.q.at 3).2 else c.q.i0.2, c.q.v0.2]
    | _ => worstOf [c.q.i2.2, c.q.v2.2]
  | 0x05 | 0x06 =>
    let v := match (set 2).toNat with
      | 5 => [(c.q.at 7).2]
      | _ => volts
    worstOf (v ++ (if type = 0x05 ∧ set 6 ≠ 0 then phases else []))
  | 0x07 => worstOf [BitVec.ofNat 16 c.z.fzQ, c.q.v1.2]
  | 0x08 => worstOf ((c.z.fzs.take (rocofSheaves set + 1)).map (fun f => BitVec.ofNat 16 f.2) ++ [c.q.v1.2])
  | 0x09 =>
    let samples := (bfWindow c).flatMap (fun m => ((bfSamples c m).1 ++ (bfSamples c m).2).map (fun x => x.2))
    let init := [(boolPoint c.s (set 6).toNat).q]
    let cb := if truth (set 5) then [(boolPoint c.s (set 7).toNat).q] else []
    worstOf (samples ++ init ++ cb)
  | 0x0A => worstOf phases
  | 0x0B => worstOf (phases ++ [c.q.i1.2, c.q.i2.2])
  | 0x0D => worstOf ([0, 1, 2].flatMap (fun ph => (subs c.k).flatMap (fun m =>
      (bayPhasors c ph m).map (fun x => x.2))))
  | 0x0E => worstOf ([10, 11, 12, 13].filterMap (fun w => (pointSet c (set w)).map (fun p => p.q)))
  | _ => qInvalid

/-- Whether the direction element of DIR_REF permits a phase (0 to 2) or the single quantity (3) (R129, R130). -/
def permits (dirs : FMap Inst) (set : Nat → Word) (ph : Nat) : Bool :=
  let mode := (set 8).toNat
  if mode = 0 then true
  else
    match FMap.get? dirs (set 9).toNat with
    | none => false
    | some d =>
      let o := if ph = 3 then mode - 1 else (if mode = 1 then 2 else 5) + ph
      let pt := (d.bools[o]?).getD Point.invalid
      truth pt.value && !qIsInvalid pt.q

/-- TIME_MULT as binary32: n × 0.005 s per s. -/
def timeMult (set : Nat → Word) : F32 := F32.ofRatio ((set 3).toNat : Nat) 200

/-- DT_OVER_TM = (1/4800) / TIME_MULT (R146). -/
def dtOverTm (set : Nat → Word) : F32 := F32.div (F32.div F32.one (F32.ofInt 4800)) (timeMult set)

/-- Compensated addition of R147 of an increment. -/
def accumulate (d : F32) (i : Inst) : Inst :=
  let y := F32.sub d i.comp
  let s := F32.add i.s y
  let c := F32.sub (F32.sub s i.s) y
  if F32.le F32.one s then { i with s := F32.one, comp := 0 }
  else if F32.le s 0#32 then { i with s := 0, comp := 0 }
  else { i with s := s, comp := c }

/-- The accumulator in the Reset region (R151). tr: TR in s; q: the operating quantity; blocked takes Mr = 0. -/
def resetAccumulator (set : Nat → Word) (tr m : F32) (blocked : Bool) (i : Inst) : Inst :=
  match (set 6).toNat with
  | 0 => { i with s := 0, comp := 0 }
  | 1 => if sheavesOfMs (set 7).toNat < i.r then { i with s := 0, comp := 0 } else i
  | _ =>
    let mr := if blocked then 0#32 else F32.min m F32.one
    let d := F32.div (F32.mul (F32.sub F32.one (F32.mul mr mr)) (dtOverTm set)) tr
    accumulate (F32.neg d) i

/-- One sheaf of an inverse-time instance (R143, R147, R151): rate gives the curve increment at M, before DT_OVER_TM. -/
def inverseStep (set : Nat → Word) (rate : F32 → F32) (tr m : F32) (pu blocked : Bool) (i : Inst) : Bool × Inst :=
  let i := { i with r := if pu then 0 else i.r + 1 }
  let i :=
    if !pu then resetAccumulator set tr m blocked i
    else if F32.le (F32.ofRatio 103 100) m then accumulate (F32.mul (rate m) (dtOverTm set)) i
    else i
  (F32.eq i.s F32.one && pu && decide (sheavesOfMs (set 5).toNat ≤ i.run - 1), i)

/-- OP and the timers of an overcurrent instance (R126, R143, R152); the picked-up sheaves are counted under every CHAR (R147). -/
def operateStep (set : Nat → Word) (rate : F32 → F32) (tr q p : F32) (pu blocked : Bool) (i : Inst) : Bool × Inst :=
  let i := { i with run := if pu then i.run + 1 else 0 }
  if (set 2).toNat = 0 then
    timerStep (sheavesOfMs (set 4).toNat) (if (set 6).toNat = 0 then 0 else sheavesOfMs (set 7).toNat) pu i
  else inverseStep set rate tr (F32.div q p) pu blocked i

/-- PICKUP × 0.01 × I_NOM (R128). -/
def pickupCurrent (c : Ctx) (w : Word) : F32 := stepsOf w.toNat 100 (znINom c.ws)

/-- 0x01 phase overcurrent (R128, R129). -/
def phaseOvercurrent (c : Ctx) (dirs : FMap Inst) (set : Nat → Word) (rate : F32 → F32) (tr : F32) (blocked : Bool)
    (i : Inst) : Verdict :=
  let p := pickupCurrent c (set 1)
  let mags := [0, 1, 2].map (fun ph => (quantityMag c (truth (set 10)) ph).1)
  let can := [0, 1, 2].map (fun ph => !blocked && permits dirs set ph)
  let pu := [0, 1, 2].map (fun ph =>
    (can[ph]?).getD false && overPickup ((mags[ph]?).getD 0) p (dropout95 p) ((i.pu[ph]?).getD false))
  let q := F32.maxOf ([0, 1, 2].map (fun ph => if permits dirs set ph then (mags[ph]?).getD 0 else 0#32))
  let any := pu.any id
  let r := operateStep set rate tr q p any blocked { i with pu := pu }
  ⟨{ r.2 with op := r.1 }, plain (any :: r.1 :: pu), [q]⟩

/-- 0x02 ground and 0x03 negative-sequence overcurrent (R128, R129). -/
def singleOvercurrent (c : Ctx) (type : Nat) (dirs : FMap Inst) (set : Nat → Word) (rate : F32 → F32) (tr : F32)
    (blocked : Bool) (i : Inst) : Verdict :=
  let p := pickupCurrent c (set 1)
  let fast := truth (set 10)
  let q := if type = 3 then (negativeMag c fast).1
    else if truth (set 11) then (quantityMag c fast 3).1 else (residualMag c fast).1
  let pu := !blocked && permits dirs set 3 && overPickup q p (dropout95 p) ((i.pu[0]?).getD false)
  let r := operateStep set rate tr q p pu blocked { i with pu := [pu] }
  ⟨{ r.2 with op := r.1 }, plain [pu, r.1], [q]⟩

/-- Degrees as binary32 radians. -/
def radians (d : Int) : F32 := F32.div (F32.mul (F32.ofInt d) pi32) (F32.ofInt 180)

/-- The direction of an operating and a polarising phasor (R130): 1 forward, 2 reverse, 0 none. -/
def direction (set : Nat → Word) (iop vpol : Cplx) (imin vmin : F32) : Nat :=
  if F32.lt (Cplx.abs iop) imin || F32.lt (Cplx.abs vpol) vmin then 0
  else
    let d := wrapAngle (F32.sub (wrapAngle (F32.sub (argOf iop) (argOf vpol))) (radians (wInt (set 2))))
    let hw := radians (wInt (set 3))
    if F32.le (F32.abs d) hw then 1
    else if F32.le (F32.abs (wrapAngle (F32.sub d pi32))) hw then 2
    else 0

/-- The quadrature voltages of R130 MODE 0: j·V_BC, j·V_CA, j·V_AB. -/
def quadrature (q : Quants) (ph : Nat) : QPhasor :=
  let d (a b : Nat) : QPhasor := (Cplx.timesJ (Cplx.sub (q.at a).1 (q.at b).1), worstOf [(q.at a).2, (q.at b).2])
  if ph = 0 then d 5 6 else if ph = 1 then d 6 4 else d 4 5

/-- A phasor turned by an angle. -/
def turn (angle : F32) (x : Cplx) : Cplx := Cplx.mul ⟨cos32 angle, sin32 angle⟩ x

/-- The memorised positive-sequence voltage shifted to a phase's quadrature position (R130): j·(V_BC) of a balanced set
is √3·V1 at phase A; B and C follow at a² and a, exchanged for ROT ACB, whose difference also changes sign. -/
def memoryQuadrature (c : Ctx) (v1 : Cplx) (ph : Nat) : Cplx :=
  let root3 := F32.sqrt (F32.ofInt 3)
  let base := Cplx.scale root3 v1
  let base := if znAcb c.ws then Cplx.neg base else base
  let second := if znAcb c.ws then aOp else aOp2
  let third := if znAcb c.ws then aOp2 else aOp
  if ph = 0 then base else if ph = 1 then Cplx.mul second base else Cplx.mul third base

/-- The memory at the first sheaf of a voltage-loss run (R130): V1 of sheaf k_f − w, with the frozen f_t. -/
def takeMemory (c : Ctx) : Option (Nat × QPhasor × F32) :=
  let w := if zn60 c.ws then 160 else 192
  match c.z.v1s[w]? with
  | some v =>
    if v.2 % 4 ≠ 1 ∧ F32.le (F32.mul (F32.ofRatio 1 2) (vPhase c.ws)) (Cplx.abs v.1) then
      some (c.k, (v.1, BitVec.ofNat 16 v.2), trackHz c.ws c.z)
    else none
  | none => none

/-- 0x04 directional supervision (R130). -/
def directional (c : Ctx) (set : Nat → Word) (blocked : Bool) (i : Inst) : Verdict :=
  let vmin := stepsOf (set 4).toNat 1000 (znVNom c.ws)
  let imin := stepsOf (set 5).toNat 100 (znINom c.ws)
  let out (d : Nat) : Bool × Bool := (!blocked && d == 1, !blocked && d == 2)
  if (set 1).toNat = 0 then
    let pols := [0, 1, 2].map (quadrature c.q)
    let low := pols.any (fun p => F32.lt (Cplx.abs p.1) vmin)
    let sound := F32.le (F32.mul (F32.ofRatio 1 2) (vPhase c.ws)) (Cplx.abs c.q.v1.1)
    let i := if sound then { i with v1Seen := some c.k } else i
    let i :=
      if low then (if i.lossFrom.isNone then { i with lossFrom := some c.k, memory := takeMemory c } else i)
      else { i with lossFrom := none, memory := none }
    let w := if zn60 c.ws then 160 else 192
    let lasts := sheavesOfMs (set 6).toNat
    let remembered : Option QPhasor := match i.lossFrom, i.memory with
      | some kf, some (_, v1, ft) =>
        if c.k - kf < lasts ∧ (i.v1Seen.any (fun k => decide (c.k - k < lasts))) then
          let n := c.k - kf + w
          some (turn (F32.div (F32.mul (F32.mul twoPi ft) (F32.ofInt (n : Nat))) (F32.ofInt 4800)) v1.1, v1.2)
        else none
      | _, _ => none
    let res := [0, 1, 2].map (fun ph =>
      let iop := c.q.at ph
      let pol := quadrature c.q ph
      if F32.lt (Cplx.abs pol.1) vmin then
        match remembered with
        | some v => (direction set iop.1 (memoryQuadrature c v.1 ph) imin 0#32, worstOf [iop.2, v.2])
        | none => (0, worstOf [iop.2, pol.2])
      else (direction set iop.1 pol.1 imin vmin, worstOf [iop.2, pol.2]))
    let fq := worstOf (res.map (fun r => r.2))
    let f := res.map (fun r => ((out r.1).1, some r.2))
    let r := res.map (fun x => ((out x.1).2, some x.2))
    ⟨i, (f.any (fun x => x.1), some fq) :: (r.any (fun x => x.1), some fq) :: f ++ r, []⟩
  else
    let pair : QPhasor × QPhasor :=
      if (set 1).toNat = 1 then
        (if znUse c.ws 3 then c.q.at 3 else triple c.q.i0,
          let v := triple c.q.v0
          (Cplx.neg v.1, v.2))
      else (c.q.i2, (Cplx.neg c.q.v2.1, c.q.v2.2))
    let d := direction set pair.1.1 pair.2.1 imin vmin
    let q := some (worstOf [pair.1.2, pair.2.2])
    let f := ((out d).1, q)
    let r := ((out d).2, q)
    ⟨i, [f, r, f, f, f, r, r, r], []⟩

/-- The voltages of MEAS (R131) and the base PICKUP counts. -/
def voltageMeasure (c : Ctx) (meas : Nat) : List QMag × F32 :=
  let at' (q : Nat) : QPhasor := c.q.at q
  let diff (a b : Nat) : QMag := magOf (Cplx.sub (at' a).1 (at' b).1, worstOf [(at' a).2, (at' b).2])
  match meas with
  | 0 => ([magOf (at' 4), magOf (at' 5), magOf (at' 6)], vPhase c.ws)
  | 1 => ([diff 4 5, diff 5 6, diff 6 4], znVNom c.ws)
  | 2 => ([magOf c.q.v1], vPhase c.ws)
  | 3 => ([magOf (triple c.q.v0)], vPhase c.ws)
  | 4 => ([magOf c.q.v2], vPhase c.ws)
  | _ => ([magOf (at' 7)], vPhase c.ws)

/-- 0x05 undervoltage and 0x06 overvoltage (R131). VAL is the voltage that decides PU. Log 22. Blocked by I_SUPV, PU and OP are
false at the inputs' quality and no entry is written: R131 does not say (DESIGN CHOICE, log 95). -/
def voltageElement (c : Ctx) (under : Bool) (set : Nat → Word) (blocked : Bool) (i : Inst) : Verdict :=
  let meas := (set 2).toNat
  let m := voltageMeasure c meas
  let p := stepsOf (set 1).toNat 1000 m.2
  let h := F32.ofRatio ((set 5).toNat : Nat) 1000
  let d := if under then F32.mul p (F32.add F32.one h) else F32.mul p (F32.sub F32.one h)
  let supv := stepsOf (set 6).toNat 100 (znINom c.ws)
  let weak := under && set 6 != 0 && [0, 1, 2].all (fun q => F32.lt (magOf (c.q.at q)).1 supv)
  let n := m.1.length
  let pu := (List.range n).map (fun ph =>
    let v := ((m.1[ph]?).map (fun x => x.1)).getD 0
    let was := (i.pu[ph]?).getD false
    !blocked && !weak && (if under then underPickup v p d was else overPickup v p d was))
  let all := truth (set 3)
  let any := if n = 1 ∨ all = false then pu.any id else pu.all id
  let vals := m.1.map (fun x => x.1)
  let val := if under == all then F32.maxOf vals else vals.foldl F32.min ((vals[0]?).getD 0)
  let r := timerStep (sheavesOfMs (set 4).toNat) 0 any { i with pu := pu }
  let unused : List (Bool × Option Half) := List.replicate 3 (false, some qInvalid)
  ⟨{ r.2 with op := r.1 }, plain [any, r.1] ++ (if n = 3 then plain pu else unused), [val]⟩

/-- 0x07 under- or overfrequency (R132). Blocked by V_BLOCK, PU and OP are false at the inputs' quality and no entry is written:
R132 does not say (DESIGN CHOICE, log 95). -/
def frequencyElement (c : Ctx) (set : Nat → Word) (blocked : Bool) (i : Inst) : Verdict :=
  let f := c.z.fz
  let p := F32.ofRatio ((set 2).toNat : Nat) 1000
  let h := F32.ofRatio ((set 3).toNat : Nat) 1000
  let was := (i.pu[0]?).getD false
  let low := F32.lt (Cplx.abs c.q.v1.1) (stepsOf (set 5).toNat 100 (vPhase c.ws))
  let pu := !blocked && !low &&
    (if truth (set 1) then (if F32.le p f then true else if F32.lt f (F32.sub p h) then false else was)
    else (if F32.le f p then true else if F32.lt (F32.add p h) f then false else was))
  let r := timerStep (sheavesOfMs (set 4).toNat) 0 pu { i with pu := [pu] }
  ⟨{ r.2 with op := r.1 }, plain [pu, r.1], [f]⟩

/-- 0x08 rate of change of frequency (R133). VAL is the signed rate whatever DIR is, which R133 leaves open (DESIGN CHOICE, log
95). -/
def rocofElement (c : Ctx) (set : Nat → Word) (blocked : Bool) (i : Inst) : Verdict :=
  let w := rocofSheaves set
  let old := ((c.z.fzs[w]?).map (fun x => x.1)).getD c.z.fz
  let rocof := F32.div (F32.mul (F32.sub c.z.fz old) (F32.ofInt 4800)) (F32.ofInt (w : Nat))
  let x := match (set 2).toNat with
    | 0 => F32.abs rocof
    | 1 => F32.neg rocof
    | _ => rocof
  let p := F32.ofRatio ((set 1).toNat : Nat) 100
  let low := F32.lt (Cplx.abs c.q.v1.1) (stepsOf (set 5).toNat 100 (vPhase c.ws))
  let was := (i.pu[0]?).getD false
  let pu := !blocked && !low && (if F32.le p x then true else if F32.lt x (dropout95 p) then false else was)
  let r := timerStep (sheavesOfMs (set 4).toNat) 0 pu { i with pu := [pu] }
  ⟨{ r.2 with op := r.1 }, plain [pu, r.1], [rocof]⟩

/-- 0x09 breaker failure (R134). -/
def breakerFailure (c : Ctx) (set : Nat → Word) (blocked : Bool) (i : Inst) : Verdict :=
  let ip := F32.mul sqrtTwo (pickupCurrent c (set 1))
  let np := F32.mul sqrtTwo (pickupCurrent c (set 2))
  let hot := (bfWindow c).any (fun m =>
    let x := bfSamples c m
    x.1.any (fun v => F32.le ip (F32.abs v.1)) || x.2.any (fun v => F32.le np (F32.abs v.1)))
  let contact := truth (set 5) && truth (boolPoint c.s (set 7).toNat).value
  let cur := !blocked && (hot || contact)
  let init := truth (boolPoint c.s (set 6).toNat).value
  let run := cur && (init || i.initiated)
  let r1 := timerStep (sheavesOfMs (set 3).toNat) 0 run { i with initiated := run }
  let j := { r1.2 with c := i.c2, r := i.r2 }
  let r2 := timerStep (sheavesOfMs (set 4).toNat) 0 run j
  ⟨{ r2.2 with c := r1.2.c, r := r1.2.r, c2 := r2.2.c, r2 := r2.2.r }, plain [cur, r1.1, r2.1], []⟩

/-- 0x0A thermal overload (R135): θ freezes while blocked. θ is summed up beyond the places of binary32, without which the bound of
1 % on the operate time cannot hold, and shown as binary32 (DEDUCED, log 3). -/
def thermalElement (c : Ctx) (set : Nat → Word) (blocked : Bool) (i : Inst) : Verdict :=
  let ib := pickupCurrent c (set 1)
  let imax := F32.maxOf ([0, 1, 2].map (fun q => (magOf (c.q.at q)).1))
  let x := F32.div imax (F32.mul (F32.ofRatio ((set 2).toNat : Nat) 100) ib)
  let h := F32.mul x x
  let cool := F32.lt imax (F32.mul (F32.ofRatio 5 100) ib)
  let tau := F32.ofInt (6 * ((if cool then set 4 else set 3).toNat : Nat))
  let sum := if blocked then i.thetaSum
    else i.thetaSum + Fix.mul (F32.saturated h - i.thetaSum) (F32.fix (thermal32 tau))
  let th := F32.ofIntScaled sum (-160)
  let alarm := !blocked && F32.le (F32.ofRatio ((set 5).toNat : Nat) 100) th
  let held := i.op && !F32.lt th (F32.ofRatio ((set 6).toNat : Nat) 100)
  let op := !blocked && (F32.le F32.one th || held)
  ⟨{ i with thetaSum := sum, op := op }, plain [alarm, op], [th]⟩

/-- 0x0B broken conductor (R136). -/
def brokenConductor (c : Ctx) (set : Nat → Word) (blocked : Bool) (i : Inst) : Verdict :=
  let i1 := Cplx.abs c.q.i1.1
  let ratio := F32.div (Cplx.abs c.q.i2.1) i1
  let p := F32.ofRatio ((set 1).toNat : Nat) 100
  let imax := stepsOf (set 3).toNat 10 (znINom c.ws)
  let armed := F32.le (pickupCurrent c (set 2)) i1 && [0, 1, 2].all (fun q => F32.le (magOf (c.q.at q)).1 imax)
  let was := (i.pu[0]?).getD false
  let pu := !blocked && armed && (if F32.le p ratio then true else if F32.lt ratio (dropout95 p) then false else was)
  let r := timerStep (sheavesOfMs (set 4).toNat) 0 pu { i with pu := [pu] }
  ⟨{ r.2 with op := r.1 }, plain [pu, r.1], [ratio]⟩

/-- Complex sum of several terms, in the generation's order (R112). -/
def sumPhasors (l : List Cplx) : Cplx := ⟨sum32 (l.map (fun x => x.re)), sum32 (l.map (fun x => x.im))⟩

/-- 0x0D busbar differential (R139): the largest of the sheaf's three magnitudes. Log 23. -/
def busbarDifferential (c : Ctx) (set : Nat → Word) (blocked : Bool) (i : Inst) : Verdict :=
  let imin := pickupCurrent c (set 1)
  let slope := F32.ofRatio ((set 2).toNat : Nat) 100
  let sums (ph : Nat) : F32 × F32 :=
    let l := (subs c.k).map (fun m =>
      let b := (bayPhasors c ph m).map (fun x => x.1)
      (Cplx.abs (sumPhasors b), sum32 (b.map Cplx.abs)))
    (F32.maxOf (l.map (fun x => x.1)), F32.maxOf (l.map (fun x => x.2)))
  let s := [0, 1, 2].map sums
  let pu := s.map (fun x => !blocked && F32.le imin x.1 && F32.le (F32.mul slope x.2) x.1)
  let confirm := [0, 1, 2].map (fun ph => if (pu[ph]?).getD false then (i.confirm[ph]?).getD 0 + 1 else 0)
  let op := confirm.map (fun n => decide ((set 3).toNat ≤ n) && decide (n ≠ 0))
  ⟨{ i with confirm := confirm, pu := pu, op := op.any id }, plain (pu.any id :: op.any id :: op),
    [F32.maxOf (s.map (fun x => x.1))]⟩

/-- The inputs of an auto-reclose step: INIT rises, breaker closed, sync given, block. -/
structure RecloseIn where
  rise : Bool
  closed : Bool
  sync : Bool
  block : Bool
  deriving DecidableEq, Repr

/-- Enters an auto-reclose state in this sheaf (R126: the count c is 1 in it). -/
def recloseGo (st : Reclose) (i : Inst) : Inst := { i with reclose := st, ticks := 1, syncTicks := 0 }

/-- Enters LOCKOUT, whose count runs while the breaker is closed (R140). -/
def recloseLockout (x : RecloseIn) (i : Inst) : Inst := { recloseGo .lockout i with ticks := if x.closed then 1 else 0 }

/-- A count of R126 has reached a delay. -/
def reached (ticks n : Nat) : Bool := decide (n + 1 ≤ ticks)

/-- DEADn of the shot under way, in sheaves: steps of 10 ms. -/
def deadSheaves (set : Nat → Word) (shot : Nat) : Nat := sheavesOfMs (10 * (set (1 + min (max shot 1) 4)).toNat)

/-- What the expiry of a time does in the present state (R140). -/
def recloseExpiry (set : Nat → Word) (x : RecloseIn) (i : Inst) : Inst :=
  match i.reclose with
  | .waitOpen => if reached i.ticks (sheavesOfMs (set 7).toNat) then recloseLockout x i else i
  | .dead =>
    if reached i.ticks (deadSheaves set i.shots) then
      if x.sync then recloseGo .closing i
      else if reached i.syncTicks (sheavesOfMs (set 9).toNat) then recloseLockout x i else i
    else i
  | .closing => if reached i.ticks (sheavesOfMs (set 8).toNat) then recloseLockout x i else i
  | .reclaim =>
    if reached i.ticks (sheavesOfMs (100 * (set 6).toNat)) then { recloseGo .ready i with shots := 0 } else i
  | .lockout =>
    if reached i.ticks (sheavesOfMs (100 * (set 6).toNat)) then { recloseGo .ready i with shots := 0 } else i
  | _ => i

/-- One sheaf of 0x0E auto-reclose (R140) on enabled settings. The count of LOCKOUT runs while the breaker is closed;
SYNC_WAIT runs from the end of the dead time. -/
def recloseStep (set : Nat → Word) (x : RecloseIn) (i : Inst) : Inst :=
  let i := match i.reclose with
    | .lockout => { i with ticks := if x.closed then i.ticks + 1 else 0 }
    | .dead =>
      { i with
        ticks := i.ticks + 1
        syncTicks := if reached (i.ticks + 1) (deadSheaves set i.shots) && !x.sync then i.syncTicks + 1 else 0 }
    | _ => { i with ticks := i.ticks + 1 }
  match i.reclose with
  | .disabled => { recloseLockout x i with shots := 0 }
  | .lockout => if x.block then i else recloseExpiry set x i
  | st =>
    if x.block then recloseLockout x i
    else
      match st with
      | .ready => if x.rise && x.closed then recloseGo .waitOpen i else i
      | .waitOpen =>
        if !x.closed then { recloseGo .dead i with shots := i.shots + 1 } else recloseExpiry set x i
      | .closing => if x.closed then recloseGo .reclaim i else recloseExpiry set x i
      | .reclaim =>
        if x.rise then (if i.shots < (set 1).toNat then recloseGo .waitOpen i else recloseLockout x i)
        else recloseExpiry set x i
      | _ => recloseExpiry set x i

/-- The outputs of an auto-reclose state: CLOSE, READY, IN_PROG, LOCKOUT (R125). IN_PROG in every state between READY
and LOCKOUT. Log 24. -/
def recloseBools (st : Reclose) : List Bool :=
  match st with
  | .disabled => [false, false, false, false]
  | .lockout => [false, false, false, true]
  | .ready => [false, true, false, false]
  | .closing => [true, false, true, false]
  | _ => [false, false, true, false]

/-- What an auto-reclose instance reads. -/
def recloseInputs (c : Ctx) (set : Nat → Word) (i : Inst) : RecloseIn :=
  let v (w : Nat) (d : Bool) : Bool := match pointSet c (set w) with
    | some p => truth p.value
    | none => d
  ⟨v 10 false && !i.prevInit, v 11 false, v 12 true, v 13 false⟩

/-- 0x0E auto-reclose (R140). -/
def autoReclose (c : Ctx) (set : Nat → Word) (i : Inst) : Verdict :=
  let j := recloseStep set (recloseInputs c set i) i
  let now := match pointSet c (set 10) with
    | some p => truth p.value
    | none => false
  ⟨{ j with prevInit := now }, plain (recloseBools j.reclose), [BitVec.ofNat 32 j.shots]⟩

end Sys2Proof.Machine
end

