-- ==== Sys2Proof/Machine/Inverse.lean ====
section
/-!
DEFINITION. Inverse-time curves, user tables and the curve increment (R142, R144 to R146); the range checks of element
settings (R124 to R144, R152).
-/
namespace Sys2Proof.Machine

/-- Fixed point with 200 bits after the point: e^x by the Taylor series of x/256 and eight squarings. -/
def fxOne : Nat := 2 ^ 200
def fxExpTerms (x : Nat) : Nat → Nat → Nat → Nat
  | 0, _, _ => 0
  | fuel + 1, n, term => term + fxExpTerms x fuel (n + 1) (term * x / (fxOne * (n + 1)))
def fxSquare : Nat → Nat → Nat
  | 0, y => y
  | n + 1, y => fxSquare n (y * y / fxOne)
def fxExp (x : Nat) : Nat := fxSquare 8 (fxExpTerms (x / 256) 60 0 fxOne)

/-- atanh series terms z + z³/3 + z⁵/5 + … . -/
def fxAtanh (z2 : Nat) : Nat → Nat → Nat → Nat
  | 0, _, _ => 0
  | fuel + 1, n, p => p / (2 * n + 1) + fxAtanh z2 fuel (n + 1) (p * z2 / fxOne)
def fxLnCore (n d : Nat) : Nat :=
  let z := (n - d) * fxOne / (n + d)
  2 * fxAtanh (z * z / fxOne) 70 0 z
/-- ln(n/d) in fixed point for n ≥ d > 0. -/
def fxLn (n d : Nat) : Nat :=
  let e := Nat.log2 (n / d)
  e * fxLnCore 2 1 + fxLnCore n (d * 2 ^ e)

/-- ln 1.03, ln(100/1.03), and ln of table node i (R146). -/
def lnLow : Nat := fxLn 103 100
def lnSpan : Nat := fxLn 10000 103
def lnNode (i : Nat) : Nat := lnLow + i * lnSpan / 1023

/-- Constants of a built-in curve (R142): IEC or IEEE, k or A, α or p, B, TR, each over 10,000. -/
structure Curve where
  ieee : Bool
  a : Nat
  p : Nat
  b : Nat
  tr : Nat
  deriving DecidableEq, Repr

def curveOf : Nat → Curve
  | 1 => ⟨false, 1400, 200, 0, 97000⟩
  | 2 => ⟨false, 135000, 10000, 0, 432000⟩
  | 3 => ⟨false, 800000, 20000, 0, 582000⟩
  | 4 => ⟨false, 1200000, 10000, 0, 800000⟩
  | 5 => ⟨true, 515, 200, 1140, 48500⟩
  | 6 => ⟨true, 196100, 20000, 4910, 216000⟩
  | _ => ⟨true, 282000, 20000, 1217, 291000⟩

/-- G[i] of a built-in curve: 1/t_1(M_i) rounded to binary32 (R146). -/
def curveNode (c : Curve) (i : Nat) : F32 :=
  let m := fxExp (lnNode i * c.p / 10000) - fxOne
  if c.ieee then F32.round false (m * 10000) (c.a * fxOne + c.b * m) 0
  else F32.round false (m * 10000) (c.a * fxOne) 0

/-- User table words (R144): U0, U1, then pairs M_MILLI, T_100US. -/
def ucWords (p : Option Package) (n : Nat) : List Word := recOr p secCurve n (List.replicate 34 0#32)
def ucPoints (ws : List Word) : Nat := field (wAt ws 0) 4 0
def ucTr (ws : List Word) : Nat := (wAt ws 1).toNat
def ucM (ws : List Word) (i : Nat) : Nat := (wAt ws (2 + 2 * i)).toNat
def ucT (ws : List Word) (i : Nat) : Nat := (wAt ws (3 + 2 * i)).toNat

/-- The table node nearest to a user point's M (R145). -/
def ucNode (ws : List Word) (i : Nat) : Nat :=
  if ucM ws i < 1030 then 0 else ((fxLn (ucM ws i) 1000 - lnLow) * 1023 + lnSpan / 2) / lnSpan

/-- The log-log slope between points i and i + 1 is at most 20 in magnitude (R144). -/
def ucSlopeOk (ws : List Word) (i : Nat) : Bool :=
  decide (fxLn (ucT ws i) (ucT ws (i + 1)) ≤ 20 * fxLn (ucM ws (i + 1)) (ucM ws i))

/-- The first word of a user table that breaks R144, none where it is fine. -/
def ucFault (ws : List Word) : Option Nat :=
  let n := ucPoints ws
  if ¬ within n 2 16 then some 0
  else if ¬ (ucTr ws = 0 ∨ within (ucTr ws) 100 600000) then some 1
  else
    firstBad ((List.range n).flatMap (fun i =>
      [(2 + 2 * i,
          within (ucM ws i) 1030 100000 && (i != 0 || ucM ws 0 == 1030) && (i != n - 1 || ucM ws i == 100000) &&
            (i == 0 || (decide (ucM ws (i - 1) < ucM ws i) && decide (ucNode ws (i - 1) + 2 ≤ ucNode ws i)))),
        (3 + 2 * i,
          within (ucT ws i) 1 100000000 && (i == 0 || (decide (ucT ws i ≤ ucT ws (i - 1)) &&
            decide (0 < ucT ws (i - 1)) && ucSlopeOk ws (i - 1))))]))

/-- The segment of the realised curve that holds node position i: the point before it, by number. -/
def ucSegment (ws : List Word) (i : Nat) : Nat :=
  let n := ucPoints ws
  min (((List.range n).filter (fun j => decide (ucNode ws j ≤ i))).length - 1) (n - 2)

/-- G[i] of a user table: 1/t of the realised curve at node i, linear in ln t against ln M (R145), rounded to binary32.
Log 25. -/
def ucNodeRate (ws : List Word) (i : Nat) : F32 :=
  let j := ucSegment ws i
  let a := ucNode ws j
  let b := ucNode ws (j + 1)
  let drop := fxLn (ucT ws j) (ucT ws (j + 1))
  let up := fxExp (drop * (i - a) / (b - a))
  F32.round false (up * 10000) (ucT ws j * fxOne) 0

/-- g of R146 at the multiple M by a table's nodes; seg: seg_lo and seg_hi of a user table at a node position. -/
def curveRate (node : Nat → F32) (seg : Option (Nat → Nat × Nat)) (m : F32) : F32 :=
  let mc := F32.min m (F32.ofInt 100)
  let low := F32.ofRatio 103 100
  let scale := F32.div (F32.ofInt 1023) (log2f (F32.div (F32.ofInt 100) low))
  let x := F32.max 0 (F32.mul (F32.sub (log2f mc) (log2f low)) scale)
  let i : Nat := min (F32.floor x).toNat 1021
  let i : Nat := match seg with
    | none => i
    | some f =>
      let b := f i
      max b.1 (min i (b.2 - 2))
  let fr := F32.sub x (F32.ofInt (i : Nat))
  let g0 := node i
  let g1 := node (i + 1)
  let g2 := node (i + 2)
  let lin := F32.mul fr (F32.sub g1 g0)
  let quad := F32.mul (F32.div (F32.mul fr (F32.sub fr F32.one)) (F32.ofInt 2))
    (F32.add (F32.sub g2 (F32.mul (F32.ofInt 2) g1)) g0)
  F32.add (F32.add g0 lin) quad

/-- The increment g at M of a CHAR (1 to 15). -/
def charRate (p : Option Package) (char : Nat) (m : F32) : F32 :=
  if char < 8 then curveRate (curveNode (curveOf char)) none m
  else
    let ws := ucWords p (char - 8)
    curveRate (ucNodeRate ws) (some (fun i => (ucNode ws (ucSegment ws i), ucNode ws (ucSegment ws i + 1)))) m

/-- TR in s of a CHAR (R142, R144). -/
def charTr (p : Option Package) (char : Nat) : F32 :=
  if char < 8 then F32.ofRatio ((curveOf char).tr : Nat) 10000
  else F32.ofRatio (ucTr (ucWords p (char - 8)) : Nat) 1000

/-- The value of a setting word as its range reads it: signed where the range goes below 0. -/
def settingValue (lo : Int) (w : Word) : Int := if lo < 0 then wInt w else w.toNat

/-- Rules of one group's settings beyond their ranges (R128, R129, R131, R134, R140, R144, R152): (word, fine). -/
def groupRules (p : Option Package) (z type : Nat) (set : Nat → Word) : List (Nat × Bool) :=
  let zw := zoneWords p z
  let use (q : Nat) : Bool := znUse zw q
  let char := (set 2).toNat
  let fast := truth (set 10)
  let slow (q : Nat) : Bool := use q && slotSlow p (znSlot zw q)
  let pointOk (w : Nat) : Bool := boolPointOk (set w)
  let optional (w : Nat) : Bool := set w == 0xFFFFFFFF#32 || boolPointOk (set w)
  let curveOk : Bool := decide (char < 8) ||
    (ucFault (ucWords p (char - 8))).isNone
  let resetOk : Bool := set 6 != 2 || (char != 0 && (decide (char < 8) || ucTr (ucWords p (char - 8)) != 0))
  let dirOk : Bool := set 8 == 0 || inType (instWords p (32 * z + (set 9).toNat)) == 0x04
  let oc (fastQ : List Nat) : List (Nat × Bool) :=
    [(2, curveOk), (3, timeMultOk char (set 3).toNat), (6, resetOk), (9, dirOk),
      (10, !fast || (char == 0 && fastQ.all (fun q => !slow q)))]
  match type with
  | 0x01 => oc [0, 1, 2]
  | 0x02 => oc (if truth (set 11) then [3] else [0, 1, 2]) ++ [(11, !truth (set 11) || use 3)]
  | 0x03 => oc [0, 1, 2]
  | 0x06 =>
    let m := (set 2).toNat
    [(1, if m ≤ 2 then within (set 1).toNat 500 2000 else within (set 1).toNat 10 1500),
      (2, (m != 3 || use 4) && (m != 5 || use 7))]
  | 0x09 => [(4, decide ((set 3).toNat ≤ (set 4).toNat)), (6, pointOk 6),
      (7, if truth (set 5) then decide ((set 7).toNat < 192) else pointOk 7)]
  | 0x0E => [(10, pointOk 10), (11, pointOk 11), (12, optional 12), (13, optional 13)]
  | _ => []

/-- The first word of an instance record, counted from H0, that breaks a rule of this chapter; types 0x0C are judged by
the ranges of their own chapter, given as more. -/
def instFault (p : Option Package) (i : Nat) (more : Nat → (Nat → Word) → List (Nat × Bool)) (ws : List Word) :
    Option Nat :=
  let z := i / 32
  let type := inType ws
  if type = 0 then (if inQpol ws = 3 then some 0 else none)
  else
    let zw := zoneWords p z
    let head := decide (type ≤ 0x0E) && inQpol ws != 3 && (type != 0x0D || znKind zw == 2) &&
      (type != 0x0C || ((List.range 32).filter (fun s => inType (instWords p (32 * z + s)) == 0x0C)).length == 1)
    if ¬ head then some 0
    else
      (List.range 8).findSome? (fun g =>
        let set := inSet ws g
        let ranges := (settingRanges type (nominalHz zw)).map (fun r =>
          (r.1, decide (r.2.1 ≤ settingValue r.2.1 (set r.1)) && decide (settingValue r.2.1 (set r.1) ≤ r.2.2)))
        let rules := if type = 0x0C then more z set else groupRules p z type set
        let bad := (List.range 24).find? (fun w => (ranges ++ rules).any (fun c => c.1 == w && !c.2))
        bad.map (fun w => 1 + 24 * g + w))

end Sys2Proof.Machine
end

