-- ==== Sys2Proof/Machine/Ldf.lean ====
section
/-!
DEFINITION. Long-path line differential (07_line_differential.md): descriptors, coding, frames, delay measurement, modes,
alignment, the 0x0C element.
-/
namespace Sys2Proof.Machine

/-- Words L0 to L4, Q00 to Q02, Q10 to Q12 of descriptor d (R154). -/
def ldfReset : List Word :=
  [0x00200000#32, 0x00C80000#32, 0x07D00064#32, 0x00320014#32, 5#32, 0x180#32, 0#32, 0#32, 0x180#32, 0#32, 0#32]
def ldfWords (p : Option Package) (d : Nat) : List Word := recOr p secLdf d ldfReset
def ldEnabled (ws : List Word) : Bool := bit (wAt ws 0) 0
def ldZone (ws : List Word) : Nat := field (wAt ws 0) 15 8
def ldTerm (ws : List Word) : Nat := field (wAt ws 0) 17 16
def ldThree (ws : List Word) : Bool := bit (wAt ws 0) 18
def ldFpsCode (ws : List Word) : Nat := field (wAt ws 0) 20 19
def ldF (ws : List Word) : Nat := 2 ^ ldFpsCode ws
def ldBound (ws : List Word) : Nat := field (wAt ws 0) 22 21
def ldEchoMode (ws : List Word) : Bool := bit (wAt ws 0) 23
def ldComp (ws : List Word) : Bool := bit (wAt ws 0) 24
def ldLink (ws : List Word) : Nat := field (wAt ws 1) 15 0
def ldStepUs (ws : List Word) : Nat := field (wAt ws 1) 31 16
def ldHoldoffMs (ws : List Word) : Nat := field (wAt ws 2) 15 0
def ldAsymMax (ws : List Word) : Nat := field (wAt ws 2) 31 16
def ldAsymBase (ws : List Word) : Nat := field (wAt ws 3) 15 0
def ldLossMs (ws : List Word) : Nat := field (wAt ws 3) 31 16
def ldTolUs (ws : List Word) : Nat := field (wAt ws 4) 7 0
def ldPathWord (ws : List Word) (n i : Nat) : Word := wAt ws (5 + 3 * n + i)
def ldPort (ws : List Word) (n : Nat) : Nat := field (ldPathWord ws n 0) 4 0
def ldUse (ws : List Word) (n : Nat) : Bool := bit (ldPathWord ws n 0) 5
/-- PCP and the destination MAC of path n (R154). -/
def ldPcp (ws : List Word) (n : Nat) : Nat := field (ldPathWord ws n 0) 8 6
def ldMac (ws : List Word) (n : Nat) : Mac :=
  BitVec.ofNat 48 ((ldPathWord ws n 1).toNat * 65536 + field (ldPathWord ws n 2) 15 0)
def ldVlan (ws : List Word) (n : Nat) : Nat := field (ldPathWord ws n 0) 23 12

/-- Enabled descriptors. -/
def ldEntries (p : Option Package) : List (Nat × List Word) :=
  ((List.range 16).map (fun d => (d, ldfWords p d))).filter (fun e => ldEnabled e.2)

/-- Slot of the 0x0C instance of a zone. -/
def ldSlot (p : Option Package) (z : Nat) : Option Nat :=
  (List.range 32).find? (fun s => inType (instWords p (32 * z + s)) == 0x0C)

/-- Settings 1 to 8 of 0x0C: ranges, SLOPE2 not below SLOPE1, charging needs the voltages (R155, R174). -/
def lineRules (p : Option Package) (z : Nat) (set : Nat → Word) : List (Nat × Bool) :=
  let r (w lo hi : Nat) : Nat × Bool := (w, within (set w).toNat lo hi)
  let volts := znUse (zoneWords p z) 4 || (set 6 == 0 && set 7 == 0)
  [r 1 10 400, r 2 10 50, r 3 30 150, r 4 5 200, r 5 1 4, r 6 0 200000, r 7 0 200000, r 8 0 100,
    (3, decide ((set 2).toNat ≤ (set 3).toNat)), (6, volts)]

/-- A descriptor in use may stand beside the zone, the element and the other descriptors that R154 and R155 ask for. -/
def ldfPlaced (p : Option Package) (d : Nat) (ws : List Word) : Bool :=
  let z := ldZone ws
  let zw := zoneWords p z
  znKind zw == 1 && (ldSlot p z).isSome && (ldEntries p).all (fun e => e.1 == d || ldZone e.2 != z) &&
    (!ldComp ws || znUse zw 4)

/-- The first word of a descriptor outside R154 and R155: the ranges hold of every descriptor, the rules about other parts
of the package of one in use, LINK_ID 0 may stay in one that is not in use and VLAN_ID 0 in a path that is not used (log 39). -/
def ldfFault (p : Option Package) (d : Nat) (ws : List Word) : Option Nat :=
  let on := ldEnabled ws
  firstBad
    ([(0, decide (ldZone ws < 160) && ldFpsCode ws != 3 && ldBound ws != 3 && decide (ldTerm ws < (if ldThree ws then 3 else 2)) &&
        (!on || ldfPlaced p d ws)),
      (1, within (ldLink ws) (if on then 1 else 0) 65535 && within (ldStepUs ws) 20 5000),
      (2, within (ldHoldoffMs ws) 10 10000 && decide (ldAsymMax ws ≤ 10000)),
      (3, decide (ldAsymBase ws ≤ 1000) && within (ldLossMs ws) 10 1000), (4, within (ldTolUs ws) 1 100),
      (5, !on || ldUse ws 0)] ++
      [0, 1].map (fun n =>
        (5 + 3 * n, within (ldVlan ws n) (if ldUse ws n then 1 else 0) 4094 &&
          (!on || !ldUse ws n || portRole (portWords p (ldPort ws n)) == 1))))

def ldfOf (s : State) (d : Nat) : Ldf := FMap.get s.ldf Ldf.init d
def setLdf (d : Nat) (x : Ldf) (s : State) : State := { s with ldf := FMap.set s.ldf d x }
def termOf (x : Ldf) (r : Nat) : LdfTerm := FMap.get x.terms LdfTerm.init r
def setTerm (r : Nat) (t : LdfTerm) (x : Ldf) : Ldf := { x with terms := FMap.set x.terms r t }

/-- The remote terminals of a descriptor. -/
def remotes (ws : List Word) : List Nat := (List.range (if ldThree ws then 3 else 2)).filter (fun r => r != ldTerm ws)

/-- B of BOUND, and I_FS. -/
def ldBits (ws : List Word) : Nat := 14 + 2 * ldBound ws
def ldFullScale (s : State) (ws : List Word) : F32 := fullScale (zoneWords s.cfg.package (ldZone ws))
/-- s = 2b = 2·β·I_FS (R161): an exact scaling by a power of two. -/
def ldStep (s : State) (ws : List Word) : F32 := F32.div (ldFullScale s ws) (F32.ofInt (2 ^ (ldBits ws - 1) : Nat))

/-- The charging current of phase p at the zone frequency f (R160). -/
def chargingCurrent (f : F32) (set : Nat → Word) (q : Quants) (p : Nat) : Cplx :=
  let k := F32.mul (F32.mul twoPi f) (F32.ofRatio 1 1000000000)
  let vp := (q.at (4 + p)).1
  let v0 := q.v0.1
  let inner := Cplx.add (Cplx.scale (F32.ofInt ((set 6).toNat : Nat)) (Cplx.sub vp v0))
    (Cplx.scale (F32.ofInt ((set 7).toNat : Nat)) v0)
  Cplx.scale k (Cplx.timesJ inner)

/-- N of a component (R161): the integer nearest to x/s, exactly, halves away from zero, limited to B bits; and
whether it was limited. -/
def codeComponent (bits : Nat) (step x : F32) : Int × Bool :=
  let a := F32.toRatio x
  let b := F32.toRatio step
  let n := if b.1 ≤ 0 then 0 else roundHalfAway (a.1 * b.2) (a.2 * b.1.toNat)
  let c := clampInt n (-(2 ^ (bits - 1) : Int)) (2 ^ (bits - 1) - 1)
  (c, c != n)

/-- |I_ch| in steps of 2^−12 × I_FS, 0 to 254 (R159, R162): nearest step. -/
def codeCharging (fs x : F32) : Nat :=
  let a := F32.toRatio x
  let b := F32.toRatio fs
  if b.1 ≤ 0 then 0 else min 254 (roundHalfAway (a.1 * b.2 * 4096) (a.2 * b.1.toNat)).toNat

/-- A coded set: validity code, OVF, TEST, six N, three ICH. -/
structure CodedSet where
  validity : Nat
  ovf : Bool
  test : Bool
  ns : List Int
  ich : List Nat
  deriving DecidableEq, Repr

/-- The set of sheaf j that the sender forms (R160 to R162), from the zone's estimators as they stand in sheaf j, held or not
(log 97). -/
def ownSet (s : State) (ws : List Word) (j : Nat) : CodedSet :=
  let p := s.cfg.package
  let zn := ldZone ws
  let zw := zoneWords p zn
  let z := catchUp s zw (zoneOf s zn) j
  let q := quantsOf s zw z j (trackHz zw z)
  let fz := (frequencyStep s zw z j).fz
  let f := if fz = 0 then trackHz zw z else fz
  let set := inSet (instWords p (32 * zn + (ldSlot p zn).getD 0)) z.group
  let voltsOk := znUse zw 4 && !qIsInvalid q.v0.2
  let comp := ldComp ws && voltsOk
  let angle := F32.div (F32.mul (F32.mul twoPi (fNom zw)) (F32.ofInt ((j % 4800 : Nat) : Int))) (F32.ofInt 4800)
  let back : Cplx := ⟨cos32 angle, F32.neg (sin32 angle)⟩
  let ph := [0, 1, 2].map (fun p =>
    let x := (q.at p).1
    Cplx.mul (if comp then Cplx.sub x (chargingCurrent f set q p) else x) back)
  let codes := ph.flatMap (fun x =>
    [codeComponent (ldBits ws) (ldStep s ws) x.re, codeComponent (ldBits ws) (ldStep s ws) x.im])
  let quals := [0, 1, 2].map (fun p => (q.at p).2) ++ (if ldComp ws then [q.v0.2] else [])
  let w := worstOf quals
  ⟨w.toNat % 4, codes.any (fun c => c.2), w.getLsbD 11, codes.map (fun c => c.1),
    [0, 1, 2].map (fun p =>
      if voltsOk then codeCharging (ldFullScale s ws) (Cplx.abs (chargingCurrent f set q p)) else 0xFF)⟩

/-- The phasors that six N stand for (R162). -/
def decodePhasors (step : F32) (ns : List Int) : List Cplx :=
  [0, 1, 2].map (fun p =>
    ⟨F32.mul (F32.ofInt ((ns[2 * p]?).getD 0)) step, F32.mul (F32.ofInt ((ns[2 * p + 1]?).getD 0)) step⟩)

/-- Bits of a field, most significant first. -/
def bitsMsb (n v : Nat) : List Bool := (List.range n).map (fun i => v.testBit (n - 1 - i))
/-- Bits packed into octets, padded with zero bits. -/
def packBits : Nat → List Bool → List Nat
  | 0, _ => []
  | _ + 1, [] => []
  | fuel + 1, bs =>
    let t := bs.take 8
    let t := t ++ List.replicate (8 - t.length) false
    t.foldl (fun a b => 2 * a + (if b then 1 else 0)) 0 :: packBits fuel (bs.drop 8)

/-- One set as octets (R159): with six fields of the width given. -/
def setOctets (c : CodedSet) (width : Nat) (fields : List Int) : List Nat :=
  let qual := c.validity * 4 + (if c.ovf then 2 else 0) + (if c.test then 1 else 0)
  packBits 64 (bitsMsb 4 qual ++ fields.flatMap (fun n => bitsMsb width (twos width n)) ++
    c.ich.flatMap (bitsMsb 8))

/-- Big-endian octets of a number. -/
def octets (n v : Nat) : List Nat := (beBytes n v).map (fun b => b.toNat)

/-- A delta fits the signed width. -/
def fitsSigned (width : Nat) (x : Int) : Bool :=
  decide (-(2 ^ (width - 1) : Int) ≤ x) && decide (x ≤ 2 ^ (width - 1) - 1)

/-- A gathered set as a plain list, and back: validity, OVF, TEST, then N, then ICH. -/
def CodedSet.toInts (c : CodedSet) : List Int :=
  [(c.validity : Int), if c.ovf then 1 else 0, if c.test then 1 else 0] ++ c.ns ++ c.ich.map Int.ofNat
def CodedSet.ofInts (l : List Int) : CodedSet :=
  ⟨((l[0]?).getD 0).toNat, l[1]? == some 1, l[2]? == some 1, (l.drop 3).take 6, ((l.drop 9).take 3).map Int.toNat⟩

/-- Ingress stamp in ns of a frame whose first bit crossed port n's ball at t (R100, R167). -/
def ingressNs (s : State) (n : Nat) (t : Time) : Int := roundHalfAway (ingressUnits s n t) 65536

/-- Whether a terminal's mode is TIMED and so on as the word MODE (R176). -/
def LdfMode.code : LdfMode → Nat
  | .timed => 0
  | .echo => 1
  | .frozen => 2

/-- An echo block for remote terminal r (R158). -/
def echoBlock (t : LdfTerm) (r : Option Nat) (launchNs : Int) : List Nat :=
  match r, t.lastSeq with
  | some n, some q =>
    octets 1 n ++ octets 1 0 ++ octets 2 q ++ octets 4 (clampInt (launchNs - t.ingress) 0 4294967295).toNat ++
      octets 4 (match t.mode, t.delay with
        | .timed, some d => d
        | _, _ => 0xFFFFFFFF)
  | some n, none => octets 1 n ++ octets 3 0 ++ octets 4 0 ++ octets 4 0xFFFFFFFF
  | none, _ => octets 1 0xFF ++ octets 7 0 ++ octets 4 0xFFFFFFFF

/-- Builds and queues the frame of sheaves j to k on each used path (R156 to R161). -/
def ldfBuild (d : Nat) (ws : List Word) (k : Nat) (s : State) : State :=
  let x := ldfOf s d
  let f := ldF ws
  let j := k + 1 - f
  let seq := (j / f) % 65536
  let sets := (x.gather.reverse).map (fun g => CodedSet.ofInts g.2)
  let width := ldBits ws
  let prevs := x.sentN :: sets.map (fun c => c.ns)
  let deltas := (sets.zip prevs).map (fun p => (p.1.ns.zip p.2).map (fun q => q.1 - q.2))
  let scheduled := decide (seq % 64 = 0)
  let fits := ((if scheduled || x.forceKey then deltas.drop 1 else deltas)).all (fun l => l.all (fitsSigned (width - 2)))
  let key := scheduled || x.forceKey || x.sentN.isEmpty || !fits
  let body := ((sets.zip deltas).zipIdx).flatMap (fun p =>
    if key && p.2 == 0 then setOctets p.1.1 width p.1.1.ns else setOctets p.1.1 (width - 2) p.1.2)
  let tEnd := sheafEnd k
  let base := commitInstantOf s.glb.lpipe k + usSteps (20 + 12 * d)
  let rs := remotes ws
  let timed := rs.all (fun r => decide ((termOf x r).mode = .timed))
  let frame (path : Nat) : List Nat :=
    let launch := base + usSteps (6 * path)
    let ln := stepsNs launch
    let bad := (x.prevBad[path]?).getD false
    let flags := (if key then 128 else 0) + (if timed then 64 else 0) + (if timeValid s then 32 else 0) +
      (if bad then 16 else 0) + 4 * ldFpsCode ws + ldBound ws
    let echo (i : Nat) : List Nat := match rs[i]? with
      | some r => echoBlock (termOf x r) (some r) ln
      | none => echoBlock LdfTerm.init none ln
    [1, flags] ++ octets 2 (ldLink ws) ++ [(if ldThree ws then 4 else 0) + ldTerm ws, 0] ++ octets 2 seq ++
      octets 4 (j % 4294967296) ++ octets 4 (stepsNs (launch - tEnd)).toNat ++ echo 0 ++ echo 1 ++
      (if key then octets 4 (ldFullScale s ws).toNat else []) ++ body
  let paths := [0, 1].filter (ldUse ws)
  let s := paths.foldl (fun s n =>
    queueLaunch (ldPort ws n) (.ldf d n) (base + usSteps (6 * n)) ⟨ldMac ws n, 0, some (ldVlan ws n, ldPcp ws n), 0x88B5#16⟩
      (.ldf (frame n)) none s) s
  let x := ldfOf s d
  setLdf d
    { x with
      sentN := ((sets.getLast?).map (fun c => c.ns)).getD x.sentN
      forceKey := false
      prevBad := [false, false]
      gather := []
      launches := paths.map (fun (n : Nat) => (seq, n, base + usSteps (6 * n))) ++
        x.launches.filter (fun l => decide ((seq + 65536 - l.1) % 65536 < 512)) } s

/-- The set of sheaf k joins the own sets and the frame being gathered; a frame that ends in sheaf k is built (R156,
R160, R166). -/
def ldfBoundary (k : Nat) (s : State) : State :=
  (ldEntries s.cfg.package).foldl (fun s e =>
    let ws := e.2
    let c := ownSet s ws k
    let x := ldfOf s e.1
    let own : LdfDecoded := ⟨k, k, if c.ovf && c.validity == 0 then 3 else c.validity, c.test,
      decodePhasors (ldStep s ws) c.ns, c.ich⟩
    let fresh := k % ldF ws == 0
    let gather := if fresh then [(k, c.toInts)]
      else match x.gather with
        | (j, _) :: _ => if j + 1 = k then (k, c.toInts) :: x.gather else []
        | [] => []
    let s := setLdf e.1 { x with own := (own :: x.own).take 256, gather := gather } s
    if (k + 1) % ldF ws = 0 ∧ gather.length = ldF ws then ldfBuild e.1 ws k s else s) s

/-- The mean of accepted measurements in ns, 0 of none. -/
def meanNs (l : List Int) : Int := if l.isEmpty then 0 else roundHalfAway (l.foldl (· + ·) 0) l.length

/-- A measurement lies within the step threshold of the mean (R167): always where no mean exists. -/
def inBand (ws : List Word) (l : List Int) (m : Int) : Bool :=
  l.isEmpty || decide ((m - meanNs l).natAbs ≤ ldStepUs ws * 1000)

/-- Eight measurements agree within ECHO_STEP_US of one another (R170). -/
def settledEight (ws : List Word) (l : List Int) : Bool :=
  let t := l.take 8
  decide (8 ≤ l.length) && t.all (fun a => t.all (fun b => decide ((a - b).natAbs ≤ ldStepUs ws * 1000)))

/-- Event of an asymmetry step (R170, R171). -/
def asymStep (d r quantity : Nat) (old new : Int) (s : State) : State :=
  sticky 1 10 (tally 0x0601 [item d, item r, item quantity, item old, item new] s)

/-- A round trip in ECHO or ECHO_FROZEN (R170), and whether the mean accepts it. i: its instant. -/
def roundTrip (d r : Nat) (ws : List Word) (i : Time) (m : Int) (t : LdfTerm) (s : State) : Bool × LdfTerm × State :=
  let accept (t : LdfTerm) : LdfTerm :=
    let near := match t.backTo with
      | some b => decide ((meanNs ((m :: t.rtts).take 8) - b).natAbs ≤ 20000)
      | none => false
    let run := if near then t.backRun + 1 else 0
    let t := { t with rtts := (m :: t.rtts).take 8, backRun := run, postStep := (m :: t.postStep).take 8 }
    if 64 ≤ run then { t with raised := false, lapsed := false, backTo := none, backRun := 0 } else t
  if inBand ws t.rtts m then
    if t.suspects.isEmpty then (true, accept t, s)
    else
      (true, accept { t with suspects := [], suspectSince := if t.holdoff.isSome then t.suspectSince else none },
        count 171 1 s)
  else
    let sus := t.suspects ++ [m]
    let t := { t with suspects := sus, suspectSince := if t.suspects.isEmpty then some i else t.suspectSince }
    if sus.length < 3 then (false, t, s)
    else
      let old := meanNs t.rtts
      let s := asymStep d r 0 old (meanNs sus) s
      (false, { t with
          suspects := []
          rtts := []
          frozen := none
          lapsed := false
          raised := true
          backTo := some old
          backRun := 0
          postStep := sus.reverse
          holdoff := some (t.suspectSince.getD i + msSteps (ldHoldoffMs ws))
          mode := .echo }, s)

/-- A one-way delay in TIMED mode (R167, R171): quantity 1 d_in, 2 d_out, with the mean's values and those outside the
band. -/
def oneWay (d r quantity : Nat) (ws : List Word) (m : Int) (mean out : List Int) (s : State) :
    (List Int × List Int) × State :=
  if inBand ws mean m then (((m :: mean).take 8, []), s)
  else
    let o := m :: out
    if o.length < 3 then ((mean, o), s)
    else ((o, []), asymStep d r quantity (meanNs mean) (meanNs o) s)

/-- Θ of R169 in ns: L_r − (I − d_in); 0 in TIMED. -/
def thetaOf (t : LdfTerm) (lr i : Int) : Int :=
  match t.mode with
  | .timed => 0
  | .echo => lr - (i - roundHalfAway (meanNs t.rtts) 2)
  | .frozen =>
    let a := match t.frozen with
      | some p => p.1
      | none => 0
    lr - (i - roundHalfAway (meanNs t.rtts + a) 2)

/-- Θ anew from the most recent accepted measurement (R169). -/
def renewTheta (t : LdfTerm) : LdfTerm :=
  match t.measAt with
  | some (lr, i) => { t with theta := thetaOf t lr i }
  | none => { t with theta := 0 }

/-- What a terminal's measurements have formed so far. -/
def measOf (t : LdfTerm) : LdfMeas :=
  ⟨t.mode, t.rtts, t.dIns, t.dOuts, t.theta, t.measAt, t.frozen, t.lapsed, t.raised, t.backTo, t.refill, t.backRun,
    t.suspects, t.suspectSince, t.holdoff, t.postStep, t.outIn, t.outOut⟩

/-- The last measurement is taken back (R167): its frame's launch proved to have slipped, and what stood before it stands
again. A mode, and a freeze with it, that another cause has changed since stays. -/
def takeBack (t : LdfTerm) : LdfTerm :=
  match t.undo with
  | none => { t with measSeq := none }
  | some (m, left) =>
    let t := { t with
      rtts := m.rtts, dIns := m.dIns, dOuts := m.dOuts, theta := m.theta, measAt := m.measAt, refill := m.refill
      suspects := m.suspects, suspectSince := m.suspectSince, holdoff := m.holdoff, postStep := m.postStep
      outIn := m.outIn, outOut := m.outOut, measSeq := none, undo := none }
    renewTheta (if t.mode = left then
      { t with
        mode := m.mode, frozen := m.frozen, lapsed := m.lapsed, raised := m.raised, backTo := m.backTo, backRun := m.backRun }
      else t)

/-- The round trip of a frame, where it echoes a launch of the path that is still held (R167). i: its ingress stamp. -/
def roundTripOf (d path : Nat) (ws : List Word) (i : Int) (msg : LdfMsg) (s : State) : Option Int :=
  (msg.echoes.find? (fun e => e.remTerm == ldTerm ws)).bind (fun e =>
    ((ldfOf s d).launches.find? (fun l => l.1 == e.echoSeq && l.2.1 == path)).map (fun l =>
      (i - stepsNs l.2.2) - e.holdNs))

/-- The measurements of a frame in TIMED (R167, R171): d_in of every frame, d_out where the sender tells it, the round trip
where the echoed launch is held. -/
def measureTimed (d : Nat) (ws : List Word) (msg : LdfMsg) (dIn : Int) (rtt : Option Int) (at' : Int × Int) (t : LdfTerm)
    (s : State) : LdfTerm × State :=
  let r := msg.term
  let t := match rtt with
    | some m =>
      if inBand ws t.rtts m then { t with rtts := (m :: t.rtts).take 8, measAt := some at' } else t
    | none => t
  let (a, s) := oneWay d r 1 ws dIn t.dIns t.outIn s
  let t := { t with dIns := a.1, outIn := a.2, theta := 0 }
  match (msg.echoes.find? (fun e => e.remTerm == ldTerm ws)).map (fun e => e.delayNs) with
  | none => (t, s)
  | some 0xFFFFFFFF => (t, s)
  | some n =>
    let (b, s) := oneWay d r 2 ws (n : Int) t.dOuts t.outOut s
    ({ t with dOuts := b.1, outOut := b.2 }, s)

/-- The measurement of a frame in ECHO and ECHO_FROZEN (R167, R169, R170, R172). -/
def measureEcho (d : Nat) (ws : List Word) (msg : LdfMsg) (tArr : Time) (m : Int) (at' : Int × Int) (t : LdfTerm)
    (s : State) : LdfTerm × State :=
  let (accepted, t, s) := roundTrip d msg.term ws tArr m t s
  let t := if accepted then renewTheta { t with measAt := some at' } else t
  let t := if t.refill && decide (8 ≤ t.rtts.length) then { t with refill := false } else t
  match t.frozen, t.mode with
  | some f, .frozen =>
    if t.lapsed = false ∧ 20000 < (meanNs t.rtts - f.2).natAbs ∧ t.suspects.isEmpty then
      ({ t with lapsed := true, raised := true, backTo := some f.2, backRun := 0 },
        tally 0x0603 [item d, item msg.term, item (meanNs t.rtts), item f.2] s)
    else (t, s)
  | _, _ => (t, s)

/-- The measurements a frame yields (R167, R170, R171): none of one with PREV_BAD, which takes those of the frame before it
back. path: the path it came in on. -/
def measure (d : Nat) (ws : List Word) (path : Nat) (f : Frame) (msg : LdfMsg) (lastSheaf : Nat) (t : LdfTerm) (s : State) :
    LdfTerm × State :=
  let i := ingressNs s f.port f.tSfd
  let lr := stepsNs (sheafEnd lastSheaf) + msg.txOfsNs
  if msg.prevBad then
    let t := { t with delay := none }
    (if t.measSeq = some ((msg.frameSeq + 65535) % 65536) then takeBack t else t, s)
  else
    let rtt := roundTripOf d path ws i msg s
    let before := measOf t
    let t := { t with measSeq := some msg.frameSeq }
    let r := match t.mode, rtt with
      | .timed, _ =>
        let t := { t with delay := some (clampInt (i - lr) 0 4294967294).toNat }
        measureTimed d ws msg (i - lr) rtt (lr, i) t s
      | _, none => ({ t with delay := none }, s)
      | _, some m => measureEcho d ws msg f.tArr m (lr, i) { t with delay := none } s
    ({ r.1 with undo := some (before, r.1.mode) }, r.2)

/-- The 64-bit sheaf with given low bits nearest to a reference (R164). -/
def nearSheaf (low ref : Nat) : Nat :=
  let b : Int := 4294967296
  let x : Int := (low : Int) + roundHalfAway ((ref : Int) - (low : Int)) 4294967296 * b
  (if x < 0 then x + b else x).toNat

/-- The N of a received set (R161): whole in the first set of a key frame, a delta otherwise. -/
def decodeN (first : Bool) (prev comps : List Int) : List Int :=
  if first then comps else (comps.zipIdx).map (fun p => (prev[p.2]?).getD 0 + p.1)

/-- Maps a decoded set onto the local grid (R169): the local sheaf and the phasors referred to it. -/
def mapSet (s : State) (ws : List Word) (t : LdfTerm) (kr : Nat) (ns : List Int) (v : Nat) (test : Bool)
    (ich : List Nat) : Option LdfDecoded :=
  let zw := zoneWords s.cfg.package (ldZone ws)
  let z := zoneOf s (ldZone ws)
  let th := if t.mode = .timed then 0 else t.theta
  let j := roundHalfAway ((kr : Int) * 1000000000 - 4800 * th) 1000000000
  if j < 0 then none
  else
    let fz := if z.fz = 0 then fNom zw else z.fz
    let thS := F32.ofRatio th 1000000000
    let delta := F32.ofRatio (((kr : Int) - j) * 1000000000 - 4800 * th) 4800000000000
    let phi := F32.sub (F32.mul (F32.mul twoPi (fNom zw)) thS)
      (F32.mul (F32.mul twoPi (F32.sub fz (fNom zw))) delta)
    let rot : Cplx := ⟨cos32 phi, sin32 phi⟩
    some ⟨kr, j.toNat, v, test, (decodePhasors (ldStep s ws) ns).map (fun x => Cplx.mul x rot), ich⟩

/-- Puts the sets of an accepted, decodable frame in place (R161, R166, R169): a set older than 255 sheaves is late. -/
def decodeSets (ws : List Word) (key : Bool) (j : Nat) (sets : List LdfSet) (t : LdfTerm) (s : State) :
    LdfTerm × State :=
  (sets.zipIdx).foldl (fun (acc : LdfTerm × State) p =>
    let (t, s) := acc
    let ns := decodeN (key && p.2 == 0) t.prevN p.1.comps
    let t := { t with prevN := ns, lastSheaf := j + p.2 }
    let v : Nat := if p.1.ovf = true ∧ p.1.validity = 0#2 then 3 else BitVec.toNat p.1.validity
    match mapSet s ws t (j + p.2) ns v p.1.test p.1.charging with
    | none => (t, count 170 1 s)
    | some x =>
      if x.mapped + 255 < s.glb.cur then (t, count 170 1 s)
      else ({ t with sets := (x :: t.sets.filter (fun y => y.mapped != x.mapped)).take 256 }, s)) (t, s)

/-- The path of a descriptor a frame came in on: port and VLAN of a used path (R164). -/
def ldfPath (p : Option Package) (ws : List Word) (f : Frame) : Option Nat :=
  [0, 1].find? (fun n => ldUse ws n && ldPort ws n == f.port && ldVlan ws n == f.vlan &&
    portRole (portWords p f.port) == 1)

/-- Octets of a set whose components have so many bits (R159). -/
def setSize (width : Nat) : Nat := ceilDiv (28 + 6 * width) 8
/-- Octets of a frame from destination address to FCS (R163). -/
def ldfLength (ws : List Word) (key : Bool) : Nat :=
  let delta := setSize (ldBits ws - 2)
  if key then 66 + setSize (ldBits ws) + (ldF ws - 1) * delta else 62 + ldF ws * delta

/-- Checks of R164 on a frame that matches a path. -/
def ldfAccepts (s : State) (ws : List Word) (x : Ldf) (f : Frame) (m : LdfMsg) : Bool :=
  m.ver == 1 && m.linkId == ldLink ws && m.three == ldThree ws && m.fps == ldFpsCode ws && m.bound == ldBound ws &&
    m.term != ldTerm ws && (remotes ws).contains m.term && f.len == ldfLength ws m.key && m.sets.length == ldF ws &&
    (!m.key || m.ifs == ldFullScale s ws) &&
    (match (termOf x m.term).lastSeq with
      | some q => decide (0 < seqDiff m.frameSeq q)
      | none => true)

/-- An accepted frame of terminal r (R164 to R168, R177). -/
def ldfAccepted (d path : Nat) (ws : List Word) (f : Frame) (m : LdfMsg) (s : State) : State :=
  let r := m.term
  let x := ldfOf s d
  let t := termOf x r
  let j := nearSheaf m.sheafLow (if t.mode = .timed then sheafOf f.tArr else t.lastSheaf)
  let j := if t.lastSeq.isNone then nearSheaf m.sheafLow (sheafOf f.tArr) else j
  let follows := match t.lastDecoded with
    | some q => (q + 1) % 65536 == m.frameSeq
    | none => false
  let lost := match t.lastSeq with
    | some q => (seqDiff m.frameSeq q - 1).toNat
    | none => 0
  let s := if lost = 0 then s else count 169 lost s
  let t := { t with
    lastSeq := some m.frameSeq
    lastIn := some f.tArr
    ingress := ingressNs s f.port f.tSfd
    timeValid := m.timeValid
    validRun := if m.timeValid then min 64 (t.validRun + 1) else 0 }
  let (t, s) := measure d ws path f m (j + ldF ws - 1) t s
  let decodes := m.key || follows
  let (t, s) := if decodes then decodeSets ws m.key j m.sets { t with lastDecoded := some m.frameSeq } s else (t, s)
  let (t, s) := match t.lost, m.key with
    | some since, true =>
      ({ t with lost := none, refill := t.refill && t.mode != .timed }, tally 0x0604 [item d, item r, 1, item ((f.tArr - since) / 6400000)] s)
    | _, _ => (t, s)
  setLdf d (setTerm r t (ldfOf s d)) s

/-- A frame with EtherType 0x88B5 at a port (R164). -/
def ldfFrameIn (f : Frame) (s : State) : State :=
  match f.body, serve f.port (fun g => g == f) s with
  | .ldf m, some (_, s) =>
    let hits := (ldEntries s.cfg.package).filterMap (fun e =>
      if f.etherType = 0x88B5#16 then (ldfPath s.cfg.package e.2 f).map (fun n => (e.1, n, e.2)) else none)
    match hits.find? (fun h => ldfAccepts s h.2.2 (ldfOf s h.1) f m) with
    | some h => ldfAccepted h.1 h.2.1 h.2.2 f m s
    | none => count 168 1 s
  | _, _ => s

/-- The mode of a terminal as at a close deadline (R168, R172, R173). -/
def ldfModeStep (d r : Nat) (ws : List Word) (t : LdfTerm) (s : State) : LdfTerm × State :=
  let own := timeValid s
  match t.mode with
  | .timed =>
    if ldEchoMode ws then (renewTheta { t with mode := .echo }, s)
    else if own && t.timeValid then (t, s)
    else
      let a := meanNs t.dIns - meanNs t.dOuts
      let rtt := meanNs t.rtts
      (renewTheta { t with mode := .frozen, frozen := some (a, rtt), lapsed := false },
        sticky 1 12 (tally 0x0602 [item d, item r, item a, item rtt] s))
  | _ =>
    if !ldEchoMode ws && own && decide (64 ≤ t.validRun) then
      ({ t with
          mode := .timed, frozen := none, lapsed := false, raised := false, backTo := none, theta := 0
          suspects := [], suspectSince := none, holdoff := none, refill := false }, s)
    else (t, s)

/-- Twice ε in µs of a terminal (R168, R172). -/
def epsTwice (ws : List Word) (t : LdfTerm) : Nat :=
  match t.mode with
  | .timed => 2 * ldTolUs ws
  | .echo => 2 * ldTolUs ws + (if t.raised then ldAsymMax ws else ldAsymBase ws)
  | .frozen => 2 * ldTolUs ws + (if t.raised || t.lapsed then ldAsymMax ws else 20)

/-- A terminal blocks the instance: suspect, hold-off, loss, refill (R170, R177). -/
def termBlocks (t : LdfTerm) : Bool :=
  !t.suspects.isEmpty || t.holdoff.isSome || t.lost.isSome || t.refill

/-- At the close deadline: modes, the aligned sheaf, blocking (R166, R168, R170). -/
def ldfDeadline (s : State) : State :=
  (ldEntries s.cfg.package).foldl (fun s e =>
    let ws := e.2
    let (x, s) := (remotes ws).foldl (fun (acc : Ldf × State) r =>
      let (t, s) := ldfModeStep e.1 r ws (termOf acc.1 r) acc.2
      (setTerm r t acc.1, s)) (ldfOf s e.1, s)
    let have' (j : Nat) : Bool := (remotes ws).all (fun r => (termOf x r).sets.any (fun y => y.mapped == j))
    let best := x.own.foldl (fun (b : Option Nat) o =>
      if have' o.sheaf && (match b with
        | some n => decide (n < o.sheaf)
        | none => true) then some o.sheaf else b) none
    let newer := match best, x.aligned with
      | some a, some b => decide (b < a)
      | some _, none => true
      | none, _ => false
    let x := if newer then { x with aligned := best, stalled := 0 } else { x with stalled := x.stalled + 1 }
    let x := { x with
      blocked := decide (8 ≤ x.stalled) || (remotes ws).any (fun r => termBlocks (termOf x r)) }
    setLdf e.1 x s) s

/-- No frame accepted from a terminal for LOSS_MS (R177): one that was never heard counts from the descriptor's start. -/
def ldfLoss (d r : Nat) (t : Time) (s : State) : State :=
  let s := advance t s
  let ws := ldfWords s.cfg.package d
  let x := ldfOf s d
  let m := termOf x r
  match m.lost with
  | none =>
    if ldEnabled ws ∧ (remotes ws).contains r = true ∧ msSteps (ldLossMs ws) ≤ t - m.lastIn.getD x.since then
      sticky 1 11 (tally 0x0604 [item d, item r, 0, 0]
        (setLdf d { setTerm r
          { m with lost := some t, rtts := [], dIns := [], dOuts := [], lastDecoded := none, refill := true } x with
            blocked := true } s))
    else s
  | some _ => s

/-- Hold-off ends where its time has passed and 8 post-step measurements agree (R170). -/
def ldfHoldoffOver (d : Nat) (t : Time) (s : State) : State :=
  let s := advance t s
  let ws := ldfWords s.cfg.package d
  let x := (remotes ws).foldl (fun x r =>
    let m := termOf x r
    match m.holdoff with
    | some u => if u ≤ t ∧ settledEight ws m.postStep = true then
        setTerm r { m with holdoff := none, suspectSince := none, postStep := [] } x else x
    | none => x) (ldfOf s d)
  setLdf d { x with blocked := decide (8 ≤ x.stalled) || (remotes ws).any (fun r => termBlocks (termOf x r)) } s

/-- 8 sheaves without a new aligned sheaf (R166). -/
def ldfAlignOut (d : Nat) (s : State) : State :=
  let x := ldfOf s d
  if ldEnabled (ldfWords s.cfg.package d) ∧ 8 ≤ x.stalled then setLdf d { x with blocked := true } s else s

/-- The descriptor of a zone's 0x0C instance. -/
def ldOfZone (p : Option Package) (z : Nat) : Option (Nat × List Word) :=
  (ldEntries p).find? (fun e => ldZone e.2 == z)

/-- The sets of the aligned sheaf: own first, then each remote terminal's (R166). -/
def alignedSets (x : Ldf) (ws : List Word) : List LdfDecoded :=
  match x.aligned with
  | none => []
  | some a =>
    (x.own.find? (fun o => o.sheaf == a)).toList ++
      (remotes ws).filterMap (fun r => (termOf x r).sets.find? (fun y => y.mapped == a))

/-- A descriptor's state as the lanes evaluate it: that of the close deadline, whatever frames come in while they work
(R3, R166, R168). -/
def closedLdf (s : State) (d : Nat) : Ldf := FMap.get s.lanes.ldf Ldf.init d

/-- Worst quality of the local and remote sets (R175). -/
def lineQuality (c : Ctx) : Half :=
  match ldOfZone c.s.cfg.package c.zn with
  | none => qInvalid
  | some e =>
    let sets := alignedSets (closedLdf c.s e.1) e.2
    if sets.isEmpty then qInvalid
    else worstOf (sets.map (fun x => BitVec.ofNat 16 x.validity ||| (if x.test then qTestBit else 0)))

/-- I_thr of R175 for one phase. -/
def lineThreshold (c : Ctx) (ws : List Word) (set : Nat → Word) (sets : List LdfDecoded) (eps2 : Nat) (ires : F32)
    (ph : Nat) : F32 :=
  let inom := znINom c.ws
  let s1 := F32.ofRatio ((set 2).toNat : Nat) 100
  let s2 := F32.ofRatio ((set 3).toNat : Nat) 100
  let ibp := stepsOf (set 4).toNat 10 inom
  let t := F32.max (stepsOf (set 1).toNat 100 inom) (F32.max (F32.mul s1 ires)
    (F32.add (F32.mul s1 ibp) (F32.mul s2 (F32.sub ires ibp))))
  let fz := if c.z.fz = 0 then fNom c.ws else c.z.fz
  let eps := F32.ofRatio (eps2 : Nat) 2000000
  let align := F32.mul (sin32 (F32.mul (F32.mul pi32 fz) eps)) ires
  let b := F32.div (ldStep c.s ws) (F32.ofInt 2)
  let coding := F32.mul (F32.mul (F32.ofInt (sets.length : Nat)) sqrtTwo) b
  let margin := if ldComp ws then F32.ofRatio ((set 8).toNat : Nat) 100 else F32.one
  let unit := F32.div (ldFullScale c.s ws) (F32.ofInt 4096)
  let charge := sum32 (sets.map (fun x =>
    let n := (x.charging[ph]?).getD 0
    if n = 0xFF then F32.mul (F32.ofInt 254) unit else F32.mul margin (F32.mul (F32.ofInt (n : Nat)) unit)))
  F32.add (F32.add (F32.add t align) coding) charge

/-- 0x0C line differential (R166, R174 to R176): with MODE 0 it waits for the boundary after the first lock (R110). -/
def lineDifferential (c : Ctx) (set : Nat → Word) (blocked : Bool) (i : Inst) : Verdict :=
  match ldOfZone c.s.cfg.package c.zn with
  | none => ⟨{ i with confirm := [], pu := [] }, plain [false, false, false, false, false, true, false], [0, 0, 0]⟩
  | some e =>
    let ws := e.2
    let x := closedLdf c.s e.1
    let sets := alignedSets x ws
    let terms := (remotes ws).map (termOf x)
    let unarmed := !ldEchoMode ws && !timeArmed c.s
    let stop := blocked || x.blocked || unarmed
    let ok := terms.all (fun t => t.lost.isNone && t.lastDecoded.isSome && t.lastDecoded == t.lastSeq)
    let mode := terms.foldl (fun a t => max a t.mode.code) 0
    let eps2 := terms.foldl (fun a t => max a (epsTwice ws t)) 0
    let words (val : F32) : List Word := [BitVec.ofNat 32 mode, F32.ofRatio (eps2 : Nat) 2, val]
    let own (b : Bool) : Bool × Option Half := (b, some 0)
    if stop then
      ⟨{ i with confirm := [0, 0, 0], pu := [], op := false },
        [(false, some qInvalid), (false, some qInvalid), (false, some qInvalid), (false, some qInvalid),
          (false, some qInvalid), own true, own ok], words ((i.words[2]?.map (fun p => p.value)).getD 0)⟩
    else if x.stalled ≠ 0 ∨ sets.isEmpty then
      -- no new aligned sheaf: outputs and confirmation counts hold
      ⟨i, (List.range 5).map (fun o =>
        let p := (i.bools[o]?).getD Point.invalid
        (truth p.value, some p.q)) ++ [own false, own ok],
        words ((i.words[2]?.map (fun p => p.value)).getD 0)⟩
    else
      let res := [0, 1, 2].map (fun ph =>
        let l := sets.map (fun y => (y.phasors[ph]?).getD Cplx.zero)
        let ires := sum32 (l.map Cplx.abs)
        (Cplx.abs (sumPhasors l), lineThreshold c ws set sets eps2 ires ph))
      let pu := (res.zipIdx).map (fun p =>
        if F32.le p.1.2 p.1.1 then true else if F32.lt p.1.1 (dropout95 p.1.2) then false else (i.pu[p.2]?).getD false)
      let confirm := (pu.zipIdx).map (fun p => if p.1 then (i.confirm[p.2]?).getD 0 + 1 else 0)
      let op := confirm.map (fun n => decide ((set 5).toNat ≤ n) && decide (n ≠ 0))
      ⟨{ i with confirm := confirm, pu := pu, op := op.any id },
        plain (pu.any id :: op.any id :: op) ++ [own false, own ok], words (F32.maxOf (res.map (fun p => p.1)))⟩

end Sys2Proof.Machine
end

