-- ==== Sys2Proof/Machine/Evaluate.lean ====
section
/-!
DEFINITION. The evaluation of one instance and of one zone in a sheaf (R23, R116, R122, R125, R141), and the events of
element timers.
-/
namespace Sys2Proof.Machine

/-- Numbers of boolean and word outputs of a type (R125, R176). -/
def outputCounts (type : Nat) : Nat × Nat :=
  match type with
  | 0x01 | 0x05 | 0x06 | 0x0D => (5, 1)
  | 0x02 | 0x03 | 0x07 | 0x08 | 0x0A | 0x0B => (2, 1)
  | 0x04 => (8, 0)
  | 0x09 => (3, 0)
  | 0x0C => (7, 3)
  | 0x0E => (4, 1)
  | _ => (0, 0)

/-- An instance with every output false or 0 at one quality. -/
def quietOutputs (type : Nat) (q : Half) (i : Inst) : Inst :=
  { i with
    bools := List.replicate (outputCounts type).1 ⟨0, q⟩
    words := List.replicate (outputCounts type).2 ⟨0, q⟩ }

/-- The reset state of an instance that starts (R116, R125): θ at THETA_START; auto-reclose keeps the state its start
gave it. -/
def startInst (type : Nat) (set : Nat → Word) (old : Inst) : Inst :=
  let i := { Inst.init with reclose := old.reclose, ticks := if type = 0x0E then old.ticks else 0 }
  if type = 0x0A then { i with thetaSum := Fix.ofRatio ((set 7).toNat, 100) } else i

/-- Whether QPOL blocks at a worst input quality (R141); auto-reclose is never blocked. -/
def qpolBlocks (type qpol : Nat) (q : Half) : Bool :=
  type != 0x0E && (match qpol with
    | 0 => qRank q == 2
    | 1 => decide (1 ≤ qRank q)
    | _ => false)

/-- The step of an instance's type. -/
def typeStep (c : Ctx) (type : Nat) (dirs : FMap Inst) (set : Nat → Word) (blocked : Bool) (i : Inst) : Verdict :=
  let p := c.s.cfg.package
  let char := (set 2).toNat
  match type with
  | 0x01 => phaseOvercurrent c dirs set (charRate p char) (charTr p char) blocked i
  | 0x02 => singleOvercurrent c 2 dirs set (charRate p char) (charTr p char) blocked i
  | 0x03 => singleOvercurrent c 3 dirs set (charRate p char) (charTr p char) blocked i
  | 0x04 => directional c set blocked i
  | 0x05 => voltageElement c true set blocked i
  | 0x06 => voltageElement c false set blocked i
  | 0x07 => frequencyElement c set blocked i
  | 0x08 => rocofElement c set blocked i
  | 0x09 => breakerFailure c set blocked i
  | 0x0A => thermalElement c set blocked i
  | 0x0B => brokenConductor c set blocked i
  | 0x0C => lineDifferential c set blocked i
  | 0x0D => busbarDifferential c set blocked i
  | 0x0E => autoReclose c set i
  | _ => ⟨i, [], []⟩

/-- The verdict's outputs with their qualities (R141). -/
def withOutputs (type : Nat) (blocked : Bool) (q : Half) (v : Verdict) : Inst :=
  let all : Half := if blocked then qInvalid ||| (q &&& qTestBit) else q
  { v.inst with
    bools := v.bools.map (fun b =>
      ⟨boolWord b.1, if blocked && type != 0x0C then all else b.2.getD all⟩)
    words := v.words.map (fun w => ⟨w, all⟩) }

/-- The worst quality of the inputs of any type. -/
def instQuality (c : Ctx) (type : Nat) (set : Nat → Word) : Half :=
  if type = 0x0C then lineQuality c else inputQuality c type set

/-- One instance in a sheaf (R116, R122, R141). -/
def evalInst (c : Ctx) (slot : Nat) (dirs : FMap Inst) : Inst :=
  let iw := instWords c.s.cfg.package (32 * c.zn + slot)
  let type := inType iw
  let old := instOf c.s (32 * c.zn + slot)
  let set := inSet iw c.z.group
  if type = 0 then Inst.init
  else if inEn iw c.z.group = false then quietOutputs type 0 { Inst.init with reclose := .disabled }
  else
    let full := windowsFull c type set
    if old.frozen && !full then old
    else
      let start := if old.wasOn then old else startInst type set old
      if !old.wasOn && !full then quietOutputs type qInvalid { start with wasOn := false }
      else
        let q := instQuality c type set
        let blocked := qpolBlocks type (inQpol iw) q
        let v := typeStep c type dirs set blocked start
        { withOutputs type blocked q v with
          wasOn := true, frozen := false, blocked := if blocked then q.toNat % 4 else 0 }

/-- The context of a zone in sheaf k: f_z of this sheaf, f_t of the last (R117, R118). -/
def zoneCtx (s : State) (z k : Nat) : Ctx :=
  let ws := zoneWords s.cfg.package z
  let old := catchUp s ws (zoneOf s z) k
  ⟨s, z, ws, { estimate s ws old k with ft := old.ft }, k, quantsOf s ws old k (trackHz ws old)⟩

/-- Bit map of the quantities bound whose phasor has a rank. -/
def rankMap (ws : List Word) (q : Quants) (rank : Nat) : Nat :=
  ((List.range 8).filter (fun n => znUse ws n && qRank (q.at n).2 == rank)).foldl (fun a n => a + 2 ^ n) 0

/-- A zone's figures for its ZST record (R331). -/
def zoneFigures (c : Ctx) (ft : F32) : Zone :=
  { c.z with
    ft := ft
    qInv := rankMap c.ws c.q 2
    qQst := rankMap c.ws c.q 1
    iMax := F32.maxOf ([0, 1, 2].map (fun n => Cplx.abs (c.q.at n).1))
    v1Mag := if znUse c.ws 4 then Cplx.abs c.q.v1.1 else 0
    i2Mag := Cplx.abs c.q.i2.1
    i0Mag := Cplx.abs (triple c.q.i0).1 }

/-- The results of zone z for sheaf k (R23): direction elements first, then every other instance, from the state as
committed in sheaf k − 1. -/
def evalZone (s : State) (z k : Nat) : ZoneResult :=
  let c := zoneCtx s z k
  let ft := (estimate s c.ws (catchUp s c.ws (zoneOf s z) k) k).ft
  let types := (List.range 32).map (fun n => (n, inType (instWords s.cfg.package (32 * z + n))))
  let used := types.filter (fun t => t.2 != 0)
  let dirs : FMap Inst := (used.filter (fun t => t.2 == 0x04)).map (fun t => (t.1, evalInst c t.1 []))
  let insts : FMap Inst := used.map (fun t =>
    (32 * z + t.1, match FMap.get? dirs t.1 with
      | some d => d
      | none => evalInst c t.1 dirs))
  ⟨zoneFigures c ft, insts⟩

/-- An instance of the sheaf in the pipeline: its pending result, or the committed state where none is pending. -/
def liveInst (s : State) (i : Nat) : Inst :=
  match FMap.get? s.results (i / 32) with
  | some r => FMap.get r.insts (instOf s i) i
  | none => instOf s i

/-- Writes an instance where liveInst reads it. -/
def setLiveInst (i : Nat) (x : Inst) (s : State) : State :=
  match FMap.get? s.results (i / 32) with
  | some r => { s with results := FMap.set s.results (i / 32) { r with insts := FMap.set r.insts i x } }
  | none => { s with insts := FMap.set s.insts i x }

/-- Settings of an instance in the group in force, and its type. -/
def liveSettings (s : State) (zone slot : Nat) : Nat × (Nat → Word) :=
  let iw := instWords s.cfg.package (32 * zone + slot)
  (inType iw, inSet iw (zoneOf s zone).group)

/-- The delay setting of a type's definite timer in ms, where it has one (R126, R128 to R136). -/
def delayOf (type : Nat) (set : Nat → Word) : Option Nat :=
  match type with
  | 0x01 | 0x02 | 0x03 => if (set 2).toNat = 0 then some (set 4).toNat else none
  | 0x05 | 0x06 | 0x07 | 0x08 | 0x0B => some (set 4).toNat
  | _ => none

/-- The boolean output o of an instance becomes true at its present quality. -/
def assertOutput (o : Nat) (i : Inst) : Inst := { i with bools := modAt (fun p => { p with value := 1 }) o i.bools }

/-- A definite-time count that has reached its delay operates its element (R126); breaker failure operates RETRIP at T1
and BACKTRIP at T2 (R134). -/
def definiteOperate (zone slot : Nat) (s : State) : State :=
  let n := 32 * zone + slot
  let i := liveInst s n
  let (type, set) := liveSettings s zone slot
  if type = 0x09 then
    let i1 := if i.initiated && decide (sheavesOfMs (set 3).toNat + 1 ≤ i.c) then assertOutput 1 i else i
    let i2 := if i.initiated && decide (sheavesOfMs (set 4).toNat + 1 ≤ i.c2) then assertOutput 2 i1 else i1
    setLiveInst n i2 s
  else
    match delayOf type set with
    | none => s
    | some d =>
      if i.wasOn && i.r == 0 && decide (sheavesOfMs d + 1 ≤ i.c) then
        setLiveInst n { assertOutput 1 i with op := true } s
      else s

/-- A reset count beyond the reset delay clears the timer count, or the accumulator of a definite reset (R126, R151). -/
def resetExpiry (zone slot : Nat) (s : State) : State :=
  let n := 32 * zone + slot
  let i := liveInst s n
  let (type, set) := liveSettings s zone slot
  let nrst := if 1 ≤ type ∧ type ≤ 3 ∧ set 6 ≠ 0 then sheavesOfMs (set 7).toNat else 0
  if nrst < i.r then
    let curve := decide (1 ≤ type) && decide (type ≤ 3) && set 2 != 0
    if curve then (if set 6 = 1 then setLiveInst n { i with s := 0, comp := 0 } s else s)
    else setLiveInst n { i with c := 0 } s
  else s

/-- An accumulator at 1.0 operates a picked-up instance once MIN_TIME has passed (R147). -/
def inverseOperate (zone slot : Nat) (s : State) : State :=
  let n := 32 * zone + slot
  let i := liveInst s n
  let (type, set) := liveSettings s zone slot
  if 1 ≤ type ∧ type ≤ 3 ∧ set 2 ≠ 0 ∧ F32.eq i.s F32.one = true ∧ sheavesOfMs (set 5).toNat + 1 ≤ i.run then
    setLiveInst n { assertOutput 1 i with op := true } s
  else s

/-- An expired time of an auto-reclose instance takes its row of R140; a row of the state whose point condition
holds goes before it. -/
def recloseTimer (zone slot : Nat) (s : State) : State :=
  let n := 32 * zone + slot
  let i := liveInst s n
  let (type, set) := liveSettings s zone slot
  if type ≠ 0x0E then s
  else
    let c : Ctx := ⟨s, zone, [], zoneOf s zone, s.glb.cur, ⟨[], (Cplx.zero, 0), (Cplx.zero, 0), (Cplx.zero, 0),
      (Cplx.zero, 0), (Cplx.zero, 0), (Cplx.zero, 0)⟩⟩
    let x := recloseInputs c set i
    let ahead := x.block || (match i.reclose with
      | .waitOpen => !x.closed
      | .closing => x.closed
      | .reclaim => x.rise
      | _ => false)
    let j := if ahead then i else recloseExpiry set x i
    let bs := recloseBools j.reclose
    setLiveInst n
      { j with
        bools := (j.bools.zipIdx).map (fun p => { p.1 with value := boolWord ((bs[p.2]?).getD false) })
        words := j.words.map (fun p => { p with value := BitVec.ofNat 32 j.shots }) } s

/-- DEFINITE_TIME_OPERATE. -/
def execDefiniteTimeOperate (zone slot : Nat) (s : State) : Host.Outcome State Fault Refusal :=
  .next (definiteOperate zone slot s)

/-- RESET_DELAY_EXPIRY. -/
def execResetDelayExpiry (zone slot : Nat) (s : State) : Host.Outcome State Fault Refusal :=
  .next (resetExpiry zone slot s)

/-- INVERSE_TIME_OPERATE. -/
def execInverseTimeOperate (zone slot : Nat) (s : State) : Host.Outcome State Fault Refusal :=
  .next (inverseOperate zone slot s)

/-- AUTO_RECLOSE_TIMER_EXPIRY. -/
def execAutoRecloseTimerExpiry (zone slot : Nat) (s : State) : Host.Outcome State Fault Refusal :=
  .next (recloseTimer zone slot s)

end Sys2Proof.Machine
end

