-- ==== Sys2Proof/Machine/Logic.lean ====
section
/-!
DEFINITION. The cyclic logic program (08_logic_program.md): quality of computed points, the operations, one cycle, logic
starts, parameters, forces, retained points.
-/
namespace Sys2Proof.Machine

/-- Detail bits [9:2], and test, substituted, operatorBlocked (R187). -/
def detailBits : Half := 0x03FC
def carryBits : Half := 0x1C00

/-- OR of a list of qualities. -/
def orAll (qs : List Half) : Half := qs.foldl (fun a b => a ||| b) 0

/-- The last row of R187: worst validity, its details, the carried bits of all. -/
def worstQuality (qs : List Half) : Half :=
  let r := qs.foldl (fun a q => max a (qRank q)) 0
  rankCode r ||| (orAll (qs.filter (fun q => qRank q == r)) &&& detailBits) ||| (orAll qs &&& carryBits)

/-- AND and OR of boolean operands (R187): deciding is the value that settles the result. -/
def decideQuality (deciding : Bool) (args : List Point) : Half :=
  let d := args.filter (fun p => truth p.value == deciding && qIsGood p.q)
  if d.isEmpty then worstQuality (args.map (fun p => p.q)) else orAll (d.map (fun p => p.q)) &&& carryBits

/-- Argument i of an operation. -/
def argAt (args : List Point) (i : Nat) : Point := (args[i]?).getD Point.invalid

/-- A word operation's result (R181): value, and the detail that makes it invalid. -/
def arith (f : Word → Word → Word) (g : F32 → F32 → F32) (t : NumType) (a b : Word) : Word × Half :=
  match t with
  | .real =>
    let v := g a b
    (v, if F32.notFinite v then qOverflow else 0)
  | _ => (f a b, 0)

/-- Integer division (R181): by zero gives 0, invalid with failure. -/
def divide (t : NumType) (a b : Word) : Word × Half :=
  match t with
  | .real =>
    let v := F32.div a b
    (v, if F32.notFinite v then qOverflow else 0)
  | .dint => if b = 0 then (0, qFailure) else (BitVec.sdiv a b, 0)
  | .udint => if b = 0 then (0, qFailure) else (a / b, 0)

/-- Comparisons of R193's types. -/
def lessThan (t : NumType) (a b : Word) : Bool :=
  match t with
  | .real => F32.lt a b
  | .dint => BitVec.slt a b
  | .udint => BitVec.ult a b
def equalTo (t : NumType) (a b : Word) : Bool :=
  match t with
  | .real => F32.eq a b
  | _ => a == b

/-- Preset of t ms in cycles: ceil(24 × t / (5 × P)) (R183). -/
def presetCycles (ms period : Nat) : Nat := ceilDiv (24 * ms) (5 * period)

/-- A timer or edge detector in one cycle (R183). Log 27. -/
def timerCycle (op : LogicOp) (period : Nat) (x : Bool) (t : LTimer) : LTimer :=
  match op with
  | .ton _ ms =>
    let c := if x then (if t.prev then t.count + 1 else 0) else 0
    ⟨c, x, x, x && decide (presetCycles ms period ≤ c)⟩
  | .tof _ ms =>
    let c := if x then 0 else if t.prev then 0 else t.count + 1
    let run := x || (t.active && decide (c < presetCycles ms period))
    ⟨c, x, run, run⟩
  | .tp _ ms =>
    let start := x && !t.prev && !t.active
    let c := if start then 0 else t.count + 1
    let run := (start || t.active) && decide (c < presetCycles ms period)
    ⟨c, x, run, run⟩
  | .rising _ => ⟨0, x, false, x && !t.prev⟩
  | .falling _ => ⟨0, x, false, !x && t.prev⟩
  | _ => t

/-- The timer instance an operation uses. -/
def timerOf : LogicOp → Option Nat
  | .ton t _ | .tof t _ | .tp t _ | .rising t | .falling t => some t
  | _ => none

/-- The result of an operation that keeps no state (R181, R187). word: the destination is a word point. -/
def pureOp (op : LogicOp) (word : Bool) (args : List Point) : Point :=
  let a := argAt args 0
  let b := argAt args 1
  let all := worstQuality (args.map (fun p => p.q))
  let withDetail (r : Word × Half) : Point :=
    if r.2 = 0 then ⟨r.1, all⟩ else ⟨r.1, ((all ||| r.2) &&& 0xFFFC#16) ||| qInvalid⟩
  let fold (f : Word → Word → Word) : Word := (args.drop 1).foldl (fun v p => f v p.value) a.value
  match op with
  | .move => ⟨a.value, all⟩
  | .not => ⟨if word then ~~~a.value else boolWord (!truth a.value), all⟩
  | .and => if word then ⟨fold (fun x y => x &&& y), all⟩
    else ⟨boolWord (args.all (fun p => truth p.value)), decideQuality false args⟩
  | .or => if word then ⟨fold (fun x y => x ||| y), all⟩
    else ⟨boolWord (args.any (fun p => truth p.value)), decideQuality true args⟩
  | .xor => ⟨if word then fold (fun x y => x ^^^ y) else fold (fun x y => x ^^^ y) &&& 1, all⟩
  | .sel =>
    let x := if truth a.value then argAt args 2 else b
    ⟨x.value, worstQuality [a.q, x.q]⟩
  | .mux =>
    let n := a.value.toNat + 1
    if n < args.length then
      let x := argAt args n
      ⟨x.value, worstQuality [a.q, x.q]⟩
    else ⟨Config.openMux (args.map (fun p => p.value)), all⟩
  | .qValid => ⟨boolWord (qRank a.q != 2), 0⟩
  | .qGood => ⟨boolWord (qIsGood a.q), 0⟩
  | .qTest => ⟨boolWord (a.q.getLsbD 11), 0⟩
  | .substQ =>
    if qIsInvalid a.q then ⟨b.value, qQuestionable ||| qSubstituted ||| (all &&& carryBits)⟩ else ⟨a.value, all⟩
  | .add t => withDetail (arith (fun x y => x + y) F32.add t a.value b.value)
  | .sub t => withDetail (arith (fun x y => x - y) F32.sub t a.value b.value)
  | .mul t => withDetail (arith (fun x y => x * y) F32.mul t a.value b.value)
  | .div t => withDetail (divide t a.value b.value)
  | .less t => ⟨boolWord (lessThan t a.value b.value), all⟩
  | .equal t => ⟨boolWord (equalTo t a.value b.value), all⟩
  | _ => ⟨0, all⟩

/-- The working image of a cycle: program-written booleans, words, timers, and the timers that have advanced. -/
structure Work where
  bools : FMap Point
  words : FMap Point
  timers : FMap LTimer
  advanced : List Nat
  deriving DecidableEq, Repr

/-- Points of the latched image: engine status and declared inputs (R179). -/
def isStatus (p : PRef) : Bool := if p.word then decide (p.idx < 256) else within p.idx 192 255
/-- Points of the sheaf image: element outputs and binary inputs (R179). -/
def isSheafPoint (p : PRef) : Bool :=
  if p.word then within p.idx 256 20735 else decide (p.idx < 192) || within p.idx 256 41215

/-- A declared input as the program reads it under QPOL_IN (R203). -/
def substituteInput (d : InputDesc) (p : Point) : Point :=
  let pol := field d.i0 19 18
  let r := qRank p.q
  if (pol = 1 ∧ r = 2) ∨ (pol = 2 ∧ 1 ≤ r) then
    ⟨if bit d.i0 17 then d.subst else d.subst &&& 1, qQuestionable ||| qSubstituted ||| (p.q &&& qOldData)⟩
  else p

/-- What a cycle reads at a point (R179, R180, R196). -/
def cycleRead (s : State) (w : Work) (p : PRef) : Point :=
  match FMap.get? s.logic.latForces (forceKey p) with
  | some v => ⟨v, qSubstituted⟩
  | none =>
    match inputDesc s p with
    | some d => substituteInput d (FMap.get (if p.word then s.logic.latWords else s.logic.latBools) Point.invalid p.idx)
    | none =>
      if isStatus p then FMap.get (if p.word then s.logic.latWords else s.logic.latBools) Point.invalid p.idx
      else if isSheafPoint p then
        FMap.get (if p.word then s.logic.sheafWords else s.logic.sheafBools) Point.invalid p.idx
      else FMap.get (if p.word then w.words else w.bools) Point.invalid p.idx

/-- The value of an operand. -/
def operandValue (s : State) (w : Work) : Operand → Point
  | .point p => cycleRead s w p
  | .const v => ⟨v, 0⟩
  | .param i => ⟨FMap.get s.logic.latParams 0 i, 0⟩

/-- A write of the program (R180): discarded on a forced point (R196). -/
def cycleWrite (s : State) (p : PRef) (x : Point) (w : Work) : Work :=
  if (FMap.get? s.logic.latForces (forceKey p)).isSome then w
  else if p.word then { w with words := FMap.set w.words p.idx x }
  else { w with bools := FMap.set w.bools p.idx { x with value := x.value &&& 1 } }

/-- One evaluation step; a timer or edge detector advances at the first of its steps in the cycle (R183). -/
def evalStep (s : State) (op : LogicOp) (args : List Operand) (dst : PRef) (w : Work) : Work :=
  let vals := args.map (operandValue s w)
  match timerOf op with
  | none => cycleWrite s dst (pureOp op dst.word vals) w
  | some t =>
    let old := FMap.get w.timers LTimer.init t
    let x := if w.advanced.contains t then old else timerCycle op (periodOf s) (truth (argAt vals 0).value) old
    cycleWrite s dst ⟨boolWord x.q, worstQuality (vals.map (fun p => p.q))⟩
      { w with timers := FMap.set w.timers t x, advanced := t :: w.advanced }

/-- The step list in program order; n steps still to be passed over (R192: branches go forward only). -/
def runSteps (s : State) : List LogicStep → Nat → Work → Work
  | [], _, w => w
  | _ :: rest, n + 1, w => runSteps s rest n w
  | .eval op args dst :: rest, 0, w => runSteps s rest 0 (evalStep s op args dst w)
  | .skipUnless cond n :: rest, 0, w =>
    runSteps s rest (if truth (operandValue s w cond).value then 0 else n) w
  | .skip n :: rest, 0, w => runSteps s rest n w

/-- A timer or edge detector whose steps were all passed over advances too (R183), with the input it saw last (log 27). -/
def passedOver (s : State) (steps : List LogicStep) (w : Work) : Work :=
  steps.foldl (fun w st =>
    match st with
    | .eval op _ _ =>
      match timerOf op with
      | some t =>
        if w.advanced.contains t then w
        else
          let old := FMap.get w.timers LTimer.init t
          { w with timers := FMap.set w.timers t (timerCycle op (periodOf s) old.prev old), advanced := t :: w.advanced }
      | none => w
    | _ => w) w

/-- The forced values that the cycle commits in the points that the program writes or retains (R180, R196). -/
def commitForces (s : State) (w : Work) : Work :=
  s.logic.latForces.foldl (fun w f =>
    let p : PRef := if 131072 ≤ f.1 then ⟨true, f.1 - 131072⟩ else ⟨false, f.1⟩
    let x : Point := ⟨f.2, qSubstituted⟩
    if isWritten s p = false then w
    else if p.word then { w with words := FMap.set w.words p.idx x }
    else { w with bools := FMap.set w.bools p.idx x }) w

/-- Reads of the program in force that an image part must hold. -/
def programReads (s : State) (part : PRef → Bool) : List PRef :=
  match s.logic.program with
  | some l => (l.program.steps.flatMap stepReads).filter part
  | none => []

/-- Captures points of the committed image into a table. -/
def capture (s : State) (word : Bool) (ps : List PRef) : FMap Point :=
  (ps.filter (fun p => p.word == word)).foldl (fun m p => FMap.set m p.idx (imagePoint s p)) []

/-- Latches the image at a cycle's start boundary (R179): declared inputs, status points, parameters, forces. -/
def latchCycle (first : Nat) (s : State) : State :=
  let s := { s with logic := { s.logic with cycle := some first } }
  let part (p : PRef) : Bool := isStatus p || (inputDesc s p).isSome
  let reads := programReads s part
  let raw (word : Bool) : FMap Point := (reads.filter (fun p => p.word == word)).foldl (fun m p =>
    let x := if (inputDesc s p).isSome then
        FMap.get (if word then s.logic.inWords else s.logic.inBools) ⟨0, qInvalid ||| qOldData⟩ p.idx
      else imagePoint s p
    FMap.set m p.idx x) []
  { s with logic := { s.logic with
    cycle := some first, latBools := raw false, latWords := raw true, latParams := s.logic.params
    latForces := s.logic.forces, imaged := false, sheafBools := [], sheafWords := [], missed := []
    holdCycle := false } }

/-- The sheaf image of a cycle: element outputs and binary inputs as evaluated for its first sheaf, taken from the state
into which that sheaf's results have been committed (R179). -/
def imageCycle (s : State) : State :=
  let reads := programReads s isSheafPoint
  { s with logic := { s.logic with
    imaged := true, sheafBools := capture s false reads, sheafWords := capture s true reads } }

/-- The retained points as committed (R200): key with the kind in bit 32, value, quality. -/
def retainedImage (s : State) : List (Nat × Word × Half) :=
  (retainedOf s).map (fun r =>
    let p := FMap.get (if r.point.word then s.logic.words else s.logic.bools) Point.invalid r.point.idx
    (r.key.toNat + (if r.point.word then 4294967296 else 0), p.value, p.q))

/-- Positions of the segments of the program in force (R284). -/
def segmentPositions (s : State) : List Nat :=
  match s.logic.program with
  | some l => (List.range (Config.segmentCount l.digest)).map (fun i => Config.segmentPosition l.digest i % 12)
  | none => []

/-- The cycle's work becomes the committed image at its end boundary (R180, R196, R200). -/
def publishCycle (s : State) : State :=
  match s.logic.program with
  | none => s
  | some l =>
    let w := runSteps s l.program.steps 0 ⟨s.logic.bools, s.logic.words, s.logic.timers, []⟩
    let w := commitForces s (passedOver s l.program.steps w)
    let s := { s with logic := { s.logic with
      bools := w.bools, words := w.words, timers := w.timers, shown := s.logic.latForces, overran := false } }
    let img := retainedImage s
    let changed := img.filter (fun x => !s.logic.retained.contains x)
    { s with
      logic := { s.logic with retained := img }
      store := { s.store with
        retainedPending := changed ++ s.store.retainedPending.filter (fun x => changed.all (fun y => y.1 != x.1)) } }

/-- A cycle's end boundary at sheaf k (R205, R206): publication, hold, or overrun. Answers whether two cycles in a row
overran. -/
def endCycle (k : Nat) (s : State) : Bool × State :=
  let count' (s : State) : State := { s with logic := { s.logic with
    cycle := none, first := false, cycles := s.logic.cycles + 1, holdCycle := false, missed := [] } }
  let s := { s with store := { s.store with pendingSheaf := k } }
  let pos := segmentPositions s
  let missing := s.logic.missed.filter (fun p => pos.contains p)
  if s.logic.holdCycle then (false, count' { s with logic := { s.logic with overran := false } })
  else
    match pos.filter (fun p => missing.contains p) with
    | [] => (false, count' (publishCycle s))
    | p :: _ =>
      let n := (pos.filter (fun q => missing.contains q)).length
      let twice := s.logic.overran
      let s := sticky 0 7 (count 154 1 (tally 0x0703 [item (s.logic.cycle.getD k), item p, item n] s))
      (twice, count' { s with logic := { s.logic with overran := true } })

/-- The initial image of program-written points (R201): initial values with validity invalid. -/
def initialPoints (s : State) (word : Bool) : FMap Point :=
  match s.logic.program with
  | none => []
  | some l => (l.program.inits.filter (fun x => x.1.word == word)).foldl (fun m x =>
      FMap.set m x.1.idx ⟨x.2, qInvalid⟩) []

/-- Puts retained points into an image from values by key (R200, R201); a point without a value takes its declared
initial value with validity good. -/
def putRetained (s : State) (word : Bool) (vals : List (Nat × Word × Half)) (m : FMap Point) : FMap Point :=
  ((retainedOf s).filter (fun r => r.point.word == word)).foldl (fun m r =>
    let key := r.key.toNat + (if word then 4294967296 else 0)
    let x : Point := match vals.find? (fun v => v.1 == key) with
      | some v => ⟨v.2.1, v.2.2⟩
      | none => ⟨r.init, 0⟩
    FMap.set m r.point.idx x) m

/-- INIT of every parameter (R195). -/
def initialParams (s : State) : FMap Word :=
  match s.logic.program with
  | none => []
  | some l => (l.program.params.zipIdx).foldl (fun m p => FMap.set m p.2 p.1.init) []

/-- Clears every force; one entry where at least one was active (R197). -/
def clearForces (cause : Nat) (s : State) : State :=
  let n := s.logic.forces.length
  let s := { s with logic := { s.logic with forces := [], shown := [] } }
  if n = 0 then s else tally 0x0702 [item n, item cause] s

/-- A logic start (R201): cause as in R346 0x0702; the retained values kept by key, none for a cold one; cold resets
the parameters too. -/
def logicStart (cause : Nat) (kept : List (Nat × Word × Half)) (cold : Bool) (s : State) : State :=
  let s := clearForces cause s
  { s with logic := { s.logic with
    bools := putRetained s false kept (initialPoints s false)
    words := putRetained s true kept (initialPoints s true)
    params := if cold then initialParams s else s.logic.params
    timers := [], cycle := none, imaged := false, first := true, cycles := 0, overran := false, missed := []
    holdCycle := false } }

/-- The timer instruction of timer t, where a step is one (R183). -/
def logicTimerStep (t : Nat) (st : LogicStep) : Option LogicOp :=
  match st with
  | .eval op _ _ => if timerOf op = some t then some op else none
  | _ => none

/-- A preset that has been reached acts on its timer's output (R183): the timer of the next cycle begins with it. The point
that shows it commits at that cycle's end boundary (R180). -/
def timerExpiry (t : Nat) (s : State) : State :=
  match s.logic.program with
  | none => s
  | some l =>
    let op := l.program.steps.findSome? (logicTimerStep t)
    let x := FMap.get s.logic.timers LTimer.init t
    let put' (q : Bool) : State :=
      { s with logic := { s.logic with timers := FMap.set s.logic.timers t { x with q := q } } }
    match op with
    | some (.ton _ ms) => if x.prev && decide (presetCycles ms (periodOf s) ≤ x.count) then put' true else s
    | some (.tof _ ms) =>
      if !x.prev && decide (presetCycles ms (periodOf s) ≤ x.count) && !x.active then put' false else s
    | some (.tp _ ms) => if decide (presetCycles ms (periodOf s) ≤ x.count) && !x.active then put' false else s
    | _ => s

/-- LOGIC_TIMER_EXPIRY. -/
def execLogicTimerExpiry (timer : Nat) (s : State) : Host.Outcome State Fault Refusal := .next (timerExpiry timer s)

end Sys2Proof.Machine
end

