-- ==== Sys2Proof/Machine/Flags.lean ====
section
/-!
DEFINITION. The status flags: the sticky trouble record at a boundary, its first-fault capture and interrupt (R281 to
R283, R319), W1C writes (R326, R378).
-/
namespace Sys2Proof.Machine

/-- a and not b, word by word. -/
def andNot (a b : List Word) : List Word := (a.zip b).map (fun p => p.1 &&& ~~~p.2)

/-- Word by word or. -/
def orWords (a b : List Word) : List Word := (a.zip b).map (fun p => p.1 ||| p.2)

/-- Every word is 0. -/
def allZero (a : List Word) : Bool := a.all (fun w => w == 0)

/-- The lowest register with a bit and its lowest bit (R283). -/
def firstBit (ws : List Word) : Option (Nat × Nat) :=
  (ws.zipIdx).findSome? (fun p => (bitsOf p.1).head?.map (fun b => (p.2, b)))

/-- The bits that read 0 at the last boundary and 1 at this one: a set wins over a clear of the same period (R281). -/
def stickyRising (x : Sticky) : List Word := orWords (andNot x.sets x.regs) ((x.sets.zip x.clears).map (fun p => p.1 &&& p.2))

/-- STK0 to STK3 after the boundary (R281). -/
def stickyNext (x : Sticky) : List Word := orWords (andNot x.regs x.clears) x.sets

/-- STK_FIRST as bits (R283). -/
def firstWord (p : Nat × Nat) : Word := BitVec.ofNat 32 (1 + 2 * p.1 + 8 * p.2)

/-- The first-fault capture at boundary C_k (R283). seen: the bits that become visible. Log 11. -/
def firstFault (k : Nat) (seen next : List Word) (x : Sticky) : Sticky :=
  let quiet := allZero (andNot x.regs x.early)
  let armed := x.armed || quiet
  let x := match armed, firstBit seen with
    | true, some p => { x with first := firstWord p, firstSheaf := k, armed := false }
    | _, _ => { x with armed := armed }
  if allZero next then { x with first := 0, firstSheaf := 0 } else x

/-- Vector 1 of a view where an enabled bit rises (R283, R319). -/
def stickyIrq (seen : List Word) (x : ViewState) : ViewState :=
  if (seen.zip x.stkIrqEn).any (fun p => (p.1 &&& p.2) != 0) then raiseIn 1 x else x

/-- The bits of STK3 that the backup latch holds: register bit and latch bit (R282, R378). -/
def latchBits : List (Nat × Nat) := [(9, 0), (10, 1), (13, 2)]

/-- A word with bit i cleared. -/
def clearBit (w : Word) (i : Nat) : Word := w &&& ~~~BitVec.ofNat 32 (2 ^ i)

/-- The latch bits whose STK3 bit goes to 0 at the boundary are cleared (R282). -/
def latchClear (clears next : List Word) (latch : Word) : Word :=
  latchBits.foldl (fun w p => if bit (regAt clears 3) p.1 && !bit (regAt next 3) p.1 then clearBit w p.2 else w) latch

/-- The sticky record at boundary C_k (R281, R283, R197). -/
def stickyCommit (k : Nat) (s : State) : State :=
  let x := s.stk
  let x := if s.logic.forces.isEmpty then x else { x with sets := modAt (fun w => setBit w 8) 0 x.sets }
  let rising := stickyRising x
  let next := stickyNext x
  let seen := orWords rising (andNot x.early rising)
  let x' := firstFault k seen next x
  let s := { s with
    stk := { x' with regs := next, sets := [0, 0, 0, 0], clears := [0, 0, 0, 0], early := [0, 0, 0, 0] }
    power := { s.power with latch := latchClear x.clears next s.power.latch }
    pf0 := stickyIrq seen s.pf0
    pf1 := stickyIrq seen s.pf1 }
  (seen.zipIdx).foldl (fun s p => if p.1 = 0 then s else tally 0x0001 [item p.2, p.1.zeroExtend 64] s) s

/-- A W1C write to STKn through PF0 (R281, R326); PF1 has no effect. It takes effect at the boundary that follows. -/
def stickyWrite (v : View) (n : Nat) (value : Word) (s : State) : State :=
  match v with
  | .pf1 => s
  | .pf0 =>
    if 4 ≤ n then s
    else
      let hit := value &&& regAt s.stk.regs n &&& ~~~regAt s.stk.clears n
      let s := { s with stk := { s.stk with clears := modAt (fun w => w ||| value) n s.stk.clears } }
      if hit = 0 then s else tally 0x0002 [item n, hit.zeroExtend 64] s

end Sys2Proof.Machine
end

