-- ==== Sys2Proof/Machine/Taint.lean ====
section
/-!
DEFINITION. The checks of a logic program image (R191, R192, R193, R203) and the trip-class graph (R188 to R190, R7,
R79).
-/
namespace Sys2Proof.Machine

/-- Header fields of R191. -/
def hFormat (p : Program) : Nat := field (wAt p.header 0) 15 8
def hSteps (p : Program) : Nat := (wAt p.header 1).toNat
def hRetain (p : Program) : Nat := field (wAt p.header 2) 13 0
def hParam (p : Program) : Nat := field (wAt p.header 3) 12 0
def hInput (p : Program) : Nat := field (wAt p.header 4) 14 0
def hTimer (p : Program) : Nat := field (wAt p.header 5) 14 0

/-- Point evaluations of a cycle with each branch at its longer side (R192): the count from each step on. -/
def worstCounts : List LogicStep → List Nat
  | [] => [0]
  | st :: rest =>
    let cs := worstCounts rest
    let at' (n : Nat) : Nat := (cs[n]?).getD 0
    let n := match st with
      | .eval _ _ _ => at' 0 + 1
      | .skipUnless _ k => max (at' 0) (at' k)
      | .skip k => at' k
    n :: cs

/-- Distinct timer and edge-detector instances of the step list (R192). -/
def timerInstances (p : Program) : List Nat :=
  (p.steps.filterMap (fun st => match st with
    | .eval op _ _ => timerOf op
    | _ => none)).eraseDups

/-- Points a program may write (R192). -/
def writable (p : Program) (r : PRef) : Bool :=
  (isGeneral r || (!r.word && within r.idx 41216 41407)) && !p.inputs.any (fun d => inputPoint d == r)

/-- The presets of a program's timers in cycles, none above 2^31 − 1 (R183). -/
def presetsOk (p : Program) : Bool :=
  p.steps.all (fun st =>
    let ms := match st with
      | .eval (.ton _ ms) _ _ => ms
      | .eval (.tof _ ms) _ _ => ms
      | .eval (.tp _ ms) _ _ => ms
      | _ => 0
    decide (presetCycles ms (programPeriod p) ≤ 2147483647))

/-- A program's header, descriptors and presets satisfy R183, R191 to R193 and R203. -/
def programOk (p : Program) : Bool :=
  hFormat p == 1 && within (hSteps p) 1 (131072 * programPeriod p) && decide (hRetain p ≤ 8192) &&
    decide (hParam p ≤ 4096) && decide (hInput p ≤ 16384) && decide (hTimer p ≤ 16384) &&
    hRetain p == p.retained.length && hParam p == p.params.length && hInput p == p.inputs.length &&
    hTimer p == (timerInstances p).length && decide (((worstCounts p.steps)[0]?).getD 0 ≤ hSteps p) &&
    (p.steps.flatMap stepWrites).all (writable p) && p.inputs.all (fun d => field d.i0 19 18 != 3 && isGeneral (inputPoint d)) &&
    p.retained.all (fun r => isGeneral r.point) &&
    (p.steps.flatMap (fun st => stepReads st ++ stepWrites st)).all (fun r => !isReserved r) && presetsOk p

/-- A node of the graph: a point by its force key. -/
def taintNode (p : PRef) : Nat := forceKey p

/-- The node of parameter i (R189), and of the timer or edge-detector instance t (R183), above every point's. -/
def paramNode (i : Nat) : Nat := 200000 + 2 * i
def timerNode (t : Nat) : Nat := 200001 + 2 * t

/-- The nodes of an instance's eight boolean and four word outputs (R185). -/
def outputNodes (i : Nat) : List Nat :=
  (List.range 8).map (fun n => 256 + 8 * i + n) ++ (List.range 4).map (fun n => 131072 + 256 + 4 * i + n)

/-- Nodes an operand list reads. -/
def operandNodes (ops : List Operand) : List Nat :=
  ops.filterMap (fun o => match o with
    | .point p => some (taintNode p)
    | .param i => some (paramNode i)
    | .const _ => none)

/-- Edges of the step list (R188): reads of a step, and of every branch that decides whether the step runs, feed what
it writes. They feed the timer instance that the step uses, and the instance feeds what each of its steps writes: two steps may
share it. open': branches still open, with the steps they govern. -/
def stepEdges : List (Nat × List Nat) → List LogicStep → List (Nat × Nat)
  | _, [] => []
  | open', st :: rest =>
    let live := open'.filter (fun b => b.1 != 0)
    let ctrl := live.flatMap (fun b => b.2)
    let next := live.map (fun b => (b.1 - 1, b.2))
    match st with
    | .eval op args d =>
      let ins := operandNodes args ++ ctrl
      ins.map (fun n => (n, taintNode d)) ++
        (timerOf op).toList.flatMap (fun t => (timerNode t, taintNode d) :: ins.map (fun n => (n, timerNode t))) ++
        stepEdges next rest
    | .skipUnless c n => stepEdges ((n, operandNodes [c] ++ ctrl) :: next) rest
    | .skip n => stepEdges ((n, ctrl) :: next) rest

/-- Points that the settings of an instance name in any group (R188). -/
def settingPoints (iw : List Word) : List Nat :=
  let type := inType iw
  let words := if type = 0x09 then [6, 7] else if type = 0x0E then [10, 11, 12, 13] else []
  (List.range 8).flatMap (fun g => words.filterMap (fun w =>
    let v := inSet iw g w
    if v = 0xFFFFFFFF#32 then none else some (taintNode ⟨false, v.toNat⟩)))

/-- Points of a zone's group source (R188). -/
def groupPoints (zw : List Word) : List Nat :=
  match znGroupSrc zw with
  | 1 => [znGroupPoint zw, znGroupPoint zw + 1, znGroupPoint zw + 2]
  | 2 => [taintNode ⟨true, znGroupPoint zw⟩]
  | _ => []

/-- Each of some points feeds every output of an instance. -/
def feedsAll (points : List Nat) (i : Nat) : List (Nat × Nat) :=
  points.flatMap (fun n => (outputNodes i).map (fun y => (n, y)))

/-- Edges of a package (R188): settings' points feed every output of their instance, the group source every element output of
its zone. -/
def packageEdges (p : Option Package) : List (Nat × Nat) :=
  (indicesOf p secInstance).flatMap (fun i => feedsAll (settingPoints (instWords p i)) i) ++
    (indicesOf p secZone).flatMap (fun z =>
      (List.range 32).flatMap (fun n => feedsAll (groupPoints (zoneWords p z)) (32 * z + n)))

/-- One round of the backward closure. -/
def taintRound (edges : List (Nat × Nat)) (t : List Nat) : List Nat :=
  edges.foldl (fun t e => if t.contains e.2 && !t.contains e.1 then e.1 :: t else t) t
def taintClosure (edges : List (Nat × Nat)) : Nat → List Nat → List Nat
  | 0, t => t
  | n + 1, t =>
    let u := taintRound edges t
    if u.length = t.length then t else taintClosure edges n u

/-- The trip-class nodes of a program under a package (R188). -/
def tripClass (p : Option Package) (q : Option Program) : List Nat :=
  let edges := (match q with
    | some x => stepEdges [] x.steps
    | none => []) ++ packageEdges p
  taintClosure edges (edges.length + 1) ((List.range 192).map (fun n => 41216 + n))

/-- Whether a point is trip-class under the package and program in force. -/
def isTripClass (s : State) (r : PRef) : Bool :=
  (tripClass s.cfg.package (s.logic.program.map (fun l => l.program))).contains (taintNode r)

/-- Forbidden sources (R189): status points, parameters, declared input points, forced points. -/
def forbiddenNode (q : Option Program) (forced : List Nat) (n : Nat) : Bool :=
  within n 192 255 || within n 131072 131327 || (decide (paramNode 0 ≤ n) && n % 2 == 0) || forced.contains n ||
    (match q with
      | some x => x.inputs.any (fun d => taintNode (inputPoint d) == n)
      | none => false)

/-- Every point a program references and every parameter it declares has the class that its image marks (R190). -/
def marksAgree (q : Program) (t : List Nat) : Bool :=
  let refs := (q.steps.flatMap (fun st => stepReads st ++ stepWrites st)) ++ q.inputs.map inputPoint ++
    q.retained.map (fun r => r.point)
  refs.all (fun r => match q.marks.find? (fun m => m.1 == r) with
    | some m => m.2 == t.contains (taintNode r)
    | none => false) &&
    q.paramMarks == (List.range q.params.length).map (fun i => t.contains (paramNode i))

/-- LOAD_PROGRAM's taint check with the package in force (R190). A new program starts without forces (R197). -/
def programTaintOk (p : Option Package) (q : Program) : Bool :=
  let t := tripClass p (some q)
  marksAgree q t && !t.any (forbiddenNode (some q) [])

/-- Staging's taint check of a package against the program it will run with and the points forced then (R79, R190): no trip-class
point has a forbidden source, no zone names one as GRP_POINT, and the program's classes stay those it was loaded with (DEDUCED
from "Classes are fixed for the life of a program", log 88). -/
def packageTaintOk (p : Package) (q : Option Program) (forced : List Nat) : Bool :=
  let t := tripClass (some p) q
  !t.any (forbiddenNode q forced) && q.all (fun x => marksAgree x t) &&
    (indicesOf (some p) secZone).all (fun z => !(groupPoints (zoneWords (some p) z)).any (forbiddenNode q forced)) &&
    (gsEntries (some p)).all (fun e => (List.range (gsNmem e.2)).all (fun i =>
      let m := gsMember e.2 i
      !memMapped m || !t.contains (taintNode (memPoint m))))

/-- Every mapped GOOSE member feeds a declared input point (R203); a trip-class point is the taint check's (R79). -/
def membersDeclared (p : Package) (q : Option Program) : Option (Nat × Nat) :=
  let t := tripClass (some p) q
  (gsEntries (some p)).findSome? (fun e =>
    ((List.range (gsNmem e.2)).find? (fun i =>
      let m := gsMember e.2 i
      memMapped m && !t.contains (taintNode (memPoint m)) && !(match q with
        | some x => x.inputs.any (fun d => inputPoint d == memPoint m)
        | none => false))).map (fun i => (e.1, 38 + i)))

end Sys2Proof.Machine
end

