-- ==== Sys2Proof/Machine/Publish.lean ====
section
/-!
DEFINITION. GOOSE: declared input points at a boundary, publication and retransmission (R77, R78, R80 to R82, R350).
-/
namespace Sys2Proof.Machine

/-- Words P0 to P6, R0 to R15, D0 to D15, K0 to K63 of publication n (R350). -/
def gpWords (p : Option Package) (n : Nat) : List Word :=
  recOr p secGoosePub n ([0x40000000#32, 0, 0, 0, 1, 0x03E80004#32, 0] ++ List.replicate 96 0#32)
def gpEnabled (ws : List Word) : Bool := bit (wAt ws 0) 0
def gpPort (ws : List Word) : Nat := field (wAt ws 0) 12 8
def gpVlan (ws : List Word) : Nat := field (wAt ws 0) 27 16
def gpPriority (ws : List Word) : Nat := field (wAt ws 0) 30 28
def gpMac (ws : List Word) : Mac := BitVec.ofNat 48 ((wAt ws 2).toNat * 65536 + field (wAt ws 3) 15 0)
def gpRef (ws : List Word) : List Byte := (wordBytes ((ws.drop 7).take 16)).take (field (wAt ws 6) 6 0)
def gpSet (ws : List Word) : List Byte := (wordBytes ((ws.drop 23).take 16)).take (field (wAt ws 6) 14 8)
def gpAppid (ws : List Word) : Nat := field (wAt ws 1) 15 0
def gpNmem (ws : List Word) : Nat := field (wAt ws 1) 22 16
def gpT1 (ws : List Word) : Nat := field (wAt ws 5) 6 0
def gpT0 (ws : List Word) : Nat := field (wAt ws 5) 31 16
def gpRefLen (ws : List Word) : Nat := field (wAt ws 6) 6 0
def gpSetLen (ws : List Word) : Nat := field (wAt ws 6) 14 8
def gpMember (ws : List Word) (i : Nat) : Word := wAt ws (39 + i)
def gpPoint (m : Word) : PRef := ⟨bit m 17, field m 16 0⟩

/-- Enabled publications. -/
def gpEntries (p : Option Package) : List (Nat × List Word) :=
  (indicesOf p secGoosePub).filterMap (fun i =>
    let ws := gpWords p i
    if gpEnabled ws then some (i, ws) else none)

/-- A published point: a program output point or an element output point (R350). -/
def publishable (r : PRef) : Bool :=
  isGeneral r || (!r.word && (within r.idx 256 41215 || within r.idx 41216 41407)) || (r.word && within r.idx 256 20735)

/-- The first word of a publication outside R350. -/
def gpFault (ws : List Word) : Option Nat :=
  let on := gpEnabled ws
  firstBad
    ([(0, decide (gpVlan ws ≤ 4094)), (1, decide (gpAppid ws ≤ 0x3FFF) && (!on || within (gpNmem ws) 1 64)),
      (5, within (gpT1 ws) 1 100 && within (gpT0 ws) 1000 60000),
      (6, octetsOk on (gpRefLen ws) && octetsOk on (gpSetLen ws))] ++
      (List.range (min (gpNmem ws) 64)).map (fun i =>
        let m := gpMember ws i
        let enc := field m 20 18
        (39 + i, publishable (gpPoint m) && (if bit m 17 then within enc 1 4 else enc == 0))))

/-- Sets the declared input points of one subscription at boundary instant t (R77, R78): a value is visible from 10 µs
after its frame's arrival. -/
def inputPoints (i : Nat) (ws : List Word) (t : Time) (s : State) : State :=
  let x := subOf s i
  match x.accepted with
  | none => s
  | some _ =>
    let vals := valuesAt x t
    (List.range (gsNmem ws)).foldl (fun s n =>
      let m := gsMember ws n
      if memMapped m then
        let v := (vals[n]?).getD (0, qInvalid ||| qOldData)
        let pt : Point := ⟨v.1, if (vals[n]?).isSome then agedQuality x v.2 t else v.2⟩
        let r := memPoint m
        if r.word then { s with logic := { s.logic with inWords := FMap.set s.logic.inWords r.idx pt } }
        else { s with logic := { s.logic with inBools := FMap.set s.logic.inBools r.idx ⟨pt.value &&& 1, pt.q⟩ } }
      else s) s

/-- Declared input points at the boundary of instant t. -/
def inputBoundary (t : Time) (s : State) : State :=
  (gsEntries s.cfg.package).foldl (fun s e => inputPoints e.1 e.2 t s) s

def pubOf (s : State) (n : Nat) : GoosePub := FMap.get s.ing.pubs GoosePub.init n
def setPub (n : Nat) (x : GoosePub) (s : State) : State := { s with ing := { s.ing with pubs := FMap.set s.ing.pubs n x } }

/-- A 32-bit number that wraps from its largest value to 1 (R81). -/
def nextNum (w : Word) : Word := if w = 0xFFFFFFFF#32 then 1 else w + 1

/-- The member values of a publication as committed (R80). -/
def pubValues (s : State) (ws : List Word) : List (Word × Half) :=
  (List.range (gpNmem ws)).map (fun i =>
    let p := imagePoint s (gpPoint (gpMember ws i))
    (p.value, p.q))

/-- The head of a publication's frames (R80, R350): tagged, with VLAN ID 0 where the entry has none; the spec prints no
EtherType of GOOSE (0x88B8 PRESUMED, log 94). -/
def gooseHead (ws : List Word) : EthHead := ⟨gpMac ws, 0, some (gpVlan ws, gpPriority ws), 0x88B8#16⟩

/-- The message of a publication (R80, R81, R350): each member's value as its ENC, with its quality behind it where WITH_Q;
ndsCom and the simulation bit false. -/
def gooseData (ws : List Word) (x : GoosePub) (tal : Nat) (vals : List (Word × Half)) : GooseMsg where
  gocbRef := gpRef ws
  datSet := gpSet ws
  confRev := wAt ws 4
  ndsCom := false
  simulation := false
  talMs := tal
  stNum := x.stNum
  sqNum := x.sqNum
  members := (vals.zipIdx).flatMap (fun v =>
    let k := gpMember ws v.2
    ⟨field k 20 18, v.1.1, 0⟩ :: (if bit k 21 then [⟨5, 0, v.1.2⟩] else []))

/-- The test bit of a frame (R80): a published point's quality carries it. -/
def gooseTest (vals : List (Word × Half)) : Bool := vals.any (fun v => v.2.getLsbD 11)

/-- Queues a publication's frame for an instant, its next one an interval later (R81). -/
def queueGoose (n : Nat) (ws : List Word) (t : Time) (interval : Nat) (vals : List (Word × Half)) (x : GoosePub)
    (s : State) : State :=
  let s := setPub n { x with interval := interval, last := some vals, next := some (t + msSteps interval) } s
  queueBoth s.cfg.package (gpPort ws) (.goose n) t (gooseHead ws) (gpAppid ws) (gooseTest vals)
    (gooseData ws x (2 * interval) vals) s

/-- Publication of the changes committed at C_k (R81). -/
def publishBoundary (k : Nat) (s : State) : State :=
  let t := commitInstantOf s.glb.lpipe k + usSteps 50
  (gpEntries s.cfg.package).foldl (fun s e =>
    let x := pubOf s e.1
    let vals := pubValues s e.2
    if x.last = some vals then s
    else queueGoose e.1 e.2 t (gpT1 e.2) vals { x with stNum := nextNum x.stNum, sqNum := 0 } s) s

/-- A retransmission is due (R81). -/
def retransmit (n : Nat) (s : State) : State :=
  let ws := gpWords s.cfg.package n
  let x := pubOf s n
  match x.next, x.last with
  | some t, some vals =>
    if ¬ gpEnabled ws then s
    else
      queueGoose n ws t (min (2 * x.interval) (gpT0 ws)) vals { x with sqNum := nextNum x.sqNum } (advance t s)
  | _, _ => s

/-- A takeover transmits every control block with stNum 97 above the copied one (R82). -/
def publishAll (k : Nat) (s : State) : State :=
  let t := commitInstantOf s.glb.lpipe k + usSteps 50
  (gpEntries s.cfg.package).foldl (fun s e =>
    let x := pubOf s e.1
    let raw := x.stNum.toNat + 97
    let st := if 4294967295 < raw then raw - 4294967295 else raw
    queueGoose e.1 e.2 t (gpT1 e.2) (pubValues s e.2) { x with stNum := BitVec.ofNat 32 st, sqNum := 0 } s) s

/-- GOOSE_FRAME. -/
def execGooseFrame (f : Frame) (s : State) : Host.Outcome State Fault Refusal := .next (gooseFrameIn f s)
/-- GOOSE_TAL_EXPIRY: the entry is reported once (R78); its points then show the degraded quality. -/
def execGooseTalExpiry (entry : Nat) (s : State) : Host.Outcome State Fault Refusal := .next (gooseStale entry s)
/-- GOOSE_RETRANSMIT. -/
def execGooseRetransmit (block : Nat) (s : State) : Host.Outcome State Fault Refusal := .next (retransmit block s)

end Sys2Proof.Machine
end

