-- ==== Sys2Proof/Machine/Trip.lean ====
section
/-!
DEFINITION. The trip path: Tenon, the backstop, the gate, trip wires, readback, binary inputs (09_trip_path.md).
-/
namespace Sys2Proof.Machine

/-- Trip wire word (R207). -/
def wireWord (p : Option Package) (n : Nat) : Word := wAt (recOr p secWire n [0]) 0
def wrEnabled (w : Word) : Bool := bit w 0
def wrZone (w : Word) : Nat := field w 15 8
def wrBackstop (w : Word) : Bool := bit w 16
def wrReadback (w : Word) : Bool := bit w 17

/-- Tenon words T0 to T3 (R210). -/
def tenonWords (p : Option Package) (z : Nat) : List Word :=
  recOr p secTenon z [6#32, 0x00140064#32, 0x03E80032#32, 0#32]
def tnEnabled (ws : List Word) : Bool := bit (wAt ws 0) 0
def tnN (ws : List Word) : Nat := field (wAt ws 0) 4 1
def tnInEn (ws : List Word) : Bool := bit (wAt ws 0) 5
def tnUvEn (ws : List Word) : Bool := bit (wAt ws 0) 6
def tnBsEn (ws : List Word) : Bool := bit (wAt ws 0) 7
def tnIPu (ws : List Word) : Nat := field (wAt ws 1) 15 0
def tnInPu (ws : List Word) : Nat := field (wAt ws 1) 31 16
def tnUvPu (ws : List Word) : Nat := field (wAt ws 2) 15 0
def tnBsPu (ws : List Word) : Nat := field (wAt ws 2) 31 16
def tnBsDelay (ws : List Word) : Nat := field (wAt ws 3) 15 0

/-- A slot that Tenon sees: local, or SV of one of the two preferred formats (R212). -/
def tenonVisible (p : Option Package) (k : Nat) : Bool :=
  match slotSource p k with
  | .localChannel => true
  | .sv _ ws _ => svNch ws == 8 && ((svRate ws == 0 && svAsduN ws == 1) || (svRate ws == 1 && svAsduN ws == 6))
  | _ => false

/-- A quantity is bound to a slot that Tenon sees. -/
def quantityVisible (p : Option Package) (zw : List Word) (q : Nat) : Bool := znUse zw q && tenonVisible p (znSlot zw q)

/-- The residual can be formed (R211): IN bound and visible, or the three phases visible and of one kind. -/
def residualFormable (p : Option Package) (zw : List Word) : Bool :=
  if znUse zw 3 then quantityVisible p zw 3
  else
    [0, 1, 2].all (quantityVisible p zw) &&
      ([0, 1, 2].all (fun q => decide (znSlot zw q < 64)) || [0, 1, 2].all (fun q => decide (64 ≤ znSlot zw q)))

/-- The bays of a busbar zone that Tenon uses, with their numbers. -/
def tenonBays (p : Option Package) (z : Nat) : List (Nat × List Word) :=
  ((List.range 24).map (fun n => (n, bayWords p z n))).filter (fun b =>
    bayUse b.2 && [0, 1, 2].all (fun ph => tenonVisible p (baySlot b.2 ph)))

/-- The first word of a Tenon descriptor outside R210. -/
def tenonFault (p : Option Package) (z : Nat) (ws : List Word) : Option Nat :=
  let zw := zoneWords p z
  let sees := if znKind zw = 2 then !(tenonBays p z).isEmpty else [0, 1, 2].any (quantityVisible p zw)
  firstBad
    [(0, within (tnN ws) 2 8 && (!tnEnabled ws || sees) && (!tnInEn ws || residualFormable p zw) &&
        (!tnUvEn ws || (znUse zw 4 && znUse zw 5 && znUse zw 6))),
      (1, within (tnIPu ws) 2 4000 && within (tnInPu ws) 2 2000),
      (2, within (tnUvPu ws) 5 90 && within (tnBsPu ws) 100 4000 && decide (tnIPu ws ≤ tnBsPu ws)),
      (3, decide (tnBsDelay ws ≤ 2000))]

/-- The first word of a wire at fault (R207). -/
def wireFault (p : Option Package) (ws : List Word) : Option Nat :=
  let w := wAt ws 0
  let z := wrZone w
  firstBad [(0, decide (z < 160) && (!wrEnabled w || (znEnabled (zoneWords p z) && tnEnabled (tenonWords p z))))]

/-- ceil and floor of √2 × a/b, and floor of √(2/3) × a/b. -/
def ceilRoot2 (a b : Nat) : Nat :=
  let n := ceilDiv (2 * a * a) (b * b)
  let r := isqrt n
  if r * r < n then r + 1 else r
def floorRoot23 (a b : Nat) : Nat := isqrt (2 * a * a / (3 * b * b))

/-- A positive binary32 as a fraction of natural numbers. -/
def ratioOf (x : F32) : Nat × Nat := ((F32.toRatio x).1.toNat, (F32.toRatio x).2)

/-- Peak threshold of a pickup of n hundredths of I_NOM on a local channel whose unit is scale amperes (R210): a raw LSB is
64 units. -/
def currentThreshold (inom scale : F32) (n : Nat) : Nat :=
  let i := ratioOf inom
  let s := ratioOf scale
  if s.1 = 0 then 0 else ceilRoot2 (n * i.1 * s.2) (100 * i.2 * s.1 * 64)

/-- Threshold of a current slot k whose unit is scale amperes: an SV channel counts 1 mA whatever the zone or bay holds
(R210). -/
def slotThreshold (inom scale : F32) (k n : Nat) : Nat :=
  if k < 64 then currentThreshold inom scale n else ceilRoot2 (n * (ratioOf inom).1 * 1000) (100 * (ratioOf inom).2)

/-- Threshold of quantity q of a zone. -/
def phaseThreshold (zw : List Word) (q n : Nat) : Nat := slotThreshold (znINom zw) (znIScale zw) (znSlot zw q) n

/-- Undervoltage threshold of quantity q (R210): hundredths of V_NOM/√3. -/
def uvThreshold (zw : List Word) (q n : Nat) : Nat :=
  let v := ratioOf (znVNom zw)
  if znSlot zw q < 64 then
    let s := ratioOf (znVScale zw)
    if s.1 = 0 then 0 else floorRoot23 (n * v.1 * s.2) (100 * v.2 * s.1 * 64)
  else floorRoot23 (n * v.1 * 100) (100 * v.2)

/-- What Tenon reads of a slot at m: none at an absent position, else the value where usable. -/
def tenonSample (s : State) (k m : Nat) : Option (Option Int) :=
  match rawAt s k m with
  | some x => some (if x.usable then some x.value else none)
  | none => if m % 3 ≠ 0 ∧ slotSlow s.cfg.package k = true then none else some none

/-- A run after sub-sample m (R211). -/
def nextRun (x : Option (Option Int)) (thr run : Nat) : Nat :=
  match x with
  | none => run
  | some none => 0
  | some (some v) => if thr ≤ v.natAbs then run + 1 else 0

/-- The residual sample of a zone at m (R211), with its threshold. -/
def residualSample (s : State) (zw : List Word) (m : Nat) : Option (Option Int) :=
  if znUse zw 3 then tenonSample s (znSlot zw 3) m
  else
    let part (q : Nat) : Option (Option Int) :=
      (tenonSample s (znSlot zw q) m).map (fun o => o.map (fun v => if znInvert zw q then -v else v))
    match part 0, part 1, part 2 with
    | some (some a), some (some b), some (some c) => some (some (a + b + c))
    | none, none, none => none
    | _, _, _ => some none

/-- The channels whose runs Tenon keeps: key of the run, sample, threshold, backstop threshold. -/
def tenonChannels (s : State) (z : Nat) (zw ws : List Word) (m : Nat) :
    List (Nat × Option (Option Int) × Nat × Nat) :=
  let p := s.cfg.package
  if znKind zw = 2 then
    (tenonBays p z).flatMap (fun b => [0, 1, 2].map (fun ph =>
      let k := baySlot b.2 ph
      let thr (n : Nat) : Nat := slotThreshold (znINom zw) (bayMatch b.2) k n
      (8 + 3 * b.1 + ph, tenonSample s k m, thr (tnIPu ws), thr (tnBsPu ws))))
  else
    ([0, 1, 2].filter (quantityVisible p zw)).map (fun q =>
      (q, tenonSample s (znSlot zw q) m, phaseThreshold zw q (tnIPu ws), phaseThreshold zw q (tnBsPu ws)))

/-- The undervoltage condition at m (R211). -/
def undervoltageAt (s : State) (zw ws : List Word) (m : Nat) : Bool :=
  let w := if zn60 zw then 240 else 288
  tnUvEn ws && ([4, 5, 6].filter (quantityVisible s.cfg.package zw)).any (fun q =>
    let k := znSlot zw q
    let xs := (List.range w).map (fun i => if i ≤ m then tenonSample s k (m - i) else some none)
    let thr := uvThreshold zw q (tnUvPu ws)
    xs.all (fun x => match x with
      | none => true
      | some none => false
      | some (some v) => decide (v.natAbs < thr)))

/-- The runs after one sub-sample: those of the channels that are seen, by key. -/
def advanceRuns (xs : List (Nat × Option (Option Int) × Nat)) (runs : FMap Nat) : FMap Nat :=
  xs.map (fun x => (x.1, nextRun x.2.1 x.2.2 (FMap.get runs 0 x.1)))

/-- One sub-sample of a zone's Tenon (R211, R214). -/
def tenonStep (s : State) (z : Nat) (t : TenonZone) (m : Nat) : TenonZone :=
  let p := s.cfg.package
  let zw := zoneWords p z
  let ws := tenonWords p z
  let ch := tenonChannels s z zw ws m
  let res : List (Nat × Option (Option Int) × Nat) :=
    if tnInEn ws then [(3, residualSample s zw m, phaseThreshold zw (if znUse zw 3 then 3 else 0) (tnInPu ws))] else []
  let cur := ch.filter (fun c => c.1 < 3) |>.map (fun c => (c.1, c.2.1, c.2.2.1))
  let bays := ch.filter (fun c => 3 < c.1) |>.map (fun c => (c.1, c.2.1, c.2.2.1))
  let runs := advanceRuns (cur ++ res ++ bays) t.runs
  let bs := advanceRuns (ch.map (fun c => (c.1, c.2.1, c.2.2.2))) t.bsRuns
  let hold := runs.any (fun r => decide (tnN ws ≤ r.2)) || undervoltageAt s zw ws m
  let bsNow := tnBsEn ws && bs.any (fun r => decide (tnN ws ≤ r.2))
  { t with
    runs := runs
    bsRuns := bs
    lastHold := if hold then some m else t.lastHold
    lastBs := if bsNow then some m else t.lastBs }

/-- A marker lies within the last n sub-samples up to m. -/
def within' (o : Option Nat) (n m : Nat) : Bool :=
  match o with
  | some x => decide (m < x + n)
  | none => false

/-- n_bs of R214. -/
def bsCount (ws : List Word) : Nat := sheavesOfMs (tnBsDelay ws)

def tenonOf (s : State) (z : Nat) : TenonZone := FMap.get s.tenon TenonZone.init z

/-- REL and BSOP of sheaf k for one zone (R211, R214). -/
def tenonZone (s : State) (k z : Nat) : TenonZone :=
  let p := s.cfg.package
  let zw := zoneWords p z
  let ws := tenonWords p z
  let t := (subs k).foldl (tenonStep s z) (tenonOf s z)
  let top := 3 * k + 2
  let present := tnBsEn ws && within' t.lastBs (if zn60 zw then 240 else 288) top
  let n := if present then t.bsSheaves + 1 else 0
  let last := if bsCount ws + 1 ≤ n then some k else t.lastBsop
  { t with
    rel := within' t.lastHold 2880 top
    bsSheaves := n
    lastBsop := last
    bsop := (match last with
      | some j => decide (k ≤ j + 960)
      | none => false) }

/-- Tenon evaluates zone z under a package: ENABLE and TN_EN. -/
def tenonOn (p : Option Package) (z : Nat) : Bool := znEnabled (zoneWords p z) && tnEnabled (tenonWords p z)

/-- Tenon evaluates every enabled zone with TN_EN after the close deadline of sheaf k (R211): its conditions and runs are
those of the sub-samples alone, so it goes on in CONFIG, where no gate follows it. A zone that a package takes away from Tenon
starts from zero when it returns (log 90). -/
def tenonEvaluate (k : Nat) (s : State) : State :=
  let s := { s with tenon := s.tenon.filter (fun p => tenonOn s.cfg.package p.1) }
  ((List.range 160).filter (tenonOn s.cfg.package)).foldl
    (fun s z => { s with tenon := FMap.set s.tenon z (tenonZone s k z) }) s

/-- The sheaf that Tenon evaluated last: the one in the pipeline once it is frozen. -/
def lastEvaluated (s : State) : Nat := if s.glb.frozen then s.glb.cur else s.glb.cur - 1

/-- 200 ms after the last holding condition the release ends (R211). -/
def sealInExpiry (z : Nat) (s : State) : State :=
  let t := tenonOf s z
  if within' t.lastHold 2880 (3 * lastEvaluated s + 2) then s
  else { s with tenon := FMap.set s.tenon z { t with rel := false } }

/-- BS_PRESENT has held for n_bs sheaves before and in this sheaf (R214). -/
def backstopExpiry (z : Nat) (s : State) : State :=
  let t := tenonOf s z
  let ws := tenonWords s.cfg.package z
  if tnBsEn ws ∧ bsCount ws + 1 ≤ t.bsSheaves then
    { s with tenon := FMap.set s.tenon z { t with bsop := true, lastBsop := some (lastEvaluated s) } }
  else s

def wireOf (s : State) (n : Nat) : Wire := FMap.get s.wires Wire.init n
def setWire (n : Nat) (x : Wire) (s : State) : State := { s with wires := FMap.set s.wires n x }

/-- The TRW drivers are enabled (R218): not in the hand-over of a role swap, where every gate is false (R301); with VCORE or
VIO33 out of range they are high-impedance (R413). -/
def driving (s : State) : Bool := holdsToken s && protecting s && s.power.supplyOk && !s.pair.releaseDriven

/-- The drivers are on now (R218): in the hand-over of a role swap at boundary C_r they give the resting level until
C_r + 40 µs (R301). -/
def driversOn (s : State) : Bool :=
  driving s || holdsToken s && protecting s && s.power.supplyOk &&
    (match s.pair.swap with
      | .released _ _ r => decide (s.tb.now < commitInstantOf s.glb.lpipe r + usSteps 40)
      | _ => true)

/-- The level of TRW[n] now (R216 to R218): high impedance, else low at rest, else it follows the oscillator from its rising
edge on. Every toggling wire has its edges at those of the one oscillator. -/
def wirePin (s : State) (n : Nat) : Option Bool :=
  let x := wireOf s n
  if driversOn s = false then none
  else some (x.toggling && (s.tb.clock - x.edge) / tripHalf % 2 == 0)

/-- Every driver goes high-impedance and the pull-downs hold the nets low (R218). -/
def releaseWires (s : State) : State :=
  { s with wires := s.wires.mapVals (fun _ w => { w with toggling := false, level := false, edge := 0 }) }

/-- The gate of wire n at commit k, with its command (R208, R209, R215). -/
def gateWire (k n : Nat) (cmd : Bool) (s : State) : State :=
  let w := wireWord s.cfg.package n
  let z := wrZone w
  let x := wireOf s n
  let t := tenonOf s z
  let trip := cmd && t.rel
  let back := wrBackstop w && (zoneOf s z).armed && t.bsop
  let toggle := wrEnabled w && (trip || back)
  let alone := wrEnabled w && back && !trip && driving s
  let s := setWire n { x with gate := toggle, cmd := cmd, alone := alone, lastGate := if toggle then some k else x.lastGate } s
  let s := if wrEnabled w && cmd && !x.cmd && !t.rel then
      sticky 0 9 (count 160 1 (tally 0x0801 [item n, item z, item k] s)) else s
  if alone && !x.alone then sticky 0 10 (tally 0x0802 [item n, item z, item k] s) else s

/-- TRIP_CMD, TOGGLING and LAST_TRIP of a zone after the gates of commit k (R331). -/
def zoneTrips (k z : Nat) (s : State) : State :=
  let ws := (List.range 192).filter (fun n =>
    wrEnabled (wireWord s.cfg.package n) && wrZone (wireWord s.cfg.package n) == z)
  let x := zoneOf s z
  let tog := ws.any (fun n => (wireOf s n).gate)
  setZone z
    { x with
      tripCmd := ws.any (fun n => (wireOf s n).cmd)
      toggling := tog
      lastTrip := if tog && !x.toggling then BitVec.ofNat 32 k else x.lastTrip } s

/-- CMD of wire n as committed (R208). -/
def committedCmd (s : State) (n : Nat) : Bool := truth (boolPoint s (41216 + n)).value

/-- The wires whose gate, command or driver may be anything but at rest: described, commanded, or with a state of their own.
Each of the others is disabled and without a command, as it was (R207, R208). -/
def gatedWires (s : State) : List Nat :=
  (List.range 192).filter (fun n =>
    (indicesOf s.cfg.package secWire).contains n || committedCmd s n || wireOf s n != Wire.init)

/-- The gates of wires with their commands at C_k, what the zones show of them, and the oscillator edge at which the wires
follow (R217). -/
def gatesWith (k : Nat) (cmd : State → Nat → Bool) (s : State) : State :=
  let ws := gatedWires s
  let s := ws.foldl (fun s n => gateWire k n (cmd s n) s) s
  let zs := ((ws.map (fun n => wrZone (wireWord s.cfg.package n))) ++
    ((s.zones.filter (fun z => z.2.toggling || z.2.tripCmd)).map (fun z => z.1))).eraseDups
  let s := zs.foldl (fun s z => zoneTrips k z s) s
  { s with tb := { s.tb with edge := tripEdge s (s.tb.now + usSteps 20) } }

/-- Every gate at commit k (R208). -/
def gateAll (k : Nat) (s : State) : State := gatesWith k committedCmd s

/-- The gates in the hold of a timebase step (R36, R211): the commands held, the releases of the sheaf that Tenon has just
evaluated. -/
def gateHeld (k : Nat) (s : State) : State := gatesWith k (fun s n => (wireOf s n).cmd) s

/-- The wire starts or stops at the edge at t where that is E (R217): the first edge rises; at a stop it falls, or stays low.
A row that names another instant does nothing (log 89). -/
def wireEdge (n : Nat) (t : Time) (s : State) : State :=
  let e := s.tb.edge
  let due := decide (t = timeAtClock s.tb e)
  let s := if due then advance t s else s
  let x := wireOf s n
  if ¬ (due ∧ driving s) then s
  else if x.gate && !x.toggling then setWire n { x with toggling := true, level := true, edge := e } s
  else if !x.gate && x.toggling then setWire n { x with toggling := false, level := false, edge := 0 } s
  else s

/-- A readback window ends with so many edges (R220). -/
def readback (n edges : Nat) (s : State) : State :=
  let w := wireWord s.cfg.package n
  if ¬ (wrReadback w ∧ driving s) then s
  else
    let x := wireOf s n
    let pass := if x.gate then decide (9 ≤ edges) else edges == 0
    let exp : Quad := if x.gate then 1 else 0
    if pass then
      let s := setWire n { x with failing := 0, fault := false } s
      if x.fault then tally 0x0803 [item n, 1, exp, item edges] s else s
    else if x.failing + 1 = 2 ∧ x.fault = false then
      sticky 0 11 (count 161 1 (tally 0x0803 [item n, 0, exp, item edges]
        (setWire n { x with failing := 2, fault := true } s)))
    else setWire n { x with failing := x.failing + 1 } s

/-- Binary input and pair words (R221). -/
def biWord (p : Option Package) (n : Nat) : Word := wAt (recOr p secBi n [1]) 0
def biDebounce (w : Word) : Nat := field w 10 0
def biInvert (w : Word) : Bool := bit w 11
def pairWord (p : Option Package) (n : Nat) : Word := wAt (recOr p secBiPair n [0]) 0
def prEnabled (w : Word) : Bool := bit w 0
def prAnti (w : Word) : Bool := bit w 1
def prMs (w : Word) : Nat := field w 12 2
def biFault (ws : List Word) : Option Nat := firstBad [(0, within (biDebounce (wAt ws 0)) 1 1440)]
def pairFault (ws : List Word) : Option Nat :=
  firstBad [(0, within (prMs (wAt ws 0)) (if prEnabled (wAt ws 0) then 1 else 0) 2000)]

def biPairOf (s : State) (p : Nat) : BiPair := FMap.get s.bi.pairs BiPair.init p

/-- Notes a transition at sub-sample m. -/
def biLog (m key : Nat) (v : Bool) (s : State) : State := { s with bi := { s.bi with log := (m, key, v) :: s.bi.log } }
def setPair (p : Nat) (x : BiPair) (s : State) : State := { s with bi := { s.bi with pairs := FMap.set s.bi.pairs p x } }

/-- The value of a key at sub-sample m, from the transitions; d is the value now. -/
def biAt (s : State) (key m : Nat) (d : Bool) : Bool :=
  let mine := s.bi.log.filter (fun e => e.2.1 == key)
  match mine.find? (fun e => decide (e.1 ≤ m)) with
  | some e => e.2.2
  | none => match mine.getLast? with
    | some e => !e.2.2
    | none => d

/-- Debounced value of input n now. -/
def debounced (s : State) (n : Nat) : Bool := FMap.get s.bi.debounced false n

/-- Whether a pair's channels agree under its sense (R221, R223). -/
def pairAgrees (s : State) (p : Nat) : Bool :=
  let same := debounced s (2 * p) == debounced s (2 * p + 1)
  if prAnti (pairWord s.cfg.package p) then !same else same

/-- A pair after sub-sample m, at which its channels agree or not and BI[2p] has the value v (R223). -/
def pairStep (p m : Nat) (agrees v : Bool) (s : State) : State :=
  let x := biPairOf s p
  let mark : BiPairMark := ⟨m, x.value, x.agreed, x.disagreeSince, x.agreeSince⟩
  let x := { x with was := some mark }
  if agrees then
    let x := { x with disagreeSince := none, agreeSince := some (x.agreeSince.getD m) }
    if x.fault then setPair p x s
    else
      let s := if v != x.value then biLog m (128 + p) v s else s
      let s := if x.agreed then s else biLog m (384 + p) true s
      setPair p { x with value := v, agreed := true } s
  else setPair p { x with agreeSince := none, disagreeSince := some (x.disagreeSince.getD m) } s

/-- The transitions of a pair's value and first agreement from sub-sample m on leave the log. -/
def dropPairLog (p m : Nat) (s : State) : State :=
  { s with bi := { s.bi with log := s.bi.log.filter (fun e =>
    !(decide (m ≤ e.1) && (e.2.1 == 128 + p || e.2.1 == 384 + p))) } }

/-- A pair as it stood before sub-sample m, where a first change at m has been taken already (R223). -/
def pairBefore (p m : Nat) (s : State) : State :=
  let x := biPairOf s p
  match x.was with
  | some w =>
    if w.m = m ∧ x.fault = false then
      dropPairLog p m (setPair p { x with
        value := w.value, agreed := w.agreed, disagreeSince := w.disagreeSince, agreeSince := w.agreeSince } s)
    else if w.m = m then
      setPair p { x with disagreeSince := w.disagreeSince, agreeSince := w.agreeSince } s
    else s
  | none => s

/-- A pair after a debounced change at sub-sample m (R223): both channels of a sub-sample count together. -/
def pairChange (p m : Nat) (s : State) : State :=
  if prEnabled (pairWord s.cfg.package p) = false then s
  else
    let s := pairBefore p m s
    pairStep p m (pairAgrees s p) (debounced s (2 * p)) s

/-- The sub-sample of the last transition of a key that the log holds. -/
def biLast (s : State) (key : Nat) : Option Nat := (s.bi.log.find? (fun e => e.2.1 == key)).map (fun e => e.1)

/-- The D-th consecutive differing sub-sample changes an input's debounced value (R222): the run of differing sub-samples
begins behind the last change. -/
def biChange (n since m : Nat) (s : State) : State :=
  let d := biDebounce (biWord s.cfg.package n)
  let at' := since + d - 1
  let old := match biLast s n with
    | some l => decide (since ≤ l)
    | none => false
  if m < at' ∨ old = true then s
  else
    let v := !debounced s n
    let s := { s with bi := { s.bi with debounced := FMap.set s.bi.debounced n v } }
    pairChange (n / 2) at' (biLog at' n v s)

/-- n_d = floor(14.4 × DT_MS) (R223). -/
def pairLimit (w : Word) : Nat := 144 * prMs w / 10

/-- A disagreement beyond DT_MS (R223). -/
def pairDiscrepancy (p m : Nat) (s : State) : State :=
  let w := pairWord s.cfg.package p
  let x := biPairOf s p
  match x.disagreeSince with
  | none => s
  | some d =>
    if prEnabled w ∧ x.fault = false ∧ d + pairLimit w ≤ m then
      let at' := d + pairLimit w
      sticky 0 12 (count 162 1 (tally 0x0804 [item p, 0, item at']
        (biLog at' (256 + p) true (setPair p { x with fault := true } s))))
    else s

/-- Recovery after D_p agreeing sub-samples (R223). -/
def pairRecovery (p m : Nat) (s : State) : State :=
  let w := pairWord s.cfg.package p
  let x := biPairOf s p
  let d := max (biDebounce (biWord s.cfg.package (2 * p))) (biDebounce (biWord s.cfg.package (2 * p + 1)))
  match x.agreeSince with
  | none => s
  | some a =>
    if prEnabled w ∧ x.fault ∧ a + d ≤ m + 1 then
      let at' := a + d - 1
      let v := debounced s (2 * p)
      let s := if v != x.value then biLog at' (128 + p) v s else s
      let s := if x.agreed then s else biLog at' (384 + p) true s
      tally 0x0804 [item p, 1, item at']
        (biLog at' (256 + p) false (setPair p { x with fault := false, agreed := true, value := v } s))
    else s

/-- A pair from sub-sample m on under the word in force (R224): its state at m by the inputs' values there, then their later
changes in order, with a fault or a recovery that came due between them. -/
def pairReplay (p m : Nat) (s : State) : State :=
  let val (n m : Nat) : Bool := biAt s n m (debounced s n)
  let agrees (m : Nat) : Bool :=
    let same := val (2 * p) m == val (2 * p + 1) m
    if prAnti (pairWord s.cfg.package p) then !same else same
  let later := ((s.bi.log.filter (fun e =>
    decide (m < e.1) && (e.2.1 == 2 * p || e.2.1 == 2 * p + 1))).map (fun e => e.1)).reverse.eraseDups
  later.foldl (fun t m => pairStep p m (agrees m) (val (2 * p) m) (pairRecovery p (m - 1) (pairDiscrepancy p (m - 1) t)))
    (pairStep p m (agrees m) (val (2 * p) m) s)

/-- The binary input points of sheaf k (R222 to R224): debounced and pair values at position 2. -/
def biPoints (k : Nat) (s : State) : FMap Point :=
  let m := 3 * k + 2
  let fault (p : Nat) : Bool :=
    prEnabled (pairWord s.cfg.package p) && biAt s (256 + p) m (biPairOf s p).fault
  let single (n : Nat) : Point := ⟨boolWord (biAt s n m (debounced s n)), if fault (n / 2) then qInvalid else 0⟩
  let pair (p : Nat) : Point :=
    if prEnabled (pairWord s.cfg.package p) then
      let ok := biAt s (384 + p) m (biPairOf s p).agreed
      if ok then ⟨boolWord (biAt s (128 + p) m (biPairOf s p).value), if fault p then qInvalid else 0⟩
      else Point.invalid
    else Point.invalid
  (List.range 128).map (fun n => (n, single n)) ++ (List.range 64).map (fun p => (128 + p, pair p))

/-- Old transitions leave the log; the newest of each key stays. -/
def trimBiLog (k : Nat) (s : State) : State :=
  { s with bi := { s.bi with log := s.bi.log.filter (fun e => decide (3 * k ≤ e.1 + histDepth)) } }

/-- TRIP_WIRE_START_STOP. -/
def execTripWireStartStop (wire : Nat) (edge : Time) (s : State) : Host.Outcome State Fault Refusal :=
  .next (wireEdge wire edge s)
/-- READBACK_WINDOW_END. -/
def execReadbackWindowEnd (wire edges : Nat) (s : State) : Host.Outcome State Fault Refusal :=
  .next (readback wire edges s)
/-- BI_DEBOUNCE_CHANGE. -/
def execBiDebounceChange (n since m : Nat) (s : State) : Host.Outcome State Fault Refusal := .next (biChange n since m s)
/-- BI_PAIR_DISCREPANCY. -/
def execBiPairDiscrepancy (p m : Nat) (s : State) : Host.Outcome State Fault Refusal := .next (pairDiscrepancy p m s)
/-- BI_PAIR_RECOVERY. -/
def execBiPairRecovery (p m : Nat) (s : State) : Host.Outcome State Fault Refusal := .next (pairRecovery p m s)
/-- TENON_SEAL_IN_EXPIRY. -/
def execTenonSealInExpiry (zone : Nat) (s : State) : Host.Outcome State Fault Refusal := .next (sealInExpiry zone s)
/-- BACKSTOP_DELAY_EXPIRY. -/
def execBackstopDelayExpiry (zone : Nat) (s : State) : Host.Outcome State Fault Refusal := .next (backstopExpiry zone s)

end Sys2Proof.Machine
end

