-- ==== Sys2Proof/Machine/Ports.lean ====
section
/-!
DEFINITION. The commands of the ports, of sampled values, PRP, timed launch, line differential and Dovetail samples
(R61 to R63, R72 to R75, R82, R106, R107, R137, R156, R164, R177, R426).
-/
namespace Sys2Proof.Machine

/-- A frame is accepted traffic (R62): its class, none where it matches nothing. A ROLE 1 port takes no SV or GOOSE. The entries of
an armed package count under that package's own ports (R29). -/
def frameClass (s : State) (f : Frame) : Option Nat :=
  let p := s.cfg.package
  let armed : Option Package := (armedPackage s).map (fun x => x.2)
  match f.body with
  | .sv asdus =>
    let hit (q : Option Package) : Bool := busPort q f.port && (svEntries q).any (fun e => svMatches q f asdus e.2)
    if f.etherType == 0x88BA && (hit p || (armed.isSome && hit armed)) then some 2 else none
  | .goose g =>
    if busPort p f.port && (gsEntries p).any (fun e => gsMatches p f g e.2) then some 1 else none
  | .ptp _ => if ptpActive s f.port then some 0 else none
  | .ldf _ =>
    if f.etherType == 0x88B5 && (ldEntries p).any (fun e => (ldfPath p e.2 f).isSome) then some 0 else none
  | .prpSupervision => if (prpPair p f.port).isSome then some 0 else none
  | .other => none

/-- Whether a frame passes the port checks of R61: 64 to 1,522 bytes, at most one tag, FCS and symbols good. -/
def framePasses (f : Frame) : Bool :=
  within f.len 64 1522 && decide (f.tags ≤ 1) && f.fcsOk && !f.symbolError

/-- Duplicate discard of R74 where it applies: a trailer, a pair, no PTP message. -/
def prpFilter (f : Frame) (s : State) : Bool × State :=
  match prpPair s.cfg.package f.port with
  | none => (true, s)
  | some lo =>
    match f.body with
    | .ptp _ => (true, s)
    | _ =>
      let r := prpCheck lo f s
      (r.1, lanReturn lo f r.2)

/-- A frame that no command of the table takes in: it leaves the buffer as it comes (R62, R73, R97). -/
def endsHere (f : Frame) : Bool := match f.body with
  | .prpSupervision => true
  | .ptp acts => !acts
  | _ => false

/-- A port receives under the package in force, or under one that is armed (R29, R59). -/
def portOn (s : State) (n : Nat) : Bool :=
  portMode (portWords s.cfg.package n) != 0 || (armedPackage s).any (fun q => portMode (portWords (some q.2) n) != 0)

/-- A frame of 0x88B5 at a ROLE 1 port that fails the first check of R164. -/
def ldfStray (s : State) (f : Frame) : Bool :=
  portRole (portWords s.cfg.package f.port) == 1 && f.etherType == 0x88B5 &&
    !(ldEntries s.cfg.package).any (fun e => (ldfPath s.cfg.package e.2 f).isSome)

/-- A frame's last bit reaches a port (R61 to R63, R74, R75, R212). What matches nothing leaves here (R62): it enters no node table
and counts as no duplicate, and CNT_LDF_REJECT counts it where R164 does (DESIGN CHOICE, log 53). -/
def portFrameIn (f : Frame) (s : State) : State :=
  let s := advance f.tArr s
  let x := portOf s f.port
  if portOn s f.port = false ∨ x.link = false then s
  else if framePasses f = false then count (32 + f.port) 1 s
  else
    let s := tenonExtract f (count f.port 1 s)
    match frameClass s f with
    | none => if ldfStray s f then count 168 1 s else s
    | some c =>
      if classShare c < (x.used[c]?).getD 0 + f.len then count (64 + f.port) 1 s
      else
        let r := prpFilter f s
        if r.1 = false ∨ endsHere f = true then r.2
        else
          let y := portOf r.2 f.port
          setPort f.port { y with used := modAt (fun u => u + f.len) c y.used, waiting := y.waiting ++ [f] } r.2

/-- A silent source leaves the node table (R74). -/
def nodeExpiry (port : Nat) (src : Mac) (t : Time) (s : State) : State :=
  let s := advance t s
  match prpPair s.cfg.package port with
  | none => s
  | some lo =>
    match nodeOf s lo src with
    | some n =>
      if msSteps 400 ≤ t - n.last then
        { s with ing := { s.ing with nodes := s.ing.nodes.filter (fun x => !(x.pair == lo && x.src == src)) } }
      else s
    | none => s

/-- A source of the node table has been received on one LAN only for 2 s (R75). -/
def oneLan (port : Nat) (src : Mac) (t : Time) (s : State) : State :=
  let s := advance t s
  match prpPair s.cfg.package port with
  | none => s
  | some lo =>
    match nodeOf s lo src with
    | some n =>
      let silent (o : Option Time) : Bool := decide (msSteps 2000 ≤ t - o.getD n.since)
      if silent n.seenA != silent n.seenB then lanDown lo 1 src s else s
    | none => s

/-- A port loses or regains link (R75, R98, port faults of chapter 03). Log 28. -/
def linkChange (n : Nat) (up : Bool) (s : State) : State :=
  let x := portOf s n
  if x.link = up then s
  else
    let s := setPort n { x with link := up, untimed := if up then x.untimed else [] } s
    let s := match prpPair s.cfg.package n with
      | some lo => if up then s else lanDown lo 0 0 s
      | none => tally 0x0306 [item n, if up then 1 else 0] s
    if ptpActive s n then
      selectMaster (if up then s else setPtp n { ptpOf s n with sync := none } s)
    else s

/-- The line-differential effect of a launch that slipped (R156, R167): PREV_BAD in the next frame of the path, and the
path's frame serves no measurement. -/
def ldfSlip (d path : Nat) (seq : Nat) (s : State) : State :=
  let x := ldfOf s d
  setLdf d { x with
    prevBad := modAt (fun _ => true) path x.prevBad, launches := x.launches.filter (fun l => !(l.1 == seq && l.2.1 == path)) } s

/-- FRAME_SEQ of a line-differential frame's octets (R158). -/
def ldfSeqOf : TxData → Nat
  | .ldf words => 256 * (words[6]?).getD 0 + (words[7]?).getD 0
  | _ => 0

/-- A frame whose first bit crosses port n's ball at t leaves as R106 and R107 have it: within 10 ns of its launch instant at
the link reference plane, late behind an earlier timed frame, or at once where its instant had passed at insertion. -/
def launchDue (n : Nat) (t : Time) (occupied : Bool) (e : Launch) (s : State) : Bool :=
  let off := egressUnits s n t - stepUnits (e.instant.getD 0)
  e.late || (occupied && decide (0 ≤ off)) || decide (off.natAbs ≤ 655360)

/-- A timed frame leaves port n (R106, R107, R156). -/
def sendTimed (n : Nat) (t : Time) (occupied : Bool) (e : Launch) (s : State) : State :=
  let slipped := occupied && !e.late
  let s := if slipped then count 146 1 s else s
  let s := match e.kind with
    | .ldf d path => if slipped || e.late then ldfSlip d path (ldfSeqOf e.data) s else s
    | _ => s
  sendNow n e t s

/-- The first entry of a port's timed-launch queue reaches its instant (R106, R107, R82, R157); untimed frames that it held
back follow it where they fit. -/
def launch (n : Nat) (achieved : Time) (occupied : Bool) (s : State) : State :=
  match (portOf s n).queue with
  | [] => s
  | e :: rest =>
    if launchDue n achieved occupied e s = false then s
    else
      let s := advance achieved s
      let s := setPort n { portOf s n with queue := rest } s
      if mayTransmit s n = false then s
      else
        let go := mayLaunch s e.kind
        let s := if go then sendTimed n achieved occupied e s else s
        if (portOf s n).untimed.isEmpty then s
        else releaseUntimed n (if go then achieved + frameTime s n e else achieved) [] s

/-- The Dovetail subscription entries of a package that take a sub-sample of a source engine and slot on a port. -/
def dvtMatches (p : Option Package) (port srcEngine srcSlot : Nat) : List (Nat × List Word) :=
  (dsEntries p).filter (fun e => dsPort e.2 == port && dsEngine e.2 == srcEngine && dsSrcSlot e.2 == srcSlot)

/-- A sub-sample arrives over Dovetail and is placed by m (R137), under the running package, from sheaf j on under an
armed one (R29). A sub-sample after its close deadline is discarded (R22). -/
def dovetailIn (port srcEngine srcSlot m : Nat) (value : Int) (quality : Word) (s : State) : State :=
  let k := m / 3
  if FMap.get s.dovetail false port = false ∨ acceptsSheaf s k = false then s
  else
    let p : Option Package := match armedPackage s with
      | some (j, q) => if j ≤ k then some q else s.cfg.package
      | none => s.cfg.package
    let new := match armedPackage s with
      | some (j, _) => decide (j ≤ k)
      | none => false
    (dvtMatches p port srcEngine srcSlot).foldl (fun s e =>
      if (dsRate e.2 = 1 ∧ m % 3 ≠ 0) ∨ storesFor s new (dsLocal e.2) k = false then s
      else storeSample (dsLocal e.2) m ⟨value, quality⟩ s) s

/-- The sub-samples of sheaf k that the publication entries send, as the engine's own buffers hold them (R137): none that
is absent, and none of a slot that another engine publishes, since channels are not forwarded. -/
def dovetailOut (k : Nat) (s : State) : List DvtSent :=
  (dpEntries s.cfg.package).flatMap (fun e =>
    match slotSource s.cfg.package (dpSlot e.2) with
    | .dovetail _ _ => []
    | _ => [3 * k, 3 * k + 1, 3 * k + 2].filterMap (fun m =>
      (sampleAt s (dpSlot e.2) m).map (fun x => ⟨dpPorts e.2, dpSlot e.2, m, x⟩)))

/-- Publishes the sub-samples of sheaf k to the Dovetail neighbours (R137). -/
def dovetailPublish (k : Nat) (s : State) : State :=
  { s with ing := { s.ing with dvtSent := (dovetailOut k s).reverse ++ s.ing.dvtSent } }

/-- Dovetail sub-samples of sheaf k that are absent at the close deadline: missing, counted (R137, R22). -/
def dovetailMissing (k : Nat) (s : State) : State :=
  (dsEntries s.cfg.package).foldl (fun s e =>
    let subs := if dsRate e.2 = 1 then [3 * k] else [3 * k, 3 * k + 1, 3 * k + 2]
    subs.foldl (fun s m =>
      if (sampleAt s (dsLocal e.2) m).isSome then s
      else count 156 1 (storeSample (dsLocal e.2) m missingSample s)) s) s

/-- A Dovetail port is configured: a subscription names it, a publication or a trigger program sends on it. -/
def dvtConfigured (p : Option Package) (n : Nat) : Bool :=
  (dsEntries p).any (fun e => dsPort e.2 == n) || (dpEntries p).any (fun e => (dpPorts e.2).testBit n) ||
    (indicesOf p secTrigger).any (fun i =>
      let g := wAt (recOr p secTrigger i []) 0
      bit g 0 && (field g 14 11).testBit n)

/-- A Dovetail link loses or regains sync (R282 STK3.DOVETAIL_LINK_DOWN, R346 0x0A07). -/
def dovetailLink (n : Nat) (up : Bool) (s : State) : State :=
  if FMap.get s.dovetail false n = up then s
  else
    let s := { s with dovetail := FMap.set s.dovetail n up }
    if dvtConfigured s.cfg.package n || (paired s && (field s.pair.c0 16 13).testBit n) then
      let s := tally 0x0A07 [item n, if up then 1 else 0] s
      if up then s else sticky 3 14 s
    else s

/-- VANA falls below 3.10 V for 1 µs (R426). -/
def vanaStart (t : Time) (s : State) : State :=
  let s := advance t s
  match s.power.vanaDip with
  | some _ => s
  | none => tally 0x0205 [0, item (sheafOf t), 0] { s with power := { s.power with vanaDip := some t } }

/-- VANA returns above 3.10 V (R426). -/
def vanaEnd (t : Time) (s : State) : State :=
  let s := advance t s
  match s.power.vanaDip with
  | none => s
  | some a =>
    tally 0x0205 [1, item (sheafOf t), item (stepsNs (t - a))]
      { s with power := { s.power with vanaDip := none, vanaPast := (a, t) :: s.power.vanaPast } }

/-- A conversion stalls in a slice (R55): the slice fails in the sheaf that holds the instant. A slice stopped for its own
scan is not stalled (R39). -/
def stall (n : Nat) (t : Time) (s : State) : State :=
  let s := advance t s
  if scanning s n t then s else failSlice n (sheafOf t) 0 (some t) s

/-- SLICE_STALL. -/
def execSliceStall (slice : Nat) (t : Time) (s : State) : Host.Outcome State Fault Refusal := .next (stall slice t s)
/-- GLEANER_CALIBRATION_RESULT. -/
def execGleanerCalibrationResult (group : Nat) (t : Time) (s : State) : Host.Outcome State Fault Refusal :=
  .next (calibrationResult group (advance t s))
/-- OVERLAP_COMPARE. -/
def execOverlapCompare (group : Nat) (t : Time) (s : State) : Host.Outcome State Fault Refusal :=
  .next (overlapResult group (advance t s))
/-- VANA_DIP_START. -/
def execVanaDipStart (t : Time) (s : State) : Host.Outcome State Fault Refusal := .next (vanaStart t s)
/-- VANA_DIP_END. -/
def execVanaDipEnd (t : Time) (s : State) : Host.Outcome State Fault Refusal := .next (vanaEnd t s)
/-- PORT_FRAME_RX. -/
def execPortFrameRx (f : Frame) (s : State) : Host.Outcome State Fault Refusal := .next (portFrameIn f s)
/-- SV_FRAME. -/
def execSvFrame (f : Frame) (s : State) : Host.Outcome State Fault Refusal := .next (svFrameIn f s)
/-- SV_STREAM_LOST. -/
def execSvStreamLost (stream : Nat) (s : State) : Host.Outcome State Fault Refusal := .next (streamLost stream s)
/-- PRP_SUPERVISION_TX. -/
def execPrpSupervisionTx (port : Nat) (s : State) : Host.Outcome State Fault Refusal := .next (prpSupervision port s)
/-- PRP_NODE_EXPIRY. -/
def execPrpNodeExpiry (port : Nat) (src : Mac) (t : Time) (s : State) : Host.Outcome State Fault Refusal :=
  .next (nodeExpiry port src t s)
/-- PRP_LAN_DOWN. -/
def execPrpLanDown (port : Nat) (src : Mac) (t : Time) (s : State) : Host.Outcome State Fault Refusal :=
  .next (oneLan port src t s)
/-- PORT_LINK_CHANGE. -/
def execPortLinkChange (port : Nat) (up : Bool) (s : State) : Host.Outcome State Fault Refusal :=
  .next (linkChange port up s)
/-- TIMED_LAUNCH. -/
def execTimedLaunch (port : Nat) (achieved : Time) (occupied : Bool) (s : State) : Host.Outcome State Fault Refusal :=
  .next (launch port achieved occupied s)
/-- SYNC_RX. -/
def execSyncRx (m : PtpMsg) (s : State) : Host.Outcome State Fault Refusal := .next (syncIn m s)
/-- FOLLOW_UP_RX. -/
def execFollowUpRx (m : PtpMsg) (s : State) : Host.Outcome State Fault Refusal := .next (followUpIn m s)
/-- ANNOUNCE_RX. -/
def execAnnounceRx (a : Announce) (s : State) : Host.Outcome State Fault Refusal := .next (announceIn a s)
/-- PDELAY_REQ_RX. -/
def execPdelayReqRx (m : PtpMsg) (s : State) : Host.Outcome State Fault Refusal := .next (pdelayReqIn m s)
/-- PDELAY_RESP_RX. -/
def execPdelayRespRx (r : PdelayResp) (s : State) : Host.Outcome State Fault Refusal := .next (pdelayRespIn r s)
/-- PDELAY_REQ_TX. -/
def execPdelayReqTx (port : Nat) (t : Time) (s : State) : Host.Outcome State Fault Refusal := .next (pdelayReqOut port t s)
/-- ANNOUNCE_RECEIPT_TIMEOUT. -/
def execAnnounceReceiptTimeout (p : PortInstant) (s : State) : Host.Outcome State Fault Refusal :=
  .next (announceTimeout p.port p.at' s)
/-- SYNC_LOSS. -/
def execSyncLoss (t : Time) (s : State) : Host.Outcome State Fault Refusal := .next (syncLost t s)
/-- HOLDOVER_EXPIRY. -/
def execHoldoverExpiry (t : Time) (s : State) : Host.Outcome State Fault Refusal := .next (holdoverExpired t s)
/-- PPS_IN_EDGE. -/
def execPpsInEdge (stamp : Time) (s : State) : Host.Outcome State Fault Refusal := .next (ppsEdge stamp s)
/-- PPS_IN_LOSS. -/
def execPpsInLoss (t : Time) (s : State) : Host.Outcome State Fault Refusal := .next (ppsLost t s)
/-- PPS_OUT_PULSE. -/
def execPpsOutPulse (rising : Bool) (t : Time) (s : State) : Host.Outcome State Fault Refusal := .next (ppsOut rising t s)
/-- LDF_FRAME_RX. -/
def execLdfFrameRx (f : Frame) (s : State) : Host.Outcome State Fault Refusal := .next (ldfFrameIn f s)
/-- LDF_CHANNEL_LOSS. -/
def execLdfChannelLoss (descriptor terminal : Nat) (t : Time) (s : State) : Host.Outcome State Fault Refusal :=
  .next (ldfLoss descriptor terminal t s)
/-- LDF_HOLDOFF_END. -/
def execLdfHoldoffEnd (descriptor : Nat) (t : Time) (s : State) : Host.Outcome State Fault Refusal :=
  .next (ldfHoldoffOver descriptor t s)
/-- LDF_ALIGN_TIMEOUT. -/
def execLdfAlignTimeout (descriptor : Nat) (s : State) : Host.Outcome State Fault Refusal := .next (ldfAlignOut descriptor s)
/-- DOVETAIL_SAMPLE_RX. -/
def execDovetailSampleRx (port srcEngine srcSlot m : Nat) (value : Int) (quality : Word) (s : State) :
    Host.Outcome State Fault Refusal := .next (dovetailIn port srcEngine srcSlot m value quality s)
/-- DOVETAIL_LINK_CHANGE. -/
def execDovetailLinkChange (port : Nat) (up : Bool) (s : State) : Host.Outcome State Fault Refusal :=
  .next (dovetailLink port up s)

end Sys2Proof.Machine
end

