-- ==== Sys2Proof/Machine/Winnow.lean ====
section
/-!
DEFINITION. Winnow block coding (R253 to R258): bits MSB first, the four predictors, Rice codes, the choice of order and
parameter.
-/
namespace Sys2Proof.Machine

/-- n bits of a number, most significant first. -/
def wnBits (n v : Nat) : List Bool := (List.range n).map (fun i => v.testBit (n - 1 - i))

/-- Bits packed into bytes, the last byte padded with 0 (R250, R254). -/
def wnPack : List Bool → List Byte
  | [] => []
  | a :: b :: c :: d :: e :: f :: g :: h :: rest =>
    BitVec.ofNat 8 ([a, b, c, d, e, f, g, h].foldl (fun n x => 2 * n + (if x then 1 else 0)) 0) :: wnPack rest
  | short =>
    let n := short.foldl (fun n x => 2 * n + (if x then 1 else 0)) 0
    [BitVec.ofNat 8 (n * 2 ^ (8 - short.length))]

/-- pred(i) of R255 from the decoded values so far, the newest first. -/
def wnPredict (order : Nat) (y : List Int) : Int :=
  let a := (y[0]?).getD 0
  let b := (y[1]?).getD 0
  let c := (y[2]?).getD 0
  match order with
  | 0 => 0
  | 1 => a
  | 2 => 2 * a - b
  | _ => 3 * a - 3 * b + c

/-- q of a residual (R255). -/
def wnQuant (e : Nat) (r : Int) : Int :=
  let n : Int := ((r.natAbs + e) / (2 * e + 1) : Nat)
  if r < 0 then -n else n

/-- u of R257. -/
def wnMap (q : Int) : Nat := if 0 ≤ q then 2 * q.natAbs else 2 * q.natAbs - 1

/-- The mapped residuals of the samples after the warm-up; y: decoded values so far, the newest first. -/
def wnResiduals (order e : Nat) : List Int → List Int → List Nat
  | _, [] => []
  | y, x :: rest =>
    let p := wnPredict order y
    let q := wnQuant e (x - p)
    wnMap q :: wnResiduals order e ((p + q * (2 * e + 1)) :: y.take 2) rest

/-- The Rice code of u (R257). -/
def wnCode (w k u : Nat) : List Bool :=
  if u / 2 ^ k < 32 then List.replicate (u / 2 ^ k) true ++ [false] ++ wnBits k u
  else List.replicate 32 true ++ wnBits (w + 4) u

/-- Its length in bits. -/
def wnCodeLen (w k u : Nat) : Nat := if u / 2 ^ k < 32 then u / 2 ^ k + 1 + k else 36 + w

/-- Mapped residuals of a block under an order. -/
def wnBlockResiduals (order e : Nat) (xs : List Int) : List Nat :=
  wnResiduals order e (xs.take order).reverse (xs.drop order)

/-- Byte size of the value section under an order and parameter (R258). -/
def wnSize (w order k : Nat) (us : List Nat) : Nat :=
  ceilDiv (order * w + (us.map (wnCodeLen w k)).foldl (· + ·) 0) 8

/-- The smallest size with its order and parameter, ties to the lower order and then the lower parameter (R258). -/
def wnBest (w e : Nat) (xs : List Int) : Option (Nat × Nat × Nat) :=
  let orders := (List.range 4).filter (fun o => decide (o + 1 ≤ xs.length))
  orders.foldl (fun best o =>
    let us := wnBlockResiduals o e xs
    (List.range 32).foldl (fun best k =>
      let n := wnSize w o k us
      match best with
      | none => some (n, o, k)
      | some b => if n < b.1 then some (n, o, k) else best) best) none

/-- One Winnow block of samples with their 2-bit validities (R254, R258). -/
def wnBlock (w e : Nat) (xs : List (Int × Nat)) : List Byte :=
  let vals := xs.map (fun x => x.1)
  let good := xs.all (fun x => x.2 == 0)
  let raw := ceilDiv (xs.length * w) 8
  let best := wnBest w e vals
  let coded := match best with
    | some b => decide (b.1 < raw)
    | none => false
  let order := if coded then (best.map (fun b => b.2.1)).getD 0 else 0
  let k := if coded then (best.map (fun b => b.2.2)).getD 0 else 0
  let head := wnBits 2 order ++ [!coded] ++ wnBits 5 k ++ [good] ++ wnBits 7 0
  let validity := if good then [] else wnPack (xs.flatMap (fun x => wnBits 2 x.2))
  let body := if coded then
      (vals.take order).flatMap (fun x => wnBits w (twos w x)) ++
        (wnBlockResiduals order e vals).flatMap (wnCode w k)
    else vals.flatMap (fun x => wnBits w (twos w x))
  wnPack head ++ validity ++ wnPack body

/-- Consecutive blocks of up to 256 samples; n bounds their number. -/
def wnBlocks (w e : Nat) : Nat → List (Int × Nat) → List Byte
  | 0, _ => []
  | _, [] => []
  | n + 1, xs => wnBlock w e (xs.take 256) ++ wnBlocks w e n (xs.drop 256)

end Sys2Proof.Machine
end

