-- ==== Sys2Proof/Machine/Granary.lean ====
section
/-!
DEFINITION. Granary (11_granary_winnow.md): region and shares, reservation, the native record format, closing a record,
persistence on eMMC, numbering, release, DDR errors.
-/
namespace Sys2Proof.Machine

/-- Words E0 to E4 of the engine section (R348): L_PIPE_US, the start word, N0 to N2. -/
def engineWords (p : Option Package) : List Word := recOr p secEngine 0 [0, 0, 0, 0, 0]
/-- REGION_MIB, EMMC_FULL and SHARE_p (R245). -/
def gnRegionMib (p : Option Package) : Nat := field (wAt (engineWords p) 2) 12 0
def gnEmmcFull (p : Option Package) : Bool := bit (wAt (engineWords p) 2) 13
def gnShare (p : Option Package) (n : Nat) : Nat := field (wAt (engineWords p) (3 + n / 4)) (8 * (n % 4) + 7) (8 * (n % 4))

/-- Words of trigger program p (R227): header G0 to G4. -/
def tgWords (p : Option Package) (n : Nat) : List Word := recOr p secTrigger n []
def tgEnabled (ws : List Word) : Bool := bit (wAt ws 0) 0
def tgStates (ws : List Word) : Nat := field (wAt ws 0) 3 1 + 1
def tgRetrig (ws : List Word) : Nat := field (wAt ws 0) 5 4
def tg60 (ws : List Word) : Bool := bit (wAt ws 0) 6
def tgCodec (ws : List Word) : Nat := field (wAt ws 0) 7 7
def tgBoundE (ws : List Word) : Nat := field (wAt ws 0) 10 8
def tgXtOut (ws : List Word) : Nat := field (wAt ws 0) 14 11
def tgPre (ws : List Word) : Nat := 72 * field (wAt ws 1) 8 0
def tgPost (ws : List Word) : Nat := 72 * field (wAt ws 1) 19 9
def tgCap (ws : List Word) : Nat := 72 * field (wAt ws 2) 11 0
def tgNch (ws : List Word) : Nat := field (wAt ws 2) 20 12
def tgMask (ws : List Word) (i w : Nat) : Word := wAt ws (5 + 3 * i + w)
def tgCond (ws : List Word) (st i w : Nat) : Word := wAt ws (29 + 9 * st + 2 * i + w)
def tgAction (ws : List Word) (st : Nat) : Word := wAt ws (29 + 9 * st + 8)
def tgChannels (ws : List Word) : List Word := (List.range (min (tgNch ws) 256)).map (fun i => wAt ws (101 + i))

/-- Enabled trigger programs with their words. -/
def tgEntries (p : Option Package) : List (Nat × List Word) :=
  (indicesOf p secTrigger).filterMap (fun i => if tgEnabled (tgWords p i) then some (i, tgWords p i) else none)

/-- KIND and INDEX of a channel-list entry (R228). -/
def chDigital (w : Word) : Bool := bit w 17
def chIndex (w : Word) : Nat := field w 16 0

/-- W of a channel: 24 local, 32 SV and Dovetail (R246, R252). -/
def chWidth (w : Word) : Nat := if chIndex w < 64 then 24 else 32

/-- seg_c of R246. -/
def segBytes (p : Option Package) (w : Word) : Nat :=
  if chDigital w then 96
  else
    let one := 66 + 32 * chWidth w
    if slotSlow p (chIndex w) then one else 3 * one

/-- The bytes of a record of so many segments (R246, R247). -/
def recordBytes (p : Option Package) (chs : List Word) (nseg : Nat) : Nat :=
  8191 + 256 + 16 * chs.length + nseg * (24 + (chs.map (segBytes p)).foldl (· + ·) 0)

/-- G in bytes: REGION_MIB, or what is left of it (R245, R249). -/
def regionBytes (s : State) : Nat :=
  let g := gnRegionMib s.cfg.package * 1048576
  match s.granary.shrunk with
  | some n => min n g
  | none => g

/-- E_p and the common pool in bytes (R245). -/
def shareBytes (s : State) (n : Nat) : Nat := regionBytes s * gnShare s.cfg.package n / 64
def poolBytes (s : State) : Nat :=
  let sum := ((List.range 8).map (gnShare s.cfg.package)).foldl (· + ·) 0
  regionBytes s * (64 - sum) / 64

/-- Records that hold a reservation (R247). -/
def holders (s : State) : List Rec := s.granary.opened ++ s.granary.closed

/-- What a program's share and the pool have left, one record left out (R247). -/
def shareLeft (s : State) (n skip : Nat) : Nat :=
  shareBytes s n - (((holders s).filter (fun r => r.primary == n && r.openNo != skip)).map (fun r => r.fromShare)).foldl
    (· + ·) 0
def poolLeft (s : State) (skip : Nat) : Nat :=
  poolBytes s - (((holders s).filter (fun r => r.openNo != skip)).map (fun r => r.reserved - r.fromShare)).foldl (· + ·) 0

/-- Segments of a record from its first to its last sub-sample. -/
def segCount (r : Rec) : Nat := ceilDiv (r.last + 1 - r.first) 768

/-- A RECORD_TRUNCATED report (R248). -/
def reportTruncated (r : Rec) (s : State) : State :=
  sticky 2 2 (count 180 1 (tally 0x0902 [item r.cause, item r.triggerM, item r.last] s))

/-- A record is lost (R248, R249). -/
def reportLost (cause trig : Nat) (why : Nat) (s : State) : State :=
  sticky 2 11 (count 181 1 (tally 0x0903 [item cause, item trig, 1, item why] s))

/-- The reservation of a record for its present last sub-sample (R247, R248): the record as granted, none where the
reserved segments do not reach the trigger instant; a shortened record is flagged TRUNCATED. -/
def reserve (r : Rec) (s : State) : Option Rec × State :=
  let p := s.cfg.package
  let share := shareLeft s r.primary r.openNo
  let avail := share + poolLeft s r.openNo
  let need := recordBytes p r.channels (segCount r)
  if need ≤ avail then (some { r with reserved := need, fromShare := min need share }, s)
  else
    let fixed := recordBytes p r.channels 0
    let one := recordBytes p r.channels 1 - fixed
    let n := if avail < fixed then 0 else (avail - fixed) / one
    let last := r.first + 768 * n - 1
    if n = 0 ∨ last < r.triggerM then (none, reportLost r.cause r.triggerM 0 s)
    else
      let got := recordBytes p r.channels n
      let r := { r with last := last, flags := setBit r.flags 8, reserved := got, fromShare := min got share }
      (some r, reportTruncated r s)

/-- The SCALE and UNIT of a channel (R252). -/
def chScale (p : Option Package) (k : Nat) : F32 × Nat :=
  let zones := (indicesOf p secZone).filter (fun z => znEnabled (zoneWords p z))
  let hit := zones.findSome? (fun z =>
    let zw := zoneWords p z
    let q := (List.range 8).find? (fun q => znUse zw q && znSlot zw q == k)
    let bay := (baysOf p z).find? (fun b => bayUse b && (List.range 3).any (fun ph => baySlot b ph == k))
    match slotSource p k, q, bay with
    | .localChannel, some q, _ => some (if q < 4 then (znIScale zw, 1) else (znVScale zw, 2))
    | .localChannel, none, some _ => some (znIScale zw, 1)
    | .sv _ _ _, some q, _ => some (if q < 4 then (F32.ofRatio 1 1000, 1) else (F32.ofRatio 1 100, 2))
    | .sv _ _ _, none, some _ => some (F32.ofRatio 1 1000, 1)
    | .dovetail _ _, _, some b => some (bayMatch b, 1)
    | _, _, _ => none)
  hit.getD (0#32, 0)

/-- One channel-table entry (R252). -/
def channelEntry (p : Option Package) (codec : Nat) (w : Word) : List Byte :=
  let k := chIndex w
  let src := if chDigital w then 3 else match slotSource p k with
    | .localChannel => 0
    | .dovetail _ _ => 2
    | _ => 1
  let scale := if chDigital w then (0#32, 0) else chScale p k
  leBytes 4 w.toNat ++ leBytes 1 src ++ leBytes 1 (if !chDigital w && slotSlow p k then 1 else 0) ++
    leBytes 1 (if chDigital w then 0 else chWidth w) ++ leBytes 1 (if chDigital w then 0 else codec) ++
    leBytes 4 scale.1.toNat ++ leBytes 1 scale.2 ++ zeros 3

/-- A boolean point at sub-sample m as Thresher sees it (R226). -/
def digitalAt (s : State) (n m : Nat) : Bool :=
  if n < 128 then biAt s n m (debounced s n)
  else if n < 192 then biAt s n m (biPairOf s (n - 128)).value
  else
    let mine := s.thr.points.filter (fun e => e.2.1 == n)
    match mine.find? (fun e => decide (e.1 ≤ m)) with
    | some e => e.2.2
    | none => match mine.getLast? with
      | some e => !e.2.2
      | none => FMap.get s.thr.last false n

/-- First sub-sample that the ring holds of a channel (R235, R243). -/
def ringFirst (s : State) (w : Word) : Nat := max s.thr.ringFrom (FMap.get s.thr.added 0 w.toNat)

/-- A recorded sample: value and validity as stored, a missing one with the value 0 that it was stored with (R22, R71); a sample
that the ring does not hold is missing (R234). -/
def recordedAt (s : State) (w : Word) (m : Nat) : Int × Nat :=
  if m < ringFirst s w then (0, 1)
  else match sampleAt s (chIndex w) m with
    | some x => (x.value, field x.quality 1 0)
    | none => (0, 1)

/-- One segment's bytes (R253). RATE and W are read back from the channel table, so that a later package changes
nothing. -/
def segmentBytes (s : State) (r : Rec) (i : Nat) : List Byte :=
  let m0 := r.first + 768 * i
  let n := min 768 (r.last + 1 - m0)
  let e := if r.codec % 2 = 1 then 2 ^ (r.codec / 2 % 8) else 0
  let chans := (r.channels.zip r.table).flatMap (fun c =>
    let ms := (List.range n).map (fun j => m0 + j)
    let slow := (c.2[5]?).getD 0 == 1
    let w := ((c.2[6]?).getD 0).toNat
    if chDigital c.1 then wnPackBytes (ms.map (fun m => decide (ringFirst s c.1 ≤ m) && digitalAt s (chIndex c.1) m))
    else if slow then wnBlock w e ((ms.filter (fun m => m % 3 == 0)).map (recordedAt s c.1))
    else wnBlocks w e 4 (ms.map (recordedAt s c.1)))
  leBytes 8 m0 ++ leBytes 4 (16 + chans.length) ++ leBytes 2 n ++ zeros 2 ++ chans
where
  /-- A digital channel's bits (R253), one per sub-sample, padded with 0. -/
  wnPackBytes (bs : List Bool) : List Byte := wnPack bs

/-- Codes every segment that is complete once sub-sample m has been processed (R250). fuel bounds the segments. -/
def codeSegments (s : State) (m : Nat) : Nat → Rec → Rec
  | 0, r => r
  | n + 1, r =>
    let i := r.segments.length
    if segCount r ≤ i ∨ m < min r.last (r.first + 768 * i + 767) then r
    else codeSegments s m n { r with segments := r.segments ++ [segmentBytes s r i] }

/-- ENGINE_ID and PAIR_ID of R291. -/
def engineId (s : State) : Nat := field s.pair.c0 22 17
def pairId (s : State) : Nat := field s.pair.c0 5 1

/-- The 256-byte header (R251). -/
def recordHeader (s : State) (r : Rec) (bodyLen indexOfs : Nat) : List Byte :=
  let t := subInstant r.triggerM
  leBytes 4 (ascii4 0x47 0x52 0x4E 0x52) ++ leBytes 2 1 ++ leBytes 2 (runningBg s) ++ leBytes 8 bodyLen ++
    leBytes 8 r.triggerM ++ leBytes 8 r.first ++ leBytes 8 r.last ++ leBytes 8 (twos 48 (secOf t)) ++
    leBytes 4 (nsOf t) ++ leBytes 2 (fracOf t) ++ leBytes 2 r.cause ++ leBytes 1 r.primary ++ leBytes 1 r.codec ++
    leBytes 2 r.channels.length ++ leBytes 4 r.flags.toNat ++ leBytes 4 r.retrig ++ leBytes 4 r.segments.length ++
    leBytes 8 indexOfs ++ leBytes 1 (engineId s) ++ leBytes 1 (pairId s) ++ leBytes 1 r.tbState ++
    leBytes 1 r.fNom ++ digestBytes r.pkgDigest ++ digestBytes r.progDigest ++ zeros 76

/-- Body offsets of the segments, the first behind header and channel table. -/
def segmentOffsets : Nat → List (List Byte) → List Nat
  | _, [] => []
  | o, b :: rest => o :: segmentOffsets (o + b.length) rest

/-- The body of a closed record (R250). -/
def recordBody (s : State) (r : Rec) : List Byte :=
  let start := 256 + 16 * r.channels.length
  let segs := r.segments.flatMap id
  let indexOfs := start + segs.length
  let used := indexOfs + 8 * r.segments.length
  let len := 4096 * ceilDiv used 4096
  recordHeader s r len indexOfs ++ r.table.flatMap id ++ segs ++
    (segmentOffsets start r.segments).flatMap (leBytes 8) ++ zeros (len - used)

/-- Records that close together are handed over by last sub-sample, then TRIGGER_M, then PRIMARY (R260). -/
def closesBefore (a b : Rec) : Bool :=
  decide (a.last < b.last) || (a.last == b.last &&
    (decide (a.triggerM < b.triggerM) || (a.triggerM == b.triggerM && decide (a.primary < b.primary))))

/-- A record inserted in close order. -/
def closeInsert (r : Rec) : List Rec → List Rec
  | [] => [r]
  | x :: rest => if closesBefore r x then r :: x :: rest else x :: closeInsert r rest

/-- Closed records in close order, those of one sub-sample by TRIGGER_M and PRIMARY (R260); a record whose write has failed
stays in front, for its retry goes on at the same offset (R261). -/
def closeInto (r : Rec) (s : State) : List Rec :=
  match s.granary.failures, s.granary.closed with
  | _ + 1, x :: rest => x :: closeInsert r rest
  | _, l => closeInsert r l

/-- Open records that p picks close: the rest of their segments is coded, the body completed, and they are handed to
Granary (R239, R250). -/
def closeRecords (p : Rec → Bool) (s : State) : State :=
  let out := s.granary.opened.filter p
  let fin := out.map (fun r =>
    let r := codeSegments s r.last 60 { r with done := true }
    { r with body := recordBody s r })
  let s := { s with granary := { s.granary with opened := s.granary.opened.filter (fun r => !p r) } }
  fin.foldl (fun s r => { s with granary := { s.granary with closed := closeInto r s } }) s

/-- Closes open records early at sub-sample m with a flag (R243, R249). -/
def closeEarly (p : Rec → Bool) (m flag : Nat) (s : State) : State :=
  let mark (r : Rec) : Rec :=
    if p r && !r.done then { r with last := min r.last (max m r.first), flags := setBit r.flags flag, done := true } else r
  closeRecords (fun r => r.done) { s with granary := { s.granary with opened := s.granary.opened.map mark } }

/-- The bytes that the records on eMMC occupy, body and seal (R260). -/
def logUsed (s : State) : Nat := (s.granary.stored.map (fun r => r.body.length + 4096)).foldl (· + ·) 0

/-- The seal of R261. -/
def sealOf (s : State) (no : Nat) (r : Rec) : List Byte :=
  let head := leBytes 4 (ascii4 0x47 0x52 0x4E 0x53) ++ leBytes 4 1 ++ leBytes 8 no ++ leBytes 8 r.body.length ++
    leBytes 8 r.triggerM ++ sha384 r.body ++ leBytes 8 s.glb.opsec.toNat ++ leBytes 4 s.glb.pwrcyc.toNat
  head ++ leBytes 4 (crc32 head).toNat ++ zeros 4000

/-- The eMMC controller is under memory test (R260, R311): a RUN_BIST of CLASS 2 at the head of the queue. -/
def emmcBusy (s : State) : Bool :=
  match s.bist.queue with
  | b :: _ => b.started && field b.target 7 0 == 2
  | [] => false

/-- The superblock in force: the newer one; that of a new device where none was written (R260). -/
def superInForce (s : State) : Superblock := (s.granary.supers.head?).getD ⟨0, 0, 1, 0, 0⟩

/-- A superblock with its CRC-32: over the fields before it, in this order, 8 bytes each, little-endian (DESIGN CHOICE, log 56). -/
def superOf (gen ofs no released : Nat) : Superblock :=
  ⟨gen, ofs, no, released, crc32 (leBytes 8 gen ++ leBytes 8 ofs ++ leBytes 8 no ++ leBytes 8 released)⟩

/-- The oldest records up to n leave: RELEASED_THROUGH is n, HEAD_OFS moves past them, HEAD_NO names the record that follows,
and the older superblock is written over (R260, R263). -/
def releaseThrough (n : Nat) (s : State) : State :=
  let gone := s.granary.stored.filter (fun r => decide (r.no ≤ n))
  let left := s.granary.stored.filter (fun r => decide (n < r.no))
  let bytes := (gone.map (fun r => r.body.length + 4096)).foldl (· + ·) 0
  let old := superInForce s
  let new := superOf (old.generation + 1) ((old.headOfs + bytes) % s.granary.capacity)
    ((left.head?.map (fun r => r.no)).getD (n + 1)) n
  { s with granary := { s.granary with
    stored := left, releasedThrough := n, supers := new :: s.granary.supers.take 1 } }

/-- The oldest accepted records leave until need bytes fit (R264, EMMC_FULL = 1); fuel bounds them. -/
def overwriteOldest (need : Nat) : Nat → State → State
  | 0, s => s
  | n + 1, s =>
    if logUsed s + need ≤ s.granary.capacity then s
    else
      match s.granary.stored with
      | [] => s
      | r :: _ => overwriteOldest need n (count 182 1 (tally 0x0905 [item r.no] (releaseThrough r.no s)))

/-- Under PFAIL_N the one seal in progress is completed (R266). -/
def finishSeal (s : State) : State :=
  if s.power.pfail then { s with power := { s.power with lastSeal := false } } else s

/-- A record write ends (R261, R262, R264): accepted where the read-back matches; a second failure reports and the
retries go on. Under PFAIL_N only the seal in progress is completed (R266). -/
def persist (ok deviceError : Bool) (status : Word) (s : State) : State :=
  match s.granary.closed with
  | [] => s
  | r :: rest =>
    if s.granary.walked = false ∨ (s.power.pfail = true ∧ s.power.lastSeal = false) ∨ s.power.inReset = true ∨ emmcBusy s = true then s
    else
      let need := r.body.length + 4096
      let s := finishSeal s
      let s := if gnEmmcFull s.cfg.package then overwriteOldest need s.granary.stored.length s else s
      if s.granary.capacity < logUsed s + need then s
      else
        let no := s.granary.nextNo
        if ok ∧ deviceError = false then
          let st : Stored := ⟨no, r.triggerM, r.flags, r.cause, r.primary, r.body, sealOf s no r⟩
          let late := decide (2 ≤ s.granary.failures)
          let s := { s with
            granary := { s.granary with
              closed := rest, stored := s.granary.stored ++ [st], lastNo := no, nextNo := no + 1
              failures := 0, slow := false }
            store := { s.store with emmcFailed := s.store.emmcFailed && !s.granary.slow } }
          let s := if late then tally 0x0904 [item no, 2, status.zeroExtend 64] s else s
          postEvent 0x0E04 (BitVec.ofNat 64 no) s
        else
          let f := s.granary.failures + 1
          let s := { s with granary := { s.granary with failures := f } }
          let s := if f = 2 then sticky 2 3 (tally 0x0904 [item no, 0, status.zeroExtend 64] s) else s
          if (f = 8 ∨ deviceError) ∧ s.granary.slow = false then
            sticky 2 4 (tally 0x0904 [item no, 1, status.zeroExtend 64]
              { s with granary := { s.granary with slow := true }, store := { s.store with emmcFailed := true } })
          else s

/-- A retry's interval of 1 s or 10 s has passed and the record is written again (R261). -/
def retryStore (ok deviceError : Bool) (status : Word) (s : State) : State :=
  if s.granary.failures < 2 then s else persist ok deviceError status s

/-- The seal behind a record's body is there, passes its CRC and carries the expected number (R262). -/
def sealGood (s : State) (no : Nat) (r : Stored) : Bool :=
  leAt r.sealBytes 8 8 == no && leAt r.sealBytes 92 4 == (crc32 (r.sealBytes.take 92)).toNat &&
    !s.granary.badSeals.contains r.no

/-- The records that the walk accepts, the first expected to be number no: it stops at the first bad seal (R262). -/
def walkFrom (s : State) (no : Nat) : List Stored → List Stored
  | [] => []
  | r :: rest => if sealGood s no r then r :: walkFrom s (no + 1) rest else []

/-- The walk of the log at start completes (R262): from HEAD_OFS and HEAD_NO on, to the first seal that is absent, fails its
CRC or breaks the sequence; the next number follows the last valid seal and RELEASED_THROUGH. -/
def walkLog (s : State) : State :=
  if s.granary.walked then s
  else
    let found := walkFrom s (superInForce s).headNo s.granary.stored
    let last := max ((found.getLast?.map (fun r => r.no)).getD 0) s.granary.releasedThrough
    { s with granary := { s.granary with
      walked := true, stored := found, lastNo := last, nextNo := last + 1, badSeals := [] } }

/-- Whether the reservations fit the region (R247, R249). -/
def reservationsFit (s : State) : Bool :=
  let nodesOver := (List.range 8).map (fun n =>
    (((holders s).filter (fun r => r.primary == n)).map (fun r => r.reserved)).foldl (· + ·) 0 - shareBytes s n)
  decide (nodesOver.foldl (· + ·) 0 ≤ poolBytes s)

/-- Open records close at sub-sample m, the newest first, until the reservations fit (R249); fuel bounds them. -/
def shrinkOpen (m : Nat) : Nat → State → State
  | 0, s => s
  | n + 1, s =>
    if reservationsFit s then s
    else
      match s.granary.opened.getLast? with
      | none => s
      | some r =>
        let last := min r.last (max m r.first)
        let r' := { r with
          last := last, flags := setBit r.flags 8, done := true
          reserved := recordBytes s.cfg.package r.channels (ceilDiv (last + 1 - r.first) 768) }
        let s := { s with granary := { s.granary with
          opened := s.granary.opened.map (fun x => if x.openNo = r.openNo then r' else x) } }
        shrinkOpen m n (reportTruncated r' (closeRecords (fun x => x.openNo == r.openNo) s))

/-- The share part of each reservation is drawn again, oldest record first, after the region shrank. -/
def redraw (s : State) : State :=
  let draw (acc : List (Nat × Nat)) (r : Rec) : List (Nat × Nat) × Nat :=
    let used := (acc.find? (fun p => p.1 == r.primary)).map (fun p => p.2) |>.getD 0
    let take := min r.reserved (shareBytes s r.primary - used)
    ((r.primary, used + take) :: acc.filter (fun p => p.1 != r.primary), take)
  let step (st : List (Nat × Nat) × List Rec) (r : Rec) : List (Nat × Nat) × List Rec :=
    let d := draw st.1 r
    (d.1, st.2 ++ [{ r with fromShare := d.2 }])
  let a := s.granary.closed.foldl step ([], [])
  let b := s.granary.opened.foldl step (a.1, [])
  { s with granary := { s.granary with closed := a.2, opened := b.2 } }

/-- The records not accepted whose data an uncorrectable error hit are discarded and reported (R249, R362); the failures counted
were those of the record in front (R261). -/
def dropHit (hit : List Nat) (s : State) : State :=
  let lost := (holders s).filter (fun r => hit.contains r.openNo)
  let front := (s.granary.closed.head?.map (fun r => hit.contains r.openNo)).getD false
  let s := { s with granary := { s.granary with
    opened := s.granary.opened.filter (fun r => !hit.contains r.openNo)
    closed := s.granary.closed.filter (fun r => !hit.contains r.openNo)
    failures := if front then 0 else s.granary.failures } }
  lost.foldl (fun s r => reportLost r.cause r.triggerM 1 s) s

/-- A DDR error (R249, R282): remaining names the region's bytes where a rank is mapped out. -/
def ddrFault (correctable : Bool) (remaining : Option Nat) (hit : List Nat) (s : State) : State :=
  if correctable then sticky 2 0 (count 185 1 s)
  else
    let s := sticky 2 1 (count 186 1 s)
    match remaining with
    | none => dropHit hit s
    | some n =>
      let s := dropHit hit { s with granary := { s.granary with shrunk := some (min n ((s.granary.shrunk).getD n)) } }
      redraw (shrinkOpen (3 * s.glb.sheaf + 2) s.granary.opened.length s)

/-- RECORD_PERSISTED. -/
def execRecordPersisted (readBackOk deviceError : Bool) (deviceStatus : Word) (s : State) :
    Host.Outcome State Fault Refusal := .next (persist readBackOk deviceError deviceStatus s)
/-- GRANARY_STORE_RETRY. -/
def execGranaryStoreRetry (readBackOk deviceError : Bool) (deviceStatus : Word) (s : State) :
    Host.Outcome State Fault Refusal := .next (retryStore readBackOk deviceError deviceStatus s)
/-- GRANARY_WALK. -/
def execGranaryWalk (s : State) : Host.Outcome State Fault Refusal := .next (walkLog s)
/-- DDR_ERROR. -/
def execDdrError (correctable : Bool) (remaining : Option Nat) (hit : List Nat) (s : State) :
    Host.Outcome State Fault Refusal := .next (ddrFault correctable remaining hit s)

end Sys2Proof.Machine
end

