-- ==== Sys2Proof/Machine/Registers.lean ====
section
/-!
DEFINITION. The BAR0 registers of both views (15_host_registers.md): what each word reads, the RL latch, the writes, the
snapshot, the zone status records, and the events on the PCIe side.
-/
namespace Sys2Proof.Machine

/-- The low and high words of a 64-bit value. -/
def lo32 (n : Nat) : Word := BitVec.ofNat 32 n
def hi32 (n : Nat) : Word := BitVec.ofNat 32 (n / 4294967296)

/-- GLB_ENGINE.ROLE (R292): 0 SINGLE, 1 ACTIVE, 2 STANDBY, 3 STANDBY_NOT_IN_STEP. It changes at boundaries only (R322). -/
def roleOf (s : State) : Nat :=
  s.pair.roleHeld.getD <|
  if paired s = false then 0 else if s.pair.token then 1 else if s.pair.inStep then 2 else 3

/-- ROLE_CHANGED where f changes the role (R353). -/
def withRole (f : State → State) (s : State) : State :=
  let t := f s
  if roleOf t = roleOf s then t else postEvent 0x0E03 (BitVec.ofNat 64 (roleOf t + 256 * roleOf s)) t

/-- The working position of a zone under the package in force (R284). -/
def zonePosition (s : State) (z : Nat) : Nat :=
  match s.cfg.package with
  | some p => Config.zonePosition p.digest z % 12
  | none => 0

/-- Zones that the package in force enables, rising; those of them not DEGRADED. -/
def enabledZones (s : State) : List Nat :=
  (indicesOf s.cfg.package secZone).filter (fun z => znEnabled (zoneWords s.cfg.package z))
def liveZones (s : State) : List Nat := (enabledZones s).filter (fun z => !(zoneOf s z).degraded)

/-- Lane states, lane n at [2n+1:2n], and the spare (R322 GLB_HEALTH_LANE). -/
def laneWord (x : Lanes) : Word :=
  let st := (x.states.zipIdx).foldl (fun a p => a + p.1.code * 4 ^ p.2) 0
  BitVec.ofNat 32 (st + 67108864 * (x.states.idxOf? .spare).getD 15)

/-- Lanes serving eight positions from p up, 4 bits each, 0xF for no lane (R322 GLB_HEALTH_POS). -/
def posWord (x : Lanes) (p n : Nat) : Word :=
  BitVec.ofNat 32 (((List.range n).map (fun i => ((x.positions[p + i]?).getD none).getD 15 * 16 ^ i)).foldl (· + ·) 0)

/-- Failed slices from n up as a bit map (R322 GLB_HEALTH_SLICE). -/
def sliceWord (s : State) (from' n : Nat) : Word :=
  BitVec.ofNat 32 (((List.range n).map (fun i => if (sliceOf s (from' + i)).failed then 2 ^ i else 0)).foldl (· + ·) 0)

/-- One group's byte of GLB_HEALTH_GRP (R322). -/
def groupByte (s : State) (g : Nat) : Nat :=
  let x := groupOf s g
  x.replaced.getD 0 + (if x.replaced.isSome then 16 else 0) + (if x.running || s.samp.fixes.any (fun f => f.group == g && f.stops) then 32 else 0) +
    (if spareOk s g then 64 else 0)

/-- Number of DEGRADED zones (R322 NDEG). -/
def degradedCount (s : State) : Nat := ((enabledZones s).filter (fun z => (zoneOf s z).degraded)).length

def boolNat (b : Bool) : Nat := if b then 1 else 0

/-- GLB registers by word number from 0x0000 (R322). -/
def glbReg (s : State) : Nat → Word
  | 0 => Config.partId
  | 1 => BitVec.ofNat 32 (Config.silicon + 256 * s.trust.running)
  | 2 => BitVec.ofNat 32 (runningBg s)
  | 3 => BitVec.ofNat 32 (engineId s + 256 * pairId s + 8192 * boolNat (paired s) + 65536 * roleOf s)
  | 4 => BitVec.ofNat 32 (s.glb.gstate.code + 256 * degradedCount s)
  | 5 => laneWord s.lanes
  | 6 => posWord s.lanes 0 8
  | 7 => posWord s.lanes 8 4
  | 8 => sliceWord s 0 32
  | 9 => sliceWord s 32 32
  | 10 => sliceWord s 64 4
  | 11 => BitVec.ofNat 32 (groupByte s 0 + 256 * groupByte s 1 + 65536 * groupByte s 2 + 16777216 * groupByte s 3)
  | 12 => lo32 s.glb.sheaf
  | 13 => hi32 s.glb.sheaf
  | 14 => s.glb.opsec
  | 15 => s.glb.pwrcyc
  | 16 => BitVec.ofNat 32 s.glb.lpipe
  | _ => 0#32

/-- PF0 accepts commands: it holds the token or is unpaired (R294, R323 TOKEN). -/
def pf0Accepts (s : State) : Bool := !paired s || s.pair.token

/-- Commands of a view between doorbell and completion (R323 IN_FLIGHT), those whose entry waits for the ring included. -/
def inFlight (s : State) (v : View) : Nat :=
  (s.bells.filter (fun b => b.view == v)).length + ((s.view v).inflight.filter (fun e => !e.remote)).length +
    ((s.view v).held.filter (fun e => e.kind == 0)).length

/-- MBX_STAT of a view (R323). TOKEN of PF0 follows its meaning from reset on, where the table prints reset 0 and an engine with the
reset pair record is unpaired (DEDUCED, log 100). -/
def mbxStat (s : State) (v : View) : Word :=
  let x := s.view v
  let tok := match v with
    | .pf0 => pf0Accepts s
    | .pf1 => true
  BitVec.ofNat 32 (boolNat (!s.power.online) + 2 * boolNat (ringUsed x == 256 && !x.held.isEmpty) + 4 * boolNat tok +
    8 * boolNat (s.bells.any (fun b => b.view == v && b.held)) + 65536 * inFlight s v)

/-- MBX registers by word number from 0x1000 (R323). -/
def mbxReg (s : State) (v : View) (n : Nat) : Word :=
  let x := s.view v
  match n with
  | 1 => x.cplHead
  | 2 => x.cplTail
  | 3 => mbxStat s v
  | 4 => BitVec.ofNat 32 (boolNat x.cplEn + 2 * boolNat x.statEn)
  | 6 => x.nextSeq.truncate 32
  | 7 => (x.nextSeq >>> 32).truncate 32
  | _ => 0#32

/-- The word at byte offset i of a view's snapshot image (R324, R325). -/
def snpWord (x : ViewState) (i : Nat) : Word := wAt x.snpImage (i / 4)

/-- SNP registers and window by byte offset from 0x2000 (R324). -/
def snpReg (x : ViewState) (o : Nat) : Word :=
  if o = 0 then BitVec.ofNat 32 (boolNat x.snpReq + 2 * boolNat x.snpIrq)
  else if o = 4 then x.snpSeq
  else if o = 8 then x.snpSheaf.truncate 32
  else if o = 12 then (x.snpSheaf >>> 32).truncate 32
  else if o = 16 then x.snpPage.zeroExtend 32
  else if 0x100 ≤ o then snpWord x (3840 * x.snpPage.toNat + (o - 0x100))
  else 0#32

/-- STK registers by word number from 0x3000 (R326); v: whose STK_IRQ_EN. -/
def stkReg (s : State) (v : View) (n : Nat) : Word :=
  if n < 4 then regAt s.stk.regs n
  else if n = 4 then s.stk.first
  else if n = 5 then lo32 s.stk.firstSheaf
  else if n = 6 then hi32 s.stk.firstSheaf
  else if 8 ≤ n ∧ n < 12 then regAt (s.view v).stkIrqEn (n - 8)
  else 0#32

/-- CNT words by word number from 0x4000 (R327, R328). -/
def cntReg (s : State) (n : Nat) : Word :=
  let c := FMap.get s.cnt 0 (n / 2)
  if n < 512 then (if n % 2 = 0 then lo32 c else hi32 c) else 0#32

/-- TB words by word number from 0x5000 (R329); v: whose capture (R88). -/
def tbReg (s : State) (v : View) (n : Nat) : Word :=
  let x := s.view v
  match n with
  | 0 => x.tbNs
  | 1 => x.tbSec.truncate 32
  | 2 => (x.tbSec >>> 32).truncate 32
  | 3 => x.tbFrac.zeroExtend 32
  | 4 => tbStateReg s
  | 5 => tbOffsetReg s
  | 6 => ratReg s.tb.adj
  | 7 => ratReg s.tb.integ
  | 8 => tbHoReg s
  | 9 => s.tb.measCount
  | _ => 0#32

/-- The 256 bytes of a slot (R330). -/
def slotBytes (x : Slot) : List Byte :=
  leBytes 2 x.opcode.toNat ++ leBytes 2 x.flags.toNat ++ zeros 4 ++ leBytes 8 x.hostSeq.toNat ++ leBytes 2 x.len.toNat ++
    leBytes 2 x.status.toNat ++ leBytes 2 x.cflags.toNat ++ zeros 2 ++ leBytes 8 x.engineSeq.toNat ++ x.payload

/-- A slot from its 256 bytes. -/
def slotOfBytes (b : List Byte) : Slot :=
  ⟨BitVec.ofNat 16 (leAt b 0 2), BitVec.ofNat 16 (leAt b 2 2), BitVec.ofNat 64 (leAt b 8 8), BitVec.ofNat 16 (leAt b 16 2),
    BitVec.ofNat 16 (leAt b 18 2), BitVec.ofNat 16 (leAt b 20 2), BitVec.ofNat 64 (leAt b 24 8), slice b 32 224⟩

/-- Slot n of a view. -/
def slotOf (x : ViewState) (n : Nat) : Slot := FMap.get x.slots Slot.empty n

/-- The 16 bytes of a ring entry (R340). -/
def ringBytes (e : RingEntry) : List Byte :=
  leBytes 8 e.arg.toNat ++ leBytes 2 e.status.toNat ++ leBytes 1 e.slot ++ leBytes 1 e.kind ++ leBytes 2 e.cflags.toNat ++
    leBytes 2 e.engineSeq.toNat

/-- The ring word at byte offset o (R330, R340). -/
def ringWord (x : ViewState) (o : Nat) : Word :=
  match FMap.get? x.ring (o / 16) with
  | some e => wordAt (ringBytes e) (o % 16)
  | none => 0#32

/-- Zone z has an input that arms with time (R110): an SV or Dovetail slot, or a line differential in TIMED mode. -/
def zoneTimed (p : Option Package) (z : Nat) : Bool :=
  let zw := zoneWords p z
  let timed (k : Nat) : Bool := match slotSource p k with
    | .sv _ _ _ => true
    | .dovetail _ _ => true
    | _ => false
  (List.range 8).any (fun q => znUse zw q && timed (znSlot zw q)) ||
  (znKind zw == 2 && (baysOf p z).any (fun b => [0, 1, 2].any (fun ph => timed (baySlot b ph)))) ||
  (match ldOfZone p z with
    | some e => !ldEchoMode e.2
    | none => false)

/-- The 64-byte record of zone z as sheaf k's commit shows it (R331), 16 words. -/
def zstRecord (s : State) (k z : Nat) : List Word :=
  let zw := zoneWords s.cfg.package z
  let x := zoneOf s z
  let t := tenonOf s z
  let out (o i : Nat) : Nat :=
    if truth (((instOf s (32 * z + i)).bools[o]?).getD Point.invalid).value then 2 ^ i else 0
  let map (f : Nat → Nat) : Nat := ((List.range 32).map f).foldl (· + ·) 0
  let status := (if x.degraded then 2 else 1) + 4 * boolNat x.armed + 8 * x.group + 64 * boolNat t.rel + 128 * boolNat t.bsop +
    256 * boolNat (timeArmed s || !zoneTimed s.cfg.package z) + 512 * boolNat x.held + 1024 * boolNat x.tripCmd + 2048 * boolNat x.toggling +
    65536 * zonePosition s z
  let body : List Word :=
    if znEnabled zw then
      [BitVec.ofNat 32 status, BitVec.ofNat 32 (map (out 0)), BitVec.ofNat 32 (map (out 1)),
        BitVec.ofNat 32 (map (fun i => if (instOf s (32 * z + i)).blocked = 0 then 0 else 2 ^ i)),
        BitVec.ofNat 32 (x.qInv + 256 * x.qQst + 65536 * x.fzQ), x.fz, x.iMax, x.v1Mag, x.i2Mag, x.i0Mag, x.lastTrip, 0#32]
    else List.replicate 12 0#32
  [lo32 k, hi32 k] ++ body ++ [lo32 k, hi32 k]

/-- The records of sheaf k go to the hidden buffer, which becomes the visible one (R332). -/
def zstCommit (k : Nat) (s : State) : State :=
  let recs := (List.range 160).map (fun z => (z, zstRecord s k z))
  { s with zst := recs, zstHidden := s.zst }

/-- ZST word by byte offset from 0x10000 (R331). -/
def zstWord (s : State) (o : Nat) : Word := wAt (FMap.get s.zst [] (o / 64)) (o % 64 / 4)

/-- Slots of a view. -/
def slotCount : View → Nat
  | .pf0 => 64
  | .pf1 => 16

/-- A word of BAR4 (R315, R319): the MSI-X table, then the pending bits. -/
def msixWord (x : ViewState) (o : Nat) : Word :=
  if o < 0x200 then
    (if o % 16 = 12 then BitVec.ofNat 32 (boolNat (bit x.msixMask (o / 16))) else FMap.get x.msixTable 0 (o / 4))
  else if o = 0x1000 then x.msixPending
  else 0#32

/-- A word of BAR2 (R315, R403): the dump in DDR up to DUMP_LEN, 0 while its header is not valid; PF0 only. -/
def dumpWord (s : State) (v : View) (o : Nat) : Word :=
  match v, s.dumpDdr with
  | .pf0, some d => wordAt d.bytes o
  | _, _ => 0#32

/-- One memory window of a function (R315): BAR number, bytes, prefetchable, read-only. Every one is 64-bit. -/
structure Bar where
  number : Nat
  bytes : Nat
  prefetchable : Bool
  readOnly : Bool
  deriving DecidableEq, Repr

/-- The capabilities of R315. -/
inductive PciCap where
  | powerManagement
  | pciExpress
  | msix (vectors : Nat)
  | aer
  | deviceSerialNumber
  | ari
  deriving DecidableEq, Repr

/-- The endpoint's configuration (R315): function number, windows, link speeds in units of 0.1 GT/s and widths, payload and
read request limits in bytes, capabilities; what is not listed is not implemented. -/
structure Endpoint where
  function : Nat
  bars : List Bar
  speeds : List Nat
  widths : List Nat
  maxPayload : Nat
  maxReadRequest : Nat
  caps : List PciCap
  deriving DecidableEq, Repr

def endpoint (v : View) : Endpoint where
  function := match v with
    | .pf0 => 0
    | .pf1 => 1
  bars := [⟨0, 1048576, false, false⟩] ++
    (match v with
      | .pf0 => [⟨2, 67108864, true, true⟩]
      | .pf1 => []) ++ [⟨4, 8192, false, false⟩]
  speeds := [80, 50, 25]
  widths := [4, 2, 1]
  maxPayload := 256
  maxReadRequest := 512
  caps := [.powerManagement, .pciExpress, .msix 32, .aer, .deviceSerialNumber, .ari]

/-- A word of the function's identification in configuration space (R315), the type bits of its windows among it (their places
are PCI's, PRESUMED, log 31); the serial number's words stand at 0x1000. -/
def pciWord (v : View) (o : Nat) : Word :=
  let ids := 0x1F2B + 65536 * (0x0160 + (endpoint v).function)
  if o = 0x00 ∨ o = 0x2C then BitVec.ofNat 32 ids
  else if o = 0x08 then BitVec.ofNat 32 (Config.silicon % 256 + 256 * 0x088000)
  else if 0x10 ≤ o ∧ o < 0x28 ∧ o % 8 = 0 then
    match (endpoint v).bars.find? (fun b => 0x10 + 4 * b.number == o) with
    | some b => BitVec.ofNat 32 (4 + 8 * boolNat b.prefetchable)
    | none => 0#32
  else if o = 0x1000 then lo32 serialNumber.toNat
  else if o = 0x1004 then hi32 serialNumber.toNat
  else 0#32

/-- The live word at an aligned BAR0 offset of a view (R320); reserved offsets read 0 (R317). Offsets from 0x100000 name
BAR4, from 0x4000000 BAR2, from 0x8000000 the configuration space (log 31). -/
def liveWord (s : State) (v : View) (o : Nat) : Word :=
  if o < 0x1000 then glbReg s (o / 4)
  else if o < 0x2000 then mbxReg s v ((o - 0x1000) / 4)
  else if o < 0x3000 then snpReg (s.view v) (o - 0x2000)
  else if o < 0x4000 then stkReg s v ((o - 0x3000) / 4)
  else if o < 0x5000 then cntReg s ((o - 0x4000) / 4)
  else if o < 0x6000 then tbReg s v ((o - 0x5000) / 4)
  else if o < 0x8000 then 0#32
  else if o < 0xC000 then
    let n := (o - 0x8000) / 256
    if n < slotCount v then wordAt (slotBytes (slotOf (s.view v) n)) ((o - 0x8000) % 256) else 0#32
  else if o < 0xD000 then ringWord (s.view v) (o - 0xC000)
  else if o < 0x10000 then 0#32
  else if o < 0x12800 then zstWord s (o - 0x10000)
  else if o < 0x100000 then 0#32
  else if o < 0x102000 then msixWord (s.view v) (o - 0x100000)
  else if o < 0x4000000 then 0#32
  else if o < 0x8000000 then dumpWord s v (o - 0x4000000)
  else pciWord v (o - 0x8000000)

/-- The low words with RL access (R321). -/
def isRlLow (o : Nat) : Bool :=
  o == 0x30 || o == 0x1018 || o == 0x2008 || o == 0x3014 || (decide (0x4000 ≤ o) && decide (o < 0x4800) && o % 8 == 0)

/-- BAR access of a view is possible: the link is up and the function is in D0 (R316). -/
def barOpen (s : State) (v : View) : Bool := s.power.linkUp && !(s.view v).d3hot && !s.power.inReset

/-- A read of TB_NOW_NS captures SEC, NS and FRAC for the view (R88, R329). -/
def captureTime (v : View) (t : Time) (s : State) : State :=
  if barOpen s v = false then s
  else
    let s := advance t s
    let t := s.tb.now
    let x := s.view v
    s.setView v
      { x with
        tbSec := BitVec.ofNat 48 (twos 48 (secOf t)), tbNs := BitVec.ofNat 32 (nsOf t)
        tbFrac := BitVec.ofNat 16 (fracOf t), readData := BitVec.ofNat 32 (nsOf t) }

/-- A read of an aligned word (R321): an RL low word latches its high word, the matching high word reads the latch. -/
def readWord (v : View) (o : Nat) (s : State) : State :=
  let x := s.view v
  if barOpen s v = false then s
  else if o = 0x5000 then captureTime v s.tb.now s
  else if isRlLow o then
    s.setView v { x with readData := liveWord s v o, holding := liveWord s v (o + 4), holdingOffset := some o }
  else if x.holdingOffset = some (o - 4) ∧ 4 ≤ o then s.setView v { x with readData := x.holding }
  else s.setView v { x with readData := liveWord s v o }

/-- A read of n = 1, 2 or 4 bytes at offset o (R317): the bytes addressed of the word that holds them. -/
def readBytes (v : View) (o n : Nat) (s : State) : List Byte × State :=
  let t := readWord v (o - o % 4) s
  (((leBytes 4 (t.view v).readData.toNat).drop (o % 4)).take n, t)

/-- An 8-byte read of an RL pair (R317): the low word, then the high word, which is the one latched. -/
def readPair (v : View) (o : Nat) (s : State) : List Byte × State :=
  let a := readBytes v o 4 s
  let b := readBytes v (o + 4) 4 a.2
  (a.1 ++ b.1, b.2)

/-- The snapshot image of a commit (R325): 3,200 words. -/
def snapshotWords (s : State) (v : View) : List Word :=
  (List.range 64).map (fun i => liveWord s v (4 * i)) ++ (List.range 16).map (fun i => liveWord s v (0x3000 + 4 * i)) ++
    List.replicate 48 0#32 ++ (List.range 512).map (fun i => liveWord s v (0x4000 + 4 * i)) ++
    (List.range 2560).map (fun i => liveWord s v (0x10000 + 4 * i))

/-- A requested copy starts at boundary C_k (R324): it holds the blocks as committed there. -/
def snapshotStart (k : Nat) (v : View) (s : State) : State :=
  let x := s.view v
  if x.snpReq ∧ x.snpCopy.isNone then s.setView v { x with snpCopy := some (k, snapshotWords s v) } else s

/-- The copy completes: REQ, SNP_SHEAF and SNP_SEQ change, vector 2 where IRQ asks for it (R324, R319). -/
def snapshotDone (v : View) (s : State) : State :=
  let x := s.view v
  match x.snpCopy with
  | none => s
  | some (k, ws) =>
    let x := { x with
      snpImage := ws, snpCopy := none, snpReq := false, snpSheaf := BitVec.ofNat 64 k, snpSeq := x.snpSeq + 1 }
    s.setView v (if x.snpIrq then raiseIn 2 x else x)

/-- A write to SNP_REQ (R324). -/
def snapshotWrite (v : View) (w : Word) (s : State) : State :=
  let x := s.view v
  if barOpen s v = false then s else s.setView v { x with snpReq := x.snpReq || bit w 0, snpIrq := bit w 1 }

/-- Entries that were held are posted while the ring has room (R323); one message for all (R319). -/
def drainHeld (v : View) (s : State) : State :=
  let x := s.view v
  if barOpen s v = false ∨ x.held = [] then s
  else
    let y := ringDrain x.held.length x
    s.setView v (if y.cplEn && y.cplHead != x.cplHead then raiseIn 0 y else y)

/-- A write to MBX_CPL_TAIL (R323): ignored where HEAD − TAIL would leave 0 to 256. -/
def tailWrite (v : View) (w : Word) (s : State) : State :=
  let x := s.view v
  if barOpen s v = false ∨ 256 < (x.cplHead - w).toNat then s
  else drainHeld v (s.setView v { x with cplTail := w })

/-- A vector is unmasked (R319): a set pending bit sends one message. -/
def msixUnmask (v : View) (n : Nat) (s : State) : State :=
  let x := s.view v
  if barOpen s v = false then s
  else
    let y := { x with msixMask := clearBit x.msixMask n }
    if bit x.msixPending n then
      s.setView v { y with msixPending := clearBit y.msixPending n, messages := n :: y.messages }
    else s.setView v y

/-- A view's private state after FLR (R316). -/
def flrView (x : ViewState) : ViewState :=
  { x with
    holding := 0, holdingOffset := none, snpReq := false, snpIrq := false, snpCopy := none, snpPage := 0, snpImage := []
    cplHead := 0, cplTail := 0, cplEn := false, statEn := false, stkIrqEn := [0, 0, 0, 0]
    msixMask := 0xFFFFFFFF#32, msixTable := [], msixPending := 0 }

/-- Function Level Reset of one function (R316): entries still held are posted from entry 0. -/
def flr (v : View) (s : State) : State := drainHeld v (s.setView v (flrView (s.view v)))

/-- PERST_N or loss of the link (R316): as FLR on both functions, until PERST_N is released. -/
def linkLost (s : State) : State :=
  { s with pf0 := flrView s.pf0, pf1 := flrView s.pf1, power := { s.power with linkUp := false } }

/-- PERST_N is released and the link retrains: posting resumes (R316). -/
def linkBack (s : State) : State :=
  drainHeld .pf1 (drainHeld .pf0 { s with power := { s.power with linkUp := true } })

/-- Entry to D3hot and return to D0 (R316). -/
def toD3 (v : View) (s : State) : State := s.setView v { s.view v with d3hot := true }
def toD0 (v : View) (s : State) : State := drainHeld v (s.setView v { s.view v with d3hot := false })

/-- Bus Master Enable (R316). -/
def setBusMaster (b : Bool) (v : View) (s : State) : State := s.setView v { s.view v with busMaster := b }

/-- Slot s of a view belongs to the engine: from its doorbell to its completion entry (R330, R333). -/
def engineOwns (s : State) (v : View) (n : Nat) : Bool :=
  s.bells.any (fun b => b.view == v && b.slot == n) || (s.view v).inflight.any (fun e => e.slot == n && !e.remote) ||
    (s.view v).held.any (fun e => e.kind == 0 && e.slot == n)

/-- A 32-bit write to slot RAM (R330), discarded while the engine owns the slot. -/
def slotWrite (v : View) (o : Nat) (w : Word) (s : State) : State :=
  let n := o / 256
  if slotCount v ≤ n ∨ engineOwns s v n then s
  else
    let x := s.view v
    let b := slotBytes (slotOf x n)
    let i := o % 256
    let b := slice b 0 i ++ leBytes 4 w.toNat ++ slice b (i + 4) (252 - i)
    s.setView v { x with slots := FMap.set x.slots n (slotOfBytes b) }

/-- Fills REGS and SHEAF of the events still without them from the image committed at C_k, by the offsets of the set that each
used (R272, R273). -/
def fillSnapshots (k : Nat) (s : State) : State :=
  let fill (e : TallyEvent) : TallyEvent :=
    if e.filled then e
    else
      { e with regs := e.offsets.map (liveWord s .pf0), filled := true, sheaf := BitVec.ofNat 64 k }
  { s with tally := { s.tally with queue := s.tally.queue.map fill } }

/-- RL_LOW_READ: another aligned offset reads under the same rule (R321). -/
def execRlLowRead (view : View) (offset : Nat) (s : State) : Host.Outcome State Fault Refusal :=
  .next (readWord view offset s)
/-- TB_NOW_NS_READ. -/
def execTbNowNsRead (view : View) (t : Time) (s : State) : Host.Outcome State Fault Refusal := .next (captureTime view t s)
/-- SNAPSHOT_REQUEST. -/
def execSnapshotRequest (view : View) (value : Word) (s : State) : Host.Outcome State Fault Refusal :=
  .next (snapshotWrite view value s)
/-- SNAPSHOT_COPY_COMPLETE. -/
def execSnapshotCopyComplete (view : View) (s : State) : Host.Outcome State Fault Refusal := .next (snapshotDone view s)
/-- STICKY_W1C_WRITE. -/
def execStickyW1cWrite (view : View) (reg : Nat) (value : Word) (s : State) : Host.Outcome State Fault Refusal :=
  .next (if barOpen s view then stickyWrite view reg value s else s)
/-- MBX_CPL_TAIL_WRITE. -/
def execMbxCplTailWrite (view : View) (value : Word) (s : State) : Host.Outcome State Fault Refusal :=
  .next (tailWrite view value s)
/-- MSIX_UNMASK. -/
def execMsixUnmask (view : View) (vector : Nat) (s : State) : Host.Outcome State Fault Refusal :=
  .next (msixUnmask view vector s)
/-- FUNCTION_LEVEL_RESET. -/
def execFunctionLevelReset (view : View) (s : State) : Host.Outcome State Fault Refusal := .next (flr view s)
/-- PERST_N_ASSERT. -/
def execPerstNAssert (s : State) : Host.Outcome State Fault Refusal := .next (linkLost s)
/-- PCIE_LINK_DOWN. -/
def execPcieLinkDown (s : State) : Host.Outcome State Fault Refusal := .next (linkLost s)
/-- PERST_N_RELEASE. -/
def execPerstNRelease (s : State) : Host.Outcome State Fault Refusal := .next (linkBack s)
/-- D3HOT_ENTRY. -/
def execD3hotEntry (view : View) (s : State) : Host.Outcome State Fault Refusal := .next (toD3 view s)
/-- D0_RETURN. -/
def execD0Return (view : View) (s : State) : Host.Outcome State Fault Refusal := .next (toD0 view s)
/-- BUS_MASTER_ENABLE_CLEAR. -/
def execBusMasterEnableClear (view : View) (s : State) : Host.Outcome State Fault Refusal :=
  .next (setBusMaster false view s)
/-- BUS_MASTER_ENABLE_SET. -/
def execBusMasterEnableSet (view : View) (s : State) : Host.Outcome State Fault Refusal := .next (setBusMaster true view s)

end Sys2Proof.Machine
end

