-- ==== Sys2Proof/Machine/Lanes.lean ====
section
/-!
DEFINITION. The evaluator lanes (R284 to R290): delivery, comparison, suspects and their tests, retirement, DEGRADED zones
(R33, R34).
-/
namespace Sys2Proof.Machine

/-- State of lane n; the lane that serves position p; the position that lane n serves. -/
def laneState (s : State) (n : Nat) : LaneState := (s.lanes.states[n]?).getD .retired
def laneAt (s : State) (p : Nat) : Option Nat := (s.lanes.positions[p]?).getD none
def positionOf (s : State) (n : Nat) : Option Nat := s.lanes.positions.idxOf? (some n)
def positionsOf (s : State) (n : Nat) : List Nat := (List.range 12).filter (fun p => laneAt s p == some n)
def setLane (n : Nat) (st : LaneState) (s : State) : State :=
  { s with lanes := { s.lanes with states := modAt (fun _ => st) n s.lanes.states } }
def setPosition (p : Nat) (n : Option Nat) (s : State) : State :=
  { s with lanes := { s.lanes with positions := modAt (fun _ => n) p s.lanes.positions } }

/-- The spare lane, if one exists (R284). -/
def spareLane (s : State) : Option Nat := s.lanes.states.idxOf? .spare

/-- A comparison takes place: a spare exists, no lane is TESTING, no suspect waits for or is under test (R285, R286, R289). -/
def comparing (s : State) : Bool :=
  (spareLane s).isSome && !s.lanes.states.contains .testing && s.lanes.suspects.isEmpty

/-- The position compared in sheaf k (R285, R286). -/
def comparedPosition (s : State) (k : Nat) : Nat :=
  match s.lanes.recheck with
  | some (p, j) => if j = k then p else k % 12
  | none => k % 12

/-- Zones of a position that are evaluated (R34, R284). -/
def zonesAt (s : State) (p : Nat) : List Nat := (liveZones s).filter (fun z => zonePosition s z == p)

/-- A lane ends its work for the sheaf in the pipeline (R23, R285): a serving lane delivers the results of its zones, the
spare its comparison. A lane under test does neither. The slack is the silicon's (R13, R396). -/
def laneDone (lane : Nat) (agrees : Bool) (s : State) : State :=
  let k := s.glb.cur
  let tested := s.lanes.suspects.any (fun x => x.lane == lane || laneState s lane == .spare)
  if ¬ (s.glb.running ∧ s.glb.frozen ∧ protecting s) ∨ tested then s
  else
    let (slack, s) := takeFree s
    let trace (pos : Nat) (s : State) : State :=
      traceMsg 0x12 (beBytes 1 lane ++ beBytes 1 (k % 256) ++ beBytes 2 (slack.toNat % 65536) ++ beBytes 1 pos) s
    match laneState s lane, positionOf s lane with
    | .serving, some p =>
      let zs := (positionsOf s lane).flatMap (zonesAt s)
      let res := zs.foldl (fun m z => FMap.set m z (evalZone s z k)) s.results
      trace p { s with results := res, lanes := { s.lanes with delivered := lane :: s.lanes.delivered } }
    | .spare, _ =>
      if comparing s then
        trace 0xFF { s with lanes := { s.lanes with compared := true, mismatch := !agrees } }
      else s
    | _, _ => s

/-- A zone is marked DEGRADED at boundary C_k (R34, R215), and the backstop armed where it is enabled. -/
def degradeZone (k cause z : Nat) (s : State) : State :=
  let x := zoneOf s z
  if x.degraded then s
  else
    let s := setZone z { x with degraded := true, armed := tnBsEn (tenonWords s.cfg.package z) } s
    sticky 0 13 (tally 0x0102 [item z, item cause, item k] s)

/-- GLB_STATE moves to DEGRADED where it is PROTECTING (R34, R365). -/
def toDegraded (s : State) : State :=
  if s.glb.gstate = .protecting ∧ s.glb.next.isNone then { s with glb := { s.glb with next := some .degraded } } else s

/-- Zones marked DEGRADED at C_k for one cause. -/
def degradeAll (k cause : Nat) (zs : List Nat) (s : State) : State :=
  if zs.isEmpty then s else toDegraded (zs.foldl (fun s z => degradeZone k cause z s) s)

/-- Two logic overruns in a row mark every enabled zone (R206); one entry names them all. -/
def degradeEvery (k : Nat) (s : State) : State :=
  let zs := liveZones s
  if zs.isEmpty then s
  else
    let s := zs.foldl (fun s z =>
      setZone z { zoneOf s z with degraded := true, armed := tnBsEn (tenonWords s.cfg.package z) } s) s
    toDegraded (sticky 0 13 (tally 0x0102 [item 0xFFFF, 1, item k] s))

/-- The lane rules mark the zones of a position DEGRADED in step 6 of the boundary under way (R31, R288). -/
def markPosition (pos : Nat) (s : State) : State :=
  { s with lanes := { s.lanes with marks := s.lanes.marks ++ zonesAt s pos } }

/-- A serving lane is retired at boundary C_k without a spare (R288): cause 0 known-answer test, 1 stall. -/
def retireServing (k lane pos cause : Nat) (s : State) : State :=
  let s := setPosition pos none (setLane lane .retired s)
  markPosition pos (sticky 0 2 (tally 0x0106 [item lane, item pos, item k, item cause] s))

/-- What a commit finds about the lanes: zones that hold, zones that overran, marks due. -/
structure LaneFindings where
  held : List Nat
  overran : List Nat
  stalled : List (Nat × Nat)

/-- One overrun of a zone in sheaf k (R33). -/
def overrun (k lane z : Nat) (s : State) : State :=
  sticky 0 0 (count 152 1 (tally 0x0101 [item z, item k, item lane] s))

/-- The positions whose work is missing at C_k, with the lanes that delivered nothing (R33, R286): not those of a lane
under test, which hold. -/
def stalledLanes (s : State) (k : Nat) : List (Nat × Nat) :=
  (List.range 12).filterMap (fun p =>
    match laneAt s p with
    | some l =>
      if s.lanes.delivered.contains l || s.lanes.suspects.any (fun x => x.pos == p && x.decideAt == k) then none
      else some (p, l)
    | none => none)

/-- Work of a position is missing in the cycle under way (R205). -/
def missPosition (p : Nat) (s : State) : State :=
  { s with logic := { s.logic with missed := p :: s.logic.missed.filter (fun q => q != p) } }

/-- The cycle under way holds where a position under a lane rule carries segments (R205, R286). -/
def holdSegments (p : Nat) (s : State) : State :=
  if (segmentPositions s).contains p then { s with logic := { s.logic with holdCycle := true } } else s

/-- A lane becomes a suspect, whether or not there is another (R286, R287). -/
def makeSuspect (x : Suspect) (s : State) : State :=
  if s.lanes.suspects.any (fun y => y.lane == x.lane && y.pos == x.pos) then s
  else { s with lanes := { s.lanes with suspects := s.lanes.suspects ++ [x] } }

/-- The comparison of sheaf k, complete before C_k, found a mismatch (R285, R286). -/
def mismatchFound (k : Nat) (s : State) : Bool :=
  let pc := comparedPosition s k
  protecting s && comparing s && (laneAt s pc).isSome && !(stalledLanes s k).any (fun p => p.1 == pc) &&
    s.lanes.compared && s.lanes.mismatch

/-- A mismatch is seen before the commit (R281, R286): the bit shows, and is counted, at C_k. -/
def markMismatch (k : Nat) (s : State) : State := if mismatchFound k s then sticky 0 1 (count 153 1 s) else s

/-- The lane rules' findings for sheaf k before its results are published (R33, R285, R286). -/
def laneCheck (k : Nat) (s : State) : LaneFindings × State :=
  if protecting s = false then (⟨[], [], []⟩, s)
  else
    let test := s.lanes.suspects.filter (fun x => x.decideAt == k)
    let heldTest := test.flatMap (fun x => zonesAt s x.pos)
    let s := test.foldl (fun s x => holdSegments x.pos s) s
    let stalls := stalledLanes s k
    let compare := comparing s
    let pc := comparedPosition s k
    let judged := compare && (laneAt s pc).isSome && !stalls.any (fun p => p.1 == pc)
    let lateC := if judged && !s.lanes.compared then [(pc, (laneAt s pc).getD 0)] else []
    let late := (liveZones s).filterMap (fun z =>
      ((stalls ++ lateC).find? (fun p => p.1 == zonePosition s z)).map (fun p => (z, p.2)))
    let s := late.foldl (fun s x => overrun k x.2 x.1 s) s
    let s := (stalls ++ lateC).foldl (fun s p => missPosition p.1 s) s
    let ran := late.map (fun x => x.1)
    let bad := judged && s.lanes.compared && s.lanes.mismatch
    let spare := (spareLane s).isSome
    let s := if spare then stalls.foldl (fun s p => makeSuspect ⟨p.2, p.1, k, k + 1, true, false⟩ (holdSegments p.1 s)) s else s
    let s := if bad then
        makeSuspect ⟨(laneAt s pc).getD 0, pc, k, k + 1, false, false⟩ (holdSegments pc s)
      else s
    let heldM := if bad then zonesAt s pc else []
    (⟨heldTest ++ ran ++ heldM, ran, if spare then [] else stalls⟩, s)

/-- The results of sheaf k become the committed state of every zone that does not hold (R25, R33); an instance that becomes
blocked is reported once (R141). A zone that holds under no rule of this sheaf shows no HELD (R331). -/
def applyResults (f : LaneFindings) (s : State) : State :=
  let s := ((enabledZones s).filter (fun z => (zoneOf s z).degraded && (zoneOf s z).held)).foldl (fun s z =>
    setZone z { zoneOf s z with held := false } s) s
  let s := (liveZones s).foldl (fun s z =>
    let ran := f.overran.contains z
    match f.held.contains z, FMap.get? s.results z with
    | false, some r =>
      let old := zoneOf s z
      let s := r.insts.foldl (fun s p =>
        let was := (instOf s p.1).blocked
        let s := { s with insts := FMap.set s.insts p.1 p.2 }
        if was = 0 ∧ p.2.blocked ≠ 0 then tally 0x0502 [item z, item (p.1 % 32), item p.2.blocked] s else s) s
      setZone z { r.zone with
        group := old.group, groupBad := old.groupBad, degraded := old.degraded, armed := old.armed, overran := false
        held := false, toggling := old.toggling, tripCmd := old.tripCmd, lastTrip := old.lastTrip
        estFrom := old.estFrom } s
    | hold, _ => setZone z { zoneOf s z with held := hold, overran := ran } s) s
  { s with results := [], lanes := { s.lanes with delivered := [], compared := false, mismatch := false } }

/-- Zones that overran in this sheaf and in the one before (R34), before the results are applied. -/
def twiceOverran (f : LaneFindings) (s : State) : List Nat := f.overran.filter (fun z => (zoneOf s z).overran)

/-- The outcome of a recalled lane (R312): on a pass it takes the failed lane's position, on a fail R288 applies. -/
def recallOutcome (k : Nat) (x : Suspect) (pass : Bool) (s : State) : State :=
  let failed := (laneAt s x.pos).getD 0
  let s := setLane failed .retired s
  let s := sticky 0 2 s
  if pass then setPosition x.pos (some x.lane) (setLane x.lane .serving s)
  else
    let s := sticky 0 4 (setPosition x.pos none (setLane x.lane .retired s))
    markPosition x.pos (tally 0x0106 [item failed, item x.pos, item k, 0] s)

/-- A second mismatch of a lane within 4,800 sheaves (R286). -/
def secondMismatch (s : State) (x : Suspect) : Bool :=
  !x.stall && (match FMap.get? s.lanes.lastMismatch x.lane with
    | some j => decide (x.sheaf ≤ j + 4800)
    | none => false)

/-- The outcome table of R286 at C_k: katL and katS are the passes of the suspect and of the spare. The position of the first
suspect of a boundary is the one compared again, where several pass (DESIGN CHOICE, log 35). -/
def suspectOutcome (k : Nat) (x : Suspect) (sp : Nat) (katL katS : Bool) (s : State) : State :=
  let s := tally 0x0105 [item x.sheaf, item x.pos, item x.lane, item sp, item (if katL then 0 else 1),
    item (if katS then 0 else 1)] s
  match katL, katS with
  | false, true => sticky 0 2 (sticky 0 4 (setPosition x.pos (some sp) (setLane sp .serving (setLane x.lane .retired s))))
  | true, false => sticky 0 3 (sticky 0 4 (setLane sp .retired s))
  | false, false => sticky 0 3 (sticky 0 4 (retireServing k x.lane x.pos 0 (setLane sp .retired s)))
  | true, true =>
    if secondMismatch s x then
      sticky 0 2 (setPosition x.pos (some sp) (setLane sp .serving (setLane x.lane .retired s)))
    else
      { s with lanes := { s.lanes with
        recheck := if s.lanes.recheck.isSome then s.lanes.recheck else some (x.pos, k + 1)
        lastMismatch := if x.stall then s.lanes.lastMismatch else FMap.set s.lanes.lastMismatch x.lane x.sheaf } }

/-- The outcome of one suspect at C_k (R286, R312): failed are the lanes whose test fails. A spare that an earlier suspect of
this boundary took or that failed leaves the position as R288 has it (DESIGN CHOICE, log 35). -/
def decideSuspect (k : Nat) (failed : List Nat) (katS : Bool) (spare : Option Nat) (s : State) (x : Suspect) : State :=
  let katL := !failed.contains x.lane
  if x.recalling then recallOutcome k x katL s
  else match spareLane s, spare with
    | some sp, _ => suspectOutcome k x sp katL katS s
    | none, some sp =>
      let s := tally 0x0105 [item x.sheaf, item x.pos, item x.lane, item sp, item (boolNat !katL), item (boolNat !katS)] s
      if katL then s else sticky 0 4 (retireServing k x.lane x.pos 0 s)
    | none, none => if katL then s else sticky 0 4 (retireServing k x.lane x.pos 0 s)

/-- Lane reassignments at boundary C_k (R31 step 1): outcomes of tests, then retirements without a spare (R287, R288). -/
def laneBoundary (k : Nat) (katFailed : List Nat) (katS : Bool) (f : LaneFindings) (s : State) : State :=
  let s := match s.lanes.recheck with
    | some (_, j) => if j ≤ k then { s with lanes := { s.lanes with recheck := none } } else s
    | none => s
  let due := s.lanes.suspects.filter (fun x => decide (x.decideAt ≤ k))
  let s := { s with lanes := { s.lanes with suspects := s.lanes.suspects.filter (fun x => decide (k < x.decideAt)) } }
  let s := due.foldl (decideSuspect k katFailed katS (spareLane s)) s
  let s := s.lanes.retire.foldl (fun s r =>
    match positionsOf s r.1 with
    | [] => setLane r.1 .retired s
    | ps => ps.foldl (fun s p => retireServing k r.1 p r.2 s) s) s
  let s := { s with lanes := { s.lanes with retire := [] } }
  f.stalled.foldl (fun s p => retireServing k p.2 p.1 1 s) s

/-- A lane's periodic known-answer test in the slack after C_k, k mod 4,800 = 360 × lane (R287, R307): a pass needs the
digest, 2,112 words and the sequencer's end token, as the running image's table has them. A serving lane that fails becomes a
suspect in the sheaf that follows, or retires at the next boundary where no spare exists; a spare that fails retires there. -/
def knownAnswer (lane : Nat) (endToken : Word) (digest : Quad) (words : Nat) (s : State) : State :=
  let table := Config.katExpected ((s.trust.slotDigest[s.trust.running]?).getD 0) Config.silicon
  let due := s.glb.running && s.glb.sheaf % 4800 == 360 * lane && !s.glb.frozen
  if ¬ due ∨ (words = 2112 ∧ (digest, endToken) = table) then s
  else
    let report (s : State) : State := sticky 0 4 (tally 0x0B04 [item lane, item s.glb.sheaf, digest, item words] s)
    match laneState s lane, positionOf s lane with
    | .serving, some p =>
      let s := report s
      if (spareLane s).isNone then { s with lanes := { s.lanes with retire := s.lanes.retire ++ [(lane, 0)] } }
      else
        makeSuspect ⟨lane, p, s.glb.sheaf, s.glb.cur, true, false⟩ s
    | .spare, _ =>
      let s := sticky 0 3 (report s)
      { s with lanes := { s.lanes with retire := s.lanes.retire ++ [(lane, 0)] } }
    | _, _ => s

/-- The package is partitioned over the lanes that serve (R34, R284, R290): positions without a lane go round the serving
lanes in order. -/
def repartition (s : State) : State :=
  let serving := (List.range 13).filter (fun n => laneState s n == .serving)
  if serving.isEmpty then s
  else
    let gaps := (List.range 12).filter (fun p => (laneAt s p).isNone)
    (gaps.zipIdx).foldl (fun s g => setPosition g.1 serving[g.2 % serving.length]? s) s

/-- The lanes after a cold start (R284, R290): the lowest passing lanes serve positions 0 to 11, a thirteenth is the spare;
with fewer than 12 the positions go round those that passed. -/
def coldLanes (failed : List Nat) : Lanes :=
  let good := (List.range 13).filter (fun n => !failed.contains n)
  let serve := good.take 12
  let st (n : Nat) : LaneState :=
    if serve.contains n then .serving else if good.contains n then .spare else .retired
  { Lanes.init with
    states := (List.range 13).map st
    positions := (List.range 12).map (fun p => if serve.isEmpty then none else serve[p % serve.length]?) }

/-- LANE_EVALUATION_DONE. -/
def execLaneEvaluationDone (lane : Nat) (agrees : Bool) (s : State) : Host.Outcome State Fault Refusal :=
  .next (laneDone lane agrees s)
/-- LANE_KNOWN_ANSWER_TEST. -/
def execLaneKnownAnswerTest (lane : Nat) (endToken : Word) (digest : Quad) (words : Nat) (s : State) :
    Host.Outcome State Fault Refusal := .next (knownAnswer lane endToken digest words s)

end Sys2Proof.Machine
end

