-- ==== Sys2Proof/Machine/Mailbox.lean ====
section
/-!
DEFINITION. The mailbox protocol (16_mailbox.md): the command table, the checks at the doorbell, the judgement of HOST_SEQ,
completion and its journal.
-/
namespace Sys2Proof.Machine

/-- A row of R342 and R343: opcode, whether PF1 may send it, the states C, P, D, H that execute it, mirrored scope, LEN, the
payload offset of its descriptor, whether it is ordered (R338). -/
structure CmdSpec where
  opcode : Nat
  both : Bool
  states : List GState
  mirrored : Bool
  len : Nat
  desc : Option Nat
  ordered : Bool
  deriving DecidableEq, Repr

/-- CONFIG, PROTECTING, DEGRADED; with HALTED; the last two of the first. -/
def cpd : List GState := [.config, .protecting, .degraded]
def cpdh : List GState := [.config, .protecting, .degraded, .halted]
def pdStates : List GState := [.protecting, .degraded]

/-- R342, R343, R338: the 30 commands. -/
def commandTable1 : List CmdSpec :=
  [⟨0x0101, true, cpdh, false, 0, none, false⟩, ⟨0x0102, true, cpdh, false, 16, some 0, false⟩,
    ⟨0x0201, false, cpd, true, 16, some 0, true⟩, ⟨0x0202, false, cpd, true, 56, none, true⟩,
    ⟨0x0203, false, pdStates, true, 4, none, true⟩, ⟨0x0204, false, [.config], true, 4, none, true⟩,
    ⟨0x0301, false, cpd, true, 16, some 0, true⟩, ⟨0x0302, false, pdStates, true, 8, none, true⟩,
    ⟨0x0303, false, pdStates, true, 12, none, true⟩, ⟨0x0304, false, pdStates, true, 8, none, true⟩,
    ⟨0x0305, false, pdStates, true, 4, none, true⟩, ⟨0x0401, true, cpdh, false, 32, some 16, false⟩,
    ⟨0x0402, true, cpdh, false, 32, some 16, false⟩, ⟨0x0403, false, cpd, true, 8, none, true⟩,
    ⟨0x0404, false, pdStates, true, 4, none, true⟩]
def commandTable2 : List CmdSpec :=
  [⟨0x0501, true, cpdh, false, 32, some 16, false⟩, ⟨0x0502, false, cpd, true, 16, some 0, true⟩,
    ⟨0x0601, false, cpd, false, 16, some 0, true⟩, ⟨0x0602, true, cpdh, false, 16, some 0, false⟩,
    ⟨0x0701, false, [.config], false, 8, none, true⟩, ⟨0x0702, false, pdStates, false, 0, none, true⟩,
    ⟨0x0801, false, cpd, false, 4, none, false⟩, ⟨0x0802, false, cpd, false, 4, none, false⟩,
    ⟨0x0803, true, cpdh, false, 16, some 0, false⟩, ⟨0x0901, false, cpd, false, 16, some 0, false⟩,
    ⟨0x0902, false, cpd, false, 52, none, true⟩, ⟨0x0A01, true, cpdh, false, 84, some 68, false⟩,
    ⟨0x0A02, false, [.config], false, 16, some 0, true⟩, ⟨0x0A03, false, [.config], false, 4, none, true⟩,
    ⟨0x0B01, true, cpdh, false, 32, some 16, false⟩]
def commandTable : List CmdSpec := commandTable1 ++ commandTable2

/-- The row of an opcode (R342), none where it is not listed. -/
def commandSpec (op : Half) : Option CmdSpec := commandTable.find? (fun c => c.opcode == op.toNat)

/-- The five commands that run with no mirror in service (R334, R336). -/
def mirrorless (op : Half) : Bool := [0x0101, 0x0602, 0x0803, 0x0501, 0x0B01].contains op.toNat

/-- FLAGS.PARTNER (R294). -/
def partnerFlag (flags : Half) : Bool := flags.toNat.testBit 0

/-- Second check of R334: the view and the token permit the opcode, PARTNER only on a paired engine's local command of PF0,
all other FLAGS bits 0. -/
def permitted (s : State) (v : View) (c : CmdSpec) (flags : Half) : Bool :=
  decide (flags.toNat < 2) &&
    (match v with
      | .pf0 => pf0Accepts s && (!partnerFlag flags || (paired s && !c.mirrored))
      | .pf1 => c.both && !partnerFlag flags)

/-- R335: what HOST_SEQ brings. -/
inductive SeqVerdict where
  | proceed
  | fail (status : Half)
  | replay (c : Completed)
  | pending (engineSeq : Quad)
  deriving DecidableEq, Repr

/-- R335 with N of the view. A number of the window that no command of the journal carries is SEQ_STALE. -/
def judgeSeq (x : ViewState) (op : Half) (h : Quad) : SeqVerdict :=
  let n := x.nextSeq.toNat
  if h.toNat = n then .proceed
  else if n < h.toNat then .fail 0x0102
  else if h.toNat + 64 < n then .fail 0x0106
  else
    match x.completed.find? (fun c => c.hostSeq == h), x.inflight.find? (fun e => e.hostSeq == h && e.engineSeq != 0) with
    | some c, _ => if c.opcode = op then .replay c else .fail 0x0105
    | none, some e => if e.opcode = op then .pending e.engineSeq else .fail 0x0105
    | none, none => .fail 0x0106

/-- The byte that names a view in trace messages (R396). -/
def viewByte : View → Nat
  | .pf0 => 0
  | .pf1 => 1

/-- Writes result and header into the slot and posts the ring entry (R340); a 0x02xx status sets SETTINGS_REJECTED
(R352). -/
def postCompletion (v : View) (slot : Nat) (hostSeq : Quad) (status cflags : Half) (engineSeq : Quad) (result : List Byte)
    (s : State) : State :=
  let x := s.view v
  let sl := slotOf x slot
  let old := slice sl.payload 0 224
  let x := { x with
    slots := FMap.set x.slots slot
      { sl with
        payload := result ++ old.drop result.length, status := status, cflags := cflags, engineSeq := engineSeq } }
  let s := s.setView v (postIn s.power.linkUp ⟨hostSeq, status, slot, 0, cflags, engineSeq.truncate 16⟩ x)
  let s := traceMsg 0x21
    (beBytes 1 (viewByte v) ++ beBytes 4 (hostSeq.truncate 32 : Word).toNat ++ beBytes 2 status.toNat ++
      beBytes 1 (cflags.toNat % 256) ++ traceTs s) s
  if status.toNat / 256 = 2 then sticky 0 6 s else s

/-- Two entries of the in-flight table are the same command. -/
def sameCommand (a b : Inflight) : Bool := a.slot == b.slot && a.hostSeq == b.hostSeq && a.remote == b.remote

/-- Changes the stage of a command in flight. -/
def setStage (v : View) (e : Inflight) (st : Stage) (s : State) : State :=
  let x := s.view v
  s.setView v { x with inflight := x.inflight.map (fun y => if sameCommand y e then { y with stage := st } else y) }

/-- A command moves data, writes storage or checks until its COMMAND_EXECUTION_END (R340). -/
def stageRuns : Stage → Bool
  | .running => true
  | .fetching _ => true
  | _ => false

/-- Removes a command from the in-flight table. -/
def dropInflight (v : View) (e : Inflight) (s : State) : State :=
  let x := s.view v
  s.setView v { x with inflight := x.inflight.filter (fun y => !sameCommand y e) }

/-- The journal keeps completions of the last 64 accepted commands (R337). -/
def journalDone (v : View) (c : Completed) (s : State) : State :=
  let x := s.view v
  s.setView v { x with
    completed := (c :: x.completed.filter (fun d => d.hostSeq != c.hostSeq)).filter
      (fun d => decide (x.nextSeq.toNat ≤ d.hostSeq.toNat + 64)) }

/-- The journal of a view holds a completion for this number. -/
def hasCompletion (s : State) (v : View) (h : Quad) : Bool := (s.view v).completed.any (fun d => d.hostSeq == h)

/-- Journals and posts a completion (R337, R340); a mirrored command of the token holder owns no slot here, and the token
holder's completion, where it came first, stands (R294). -/
def finish (v : View) (e : Inflight) (status cflags : Half) (result : List Byte) (s : State) : State :=
  let s := dropInflight v e s
  let s := if e.engineSeq = 0 ∨ (e.remote ∧ hasCompletion s v e.hostSeq) then s
    else journalDone v ⟨e.hostSeq, e.opcode, status, cflags, e.engineSeq, result⟩ s
  if e.remote then (if status.toNat / 256 = 2 then sticky 0 6 s else s)
  else postCompletion v e.slot e.hostSeq status cflags e.engineSeq result s

/-- CFLAGS of a completion (R341): RESUMED where INSTALL_FW was carried across a restart, DROPPED_USED_LATEST for SPOT_CONVERT
always. -/
def withResumed (e : Inflight) (cflags : Half) : Half :=
  let c := if e.opcode = 0x0802 then cflags ||| 4 else cflags
  if e.resumed && e.opcode == 0x0901 then c ||| 2 else c

/-- The journal begins no valid mark: PFAIL_N has been asserted for more than 0.5 ms (R360). -/
def marksEnded (s : State) : Bool := s.power.pfail && decide (s.power.pfailAt + usSteps 500 < s.tb.now)

/-- A command's outcome is decided: it waits for the mailbox (R354), or for the end of PFAIL_N (R360), or for the standby's
journal (R337), or is posted. -/
def complete (v : View) (e : Inflight) (status cflags : Half) (result : List Byte) (s : State) : State :=
  let cf := withResumed e cflags
  if (s.power.online = false ∨ marksEnded s) ∧ e.remote = false then setStage v e (.decided status cf result) s
  else if v = .pf0 ∧ paired s ∧ s.pair.token ∧ e.remote = false ∧ e.engineSeq ≠ 0 ∧ partnerFlag e.flags = false then
    setStage v e (.completing status cf result) s
  else finish v e status cf result s

/-- The command of a view that matches. -/
def findInflight (s : State) (v : View) (p : Inflight → Bool) : Option Inflight := (s.view v).inflight.find? p

/-- The command in a slot of the view. -/
def inSlot (s : State) (v : View) (slot : Nat) : Option Inflight :=
  findInflight s v (fun e => e.slot == slot && !e.remote)

/-- Completes at once at the doorbell: nothing journaled, no number used (R334). -/
def rejectNow (v : View) (slot : Nat) (h : Quad) (status : Half) (s : State) : State :=
  postCompletion v slot h status 0 0 [] s

/-- A stored completion is posted again (R335). -/
def replayNow (v : View) (slot : Nat) (c : Completed) (s : State) : State :=
  sticky 2 9 (count 184 1 (postCompletion v slot c.hostSeq c.status (c.cflags ||| 1) c.engineSeq c.result s))

/-- An in-flight duplicate (R335). -/
def acceptedNow (v : View) (slot : Nat) (h engineSeq : Quad) (s : State) : State :=
  sticky 2 9 (count 184 1 (postCompletion v slot h 0x0001 1 engineSeq [] s))

/-- A command is being journaled or waits for the standby: no other is taken meanwhile. -/
def journalBusy (s : State) : Bool :=
  (s.pf0.inflight ++ s.pf1.inflight).any (fun e => !e.remote && (e.stage == .journaling || e.stage == .awaitPartner))

/-- The mailbox takes doorbells (R323, R354, R360, R368). -/
def takesBells (s : State) : Bool :=
  s.power.online && !s.power.pfail && s.glb.gstate != .boot && s.glb.gstate != .test

/-- What the checks of R334 make of a slot: a verdict, or the entry that goes on to journaling or, journal-less, to
execution. -/
inductive BellVerdict where
  | reject (status : Half)
  | replay (c : Completed)
  | accepted (engineSeq : Quad)
  | journal (e : Inflight)
  | plain (e : Inflight)
  deriving DecidableEq, Repr

/-- The checks of R334 in their order. -/
def bellChecks (s : State) (v : View) (slot : Nat) : BellVerdict :=
  let sl := slotOf (s.view v) slot
  match commandSpec sl.opcode with
  | none => .reject 0x0100
  | some c =>
    if permitted s v c sl.flags = false then .reject 0x0103
    else if sl.len.toNat ≠ c.len then .reject 0x0101
    else
      let e : Inflight := ⟨slot, sl.opcode, sl.flags, sl.hostSeq, slice sl.payload 0 c.len, 0, .journaling, false, false⟩
      if anyMirror s = false then (if mirrorless sl.opcode then .plain e else .reject 0x0107)
      else
        match judgeSeq (s.view v) sl.opcode sl.hostSeq with
        | .proceed => .journal e
        | .fail st => .reject st
        | .replay c => .replay c
        | .pending q => .accepted q

/-- A command joins the in-flight table. -/
def addInflight (v : View) (e : Inflight) (s : State) : State :=
  let x := s.view v
  s.setView v { x with inflight := x.inflight ++ [e] }

/-- The host writes a slot and the buffer of its descriptor, then the doorbell (R333, R339). A slot that the engine owns
keeps its content and the doorbell is ignored. bufAt: payload offset of the descriptor. -/
def writeSlot (c : Submit) (opcode : Half) (bufAt : Option Nat) (s : State) : State :=
  let s := match bufAt with
    | some o => { s with hostMem := memWrite s.hostMem (leAt c.payload o 8) c.buffer }
    | none => s
  if barOpen s c.view = false ∨ slotCount c.view ≤ c.slot ∨ engineOwns s c.view c.slot then s
  else
    let x := s.view c.view
    let old := slotOf x c.slot
    let payload := c.payload.take 224 ++ (slice old.payload 0 224).drop (c.payload.take 224).length
    let sl := { old with opcode := opcode, flags := c.flags, hostSeq := c.hostSeq, len := c.len, payload := payload }
    let s := s.setView c.view { x with slots := FMap.set x.slots c.slot sl }
    { s with bells := s.bells ++ [⟨c.view, c.slot, !s.power.online⟩] }

end Sys2Proof.Machine
end

