-- ==== Sys2Proof/Machine/Thresher.lean ====
section
/-!
DEFINITION. Thresher (10_trigger_acquisition.md): conditions, masks, sequencers, fires, records, cross-triggers, events.
-/
namespace Sys2Proof.Machine

def trigOf (s : State) (p : Nat) : Trig := FMap.get s.thr.trigs Trig.init p
def setTrig (p : Nat) (x : Trig) (s : State) : State := { s with thr := { s.thr with trigs := FMap.set s.thr.trigs p x } }

/-- Fields of a condition (R229). -/
def cdOperand (c : Word) : Nat := field c 16 0
def cdType (c : Word) : Nat := field c 20 17
def cdNeg (c : Word) : Bool := bit c 21
def cdEdge (c : Word) : Nat := field c 23 22
def cdSel (c : Word) : Bool := bit c 24
def cdAux (c : Word) : Nat := field c 31 25

/-- Fields of an action word (R229). -/
def acNext (a : Word) : Nat := field a 3 1
def acToState (a : Word) : Nat := field a 17 15

/-- Validity of a boolean point at sub-sample m (R226): points 0 to 191 by the faults at m. -/
def digitalValid (s : State) (n m : Nat) : Bool :=
  let fault (p : Nat) : Bool :=
    prEnabled (pairWord s.cfg.package p) && biAt s (256 + p) m (biPairOf s p).fault
  if n < 128 then !fault (n / 2)
  else if n < 192 then
    prEnabled (pairWord s.cfg.package (n - 128)) && biAt s (384 + (n - 128)) m (biPairOf s (n - 128)).agreed &&
      !fault (n - 128)
  else !qIsInvalid (boolPoint s n).q

/-- The present value of a boolean point at sub-sample m while its sheaf is processed (R226). -/
def digitalNow (s : State) (n m : Nat) : Bool := if n < 192 then digitalAt s n m else truth (boolPoint s n).value

/-- The value before it for edge detection (R226): at m − 1, or as committed one sheaf earlier at position 0 only. -/
def digitalBefore (s : State) (n m : Nat) : Bool :=
  if n < 192 then digitalAt s n (m - 1)
  else if m % 3 = 0 then FMap.get s.thr.last (digitalNow s n m) n
  else digitalNow s n m

/-- An analogue sample with validity other than invalid that the ring still holds; none otherwise. -/
def analogueAt (s : State) (k m : Nat) : Option Int :=
  if m < s.thr.ringFrom then none
  else match sampleAt s k m with
    | some x => if qIsInvalid (x.quality.truncate 16) then none else some x.value
    | none => none

/-- A slot is evaluated at m: a 4,800/s channel at position 0 only (R226). -/
def slotDue (s : State) (k m : Nat) : Bool := m % 3 == 0 || !slotSlow s.cfg.package k

/-- The cross-triggers applied at m: those due in this sheaf, at position 0 (R240). -/
def crossAt (s : State) (m : Nat) : List CrossMsg :=
  if m % 3 = 0 then s.thr.cross.filter (fun c => decide (c.sheaf ≤ m / 3)) else []

/-- The message an XTRIG condition sees (R230): the first that its source filter lets pass. -/
def crossMatch (s : State) (c : Word) (m : Nat) : Option CrossMsg :=
  (crossAt s m).find? (fun x => cdSel c || x.src == cdAux c)

/-- NV, EN and ACTION of mask i (R233). -/
def mkEnabled (ws : List Word) (i : Nat) : Bool := bit (tgMask ws i 0) 11
def mkSlot (ws : List Word) (i : Nat) : Nat := field (tgMask ws i 0) 10 0
def mkNv (ws : List Word) (i : Nat) : Nat := field (tgMask ws i 0) 27 24
def mkAction (ws : List Word) (i : Nat) : Nat := field (tgMask ws i 0) 15 14
def mkStates (ws : List Word) (i : Nat) : Nat := field (tgMask ws i 0) 23 16

/-- The run of mask i after sub-sample m (R233). -/
def maskRun (s : State) (ws : List Word) (i m run : Nat) : Nat :=
  let k := mkSlot ws i
  if mkEnabled ws i = false then 0
  else if slotDue s k m = false then run
  else
    let ref := bit (tgMask ws i 0) 12
    let sense := bit (tgMask ws i 0) 13
    let w := if tg60 ws then 240 else 288
    match analogueAt s k m with
    | none => 0
    | some x =>
      let inside : Option Bool :=
        if ref then (if m < w then none else analogueAt s k (m - w)).map (fun y =>
          decide ((x - y).natAbs ≤ (tgMask ws i 1).toNat))
        else some (decide (wInt (tgMask ws i 2) ≤ x) && decide (x ≤ wInt (tgMask ws i 1)))
      match inside with
      | none => 0
      | some b => if b == sense then min 15 (run + 1) else 0

/-- Mask i is in violation at m with that run. -/
def inViolation (s : State) (ws : List Word) (i m run : Nat) : Bool :=
  mkEnabled ws i && slotDue s (mkSlot ws i) m && decide (mkNv ws i ≤ run) && decide (0 < run)

/-- Masks of a program in violation at m. -/
def violations (s : State) (ws : List Word) (t : Trig) (m : Nat) : List Nat :=
  (List.range 8).filter (fun i => inViolation s ws i m ((t.masks[i]?).getD 0))

/-- Timer n of a program has expired (R231). -/
def timerExpired (ws : List Word) (t : Trig) (n : Nat) : Bool :=
  match (if n = 0 then t.tm0 else t.tm1) with
  | some c => decide (field (wAt ws (3 + n)) 23 0 ≤ c)
  | none => false

/-- A condition at sub-sample m (R230); none for an unused one. -/
def condition (s : State) (ws : List Word) (t : Trig) (m : Nat) (c0 c1 : Word) : Option Bool :=
  let n := cdOperand c0
  let out (b : Bool) : Option Bool := some (b != cdNeg c0)
  let level (f : Int → Option Bool) : Option Bool :=
    if slotDue s n m = false then some false
    else match (analogueAt s n m).bind f with
      | some b => out b
      | none => some false
  match cdType c0 with
  | 0 => none
  | 1 => if digitalValid s n m then out (digitalNow s n m) else some false
  | 2 =>
    if digitalValid s n m then
      let now := digitalNow s n m
      let old := digitalBefore s n m
      out (match cdEdge c0 with
        | 0 => now && !old
        | 1 => !now && old
        | _ => now != old)
    else some false
  | 3 => level (fun x => some (decide (wInt c1 ≤ x)))
  | 4 => level (fun x => some (decide (x ≤ wInt c1)))
  | 5 => level (fun x => some (decide (c1.toNat ≤ x.natAbs)))
  | 6 => level (fun x => if m < cdAux c0 then none else (analogueAt s n (m - cdAux c0)).map (fun y =>
      decide (c1.toNat ≤ (x - y).natAbs)))
  | 7 =>
    let p := wordPoint s n
    if qIsInvalid p.q then some false else out (F32.le c1 p.value)
  | 8 => out (decide (c1.toNat ≤ (if cdSel c0 then t.k1 else t.k0)))
  | 9 => out (timerExpired ws t (if cdSel c0 then 1 else 0))
  | 10 => out (!(violations s ws t m).isEmpty)
  | 11 => out (crossMatch s c0 m).isSome
  | _ => some false

/-- The conditions of a state at m: whether they hold (COMBINE), and the cross-trigger among those satisfied. -/
def stateHolds (s : State) (ws : List Word) (t : Trig) (m : Nat) : Bool × Option CrossMsg :=
  let res := (List.range 4).map (fun i =>
    (tgCond ws t.state i 0, condition s ws t m (tgCond ws t.state i 0) (tgCond ws t.state i 1)))
  let used := res.filterMap (fun r => r.2)
  let any := bit (tgAction ws t.state) 0
  let holds := if any then used.any id else used.all id
  (holds, res.findSome? (fun r => if cdType r.1 = 11 ∧ r.2 = some true then crossMatch s r.1 m else none))

/-- The timers after the action word of the state left (R229): START wins over STOP. -/
def timerOps (a : Word) (t : Trig) : Trig :=
  { t with
    tm0 := if bit a 9 then some 0 else if bit a 10 then none else t.tm0
    tm1 := if bit a 11 then some 0 else if bit a 12 then none else t.tm1 }

/-- The counters after the action word (R229, R231). -/
def counterOps (a : Word) (t : Trig) : Trig :=
  let inc (b : Bool) (k : Nat) : Nat := if b then min 4294967295 (k + 1) else k
  { t with
    k0 := if bit a 6 then 0 else inc (bit a 5) t.k0
    k1 := if bit a 8 then 0 else inc (bit a 7) t.k1 }

/-- Running timers advance at the end of a sub-sample, up to their preset (R231). -/
def advanceTimers (ws : List Word) (t : Trig) : Trig :=
  let step (n : Nat) (o : Option Nat) : Option Nat := o.map (fun c => min (c + 1) (field (wAt ws (3 + n)) 23 0))
  { t with tm0 := step 0 t.tm0, tm1 := step 1 t.tm1 }

/-- A program under STOP restarts in state 0 (R232). -/
def stopTrig (t : Trig) : Trig := { t with state := 0, k0 := 0, k1 := 0, tm0 := none, tm1 := none }

/-- One program at sub-sample m (R232). -/
def stepProgram (p : Nat) (ws : List Word) (m : Nat) (s : State) : State :=
  let t := trigOf s p
  let t := { t with masks := (List.range 8).map (fun i => maskRun s ws i m ((t.masks[i]?).getD 0)), stepped := some m }
  let stop := (violations s ws t m).any (fun i => mkAction ws i == 1 && (mkStates ws i).testBit t.state)
  if stop then setTrig p (advanceTimers ws (stopTrig t)) (count 177 1 s)
  else
    let a := tgAction ws t.state
    let h := stateHolds s ws t m
    if h.1 then
      let s := if bit a 4 then
          let f : Fire := match h.2 with
            | some c => ⟨p, c.m, true, false⟩
            | none => ⟨p, m, false, false⟩
          { s with thr := { s.thr with fires := s.thr.fires ++ [f] } }
        else s
      setTrig p (advanceTimers ws (timerOps a { counterOps a t with state := acNext a })) s
    else if bit a 13 && timerExpired ws t (if bit a 14 then 1 else 0) then
      setTrig p (advanceTimers ws { t with state := acToState a }) s
    else setTrig p (advanceTimers ws t) s

/-- A record is open at m (R238). -/
def openAt (m : Nat) (r : Rec) : Bool := !r.done && decide (m ≤ r.last)

/-- CLOSE masks at m act on every open record of their program (R232, R233). -/
def closeByMasks (progs : List (Nat × List Word)) (m : Nat) (s : State) : State :=
  let closing := progs.filter (fun p =>
    (violations s p.2 (trigOf s p.1) m).any (fun i => mkAction p.2 i == 2))
  let hit (r : Rec) : Bool := openAt m r && decide (r.triggerM ≤ m) && closing.any (fun p => r.cause.testBit p.1)
  { s with granary := { s.granary with
    opened := s.granary.opened.map (fun r =>
      if hit r then { r with last := m, flags := setBit r.flags 3, done := true } else r) } }

/-- Outcome of a fire for MANUAL_TRIGGER (R344): 0 opened, 1 extended, 2 ignored, 3 refused. -/
abbrev FireResult := Nat

/-- A fire of a busy program under EXTEND (R236): the last sub-sample moves, to an earlier one too where n_post of the firing
program has it so; a record at its cap changes its count only. -/
def extendRecord (r : Rec) (post mr : Nat) (s : State) : State :=
  let limit := r.first + r.cap - 1
  let want := mr + post - 1
  let new := min want limit
  let r1 := { r with retrig := r.retrig + 1 }
  let r2 := if r.last = limit ∨ r.last = new then r1
    else { r1 with last := new, flags := if limit < want then setBit r1.flags 2 else r1.flags }
  let moved (x : Rec) : Rec := if x.last = r.last then x else { x with flags := setBit x.flags 1 }
  let put (x : Rec) (s : State) : State :=
    { s with granary := { s.granary with
      opened := s.granary.opened.map (fun y => if y.openNo = x.openNo then x else y) } }
  if r2.last ≤ r.last then put (moved r2) s
  else
    let g := reserve r2 s
    match g.1 with
    | some x => put (moved { x with last := max x.last r.last }) g.2
    | none => put r1 s

/-- The channels of a group of programs (R237): repeated entries once, 256 at most; whether some were dropped. -/
def groupChannels (wss : List (List Word)) : List Word × Bool :=
  let all := (wss.flatMap tgChannels).eraseDups
  (all.take 256, decide (256 < all.length))

/-- The largest pre-trigger length of the enabled programs (R235). -/
def ringDepth (p : Option Package) : Nat := (tgEntries p).foldl (fun a e => max a (tgPre e.2)) 0

/-- The oldest sub-sample that the ring holds of a record's channels while sheaf k is processed (R235, R243). -/
def ringOldest (k : Nat) (chans : List Word) (s : State) : Nat :=
  let starts := chans.map (fun w => FMap.get s.thr.added 0 w.toNat)
  let own := (starts.tail).foldl min ((starts.head?).getD 0)
  max (max s.thr.heldFrom own) (3 * k - ringDepth s.cfg.package)

/-- Digests of the package and of the program in force, 0 for none (R344, R251). -/
def packageDigest (s : State) : BitVec 384 := (s.cfg.package.map (fun p => p.digest)).getD 0
def programDigest (s : State) : BitVec 384 := (s.logic.program.map (fun p => p.digest)).getD 0

/-- The facts of sheaf k, whose commit is under way (R251): noted where they differ from those of the sheaf before. -/
def noteFacts (k : Nat) (s : State) : State :=
  let now := (s.tb.state.code, packageDigest s, programDigest s)
  if s.thr.facts.head?.map (fun x => x.2) = some now then s
  else { s with thr := { s.thr with facts := (k, now) :: s.thr.facts } }

/-- TB_STATE and the digests of the sheaf that holds sub-sample mt (R251); a sheaf before any noted counts as the oldest. -/
def factsAt (s : State) (mt : Nat) : Nat × BitVec 384 × BitVec 384 :=
  match s.thr.facts.find? (fun x => decide (x.1 ≤ mt / 3)), s.thr.facts.getLast? with
  | some x, _ => x.2
  | none, some x => x.2
  | none, none => (s.tb.state.code, packageDigest s, programDigest s)

/-- The largest of a list of lengths. -/
def maxOf (l : List Nat) : Nat := l.foldl max 0

/-- A group of fires with trigger instant mt, resolved at m of sheaf k, opens a record (R237, R238, R235). -/
def openGroup (k m mt : Nat) (fires : List Fire) (s : State) : State :=
  let p := s.cfg.package
  let progs := (List.range 8).filter (fun n => fires.any (fun f => f.program == n))
  let wss := progs.map (tgWords p)
  let cause : Nat := (progs.foldl (fun a n => a + 2 ^ n) 0) + (if fires.any (fun f => f.manual) then 256 else 0) +
    (if fires.any (fun f => f.cross) then 512 else 0)
  let prim := (progs.head?).getD 0
  let pw := tgWords p prim
  if 24 ≤ (s.granary.opened.filter (openAt m)).length then
    count 178 1 (tally 0x0901 [item cause, item mt] s)
  else
    let pre := maxOf (wss.map tgPre)
    let ch := groupChannels wss
    let oldest := ringOldest k ch.1 s
    let want := mt - pre
    let first := max want oldest
    let flags : Word := bitWord 0 (decide (mt < pre + oldest)) ||| bitWord 4 ch.2
    let codec := tgCodec pw + 2 * tgBoundE pw
    let facts := factsAt s mt
    let r : Rec := ⟨s.granary.nextOpen, cause, prim, mt, first, mt + maxOf (wss.map tgPost) - 1, maxOf (wss.map tgCap), 0,
      flags, ch.1, ch.1.map (channelEntry p codec), codec, if tg60 pw then 1 else 0, [], facts.1, facts.2.1, facts.2.2,
      0, 0, false, []⟩
    let limit := first + r.cap - 1
    let r := { r with
      last := min r.last limit, flags := if limit < r.last then setBit r.flags 2 else r.flags }
    let g := reserve r s
    match g.1 with
    | none => g.2
    | some x =>
      let gr := g.2.granary
      { g.2 with granary := { gr with opened := gr.opened ++ [x], nextOpen := gr.nextOpen + 1 } }

/-- The newest open record of a program at m (R236). -/
def busyRecord (s : State) (p m : Nat) : Option Rec :=
  (s.granary.opened.filter (fun r => openAt m r && r.cause.testBit p)).getLast?

/-- The cross-triggers a fire sends, each with the source engine ID (R240). -/
def sendCross (f : Fire) (s : State) : State :=
  if f.cross then s
  else
    let ports := (List.range 4).filter (fun n => (tgXtOut (tgWords s.cfg.package f.program)).testBit n)
    { s with thr := { s.thr with crossSent := ports.map (fun n => (n, engineId s, f.program, f.m)) ++ s.thr.crossSent } }

/-- Resolves the fires at sub-sample m (R236 to R240); the results of the manual ones by program (R241). -/
def resolveFires (k m : Nat) (s : State) : List (Nat × FireResult) × State :=
  let fires := s.thr.fires
  let s := fires.foldl (fun s f => sendCross f s) { s with thr := { s.thr with fires := [] } }
  let start : List Fire × List (Fire × FireResult) × State := ([], [], s)
  let a := fires.foldl (fun (a : List Fire × List (Fire × FireResult) × State) f =>
    let s := a.2.2
    let ws := tgWords s.cfg.package f.program
    match busyRecord s f.program m with
    | none => (a.1 ++ [f], a.2.1, s)
    | some r =>
      match tgRetrig ws with
      | 0 => (a.1, (f, 1) :: a.2.1, extendRecord r (tgPost ws) f.m s)
      | 1 => (a.1 ++ [f], a.2.1, s)
      | _ => (a.1, (f, 2) :: a.2.1, count 176 1 s)) start
  let instants := (a.1.map (fun f => f.m)).eraseDups
  let b := instants.foldl (fun (b : List (Fire × FireResult) × State) t =>
    let g := a.1.filter (fun f => f.m == t)
    let before := b.2.granary.nextOpen
    let s := openGroup k m t g b.2
    let res := if before < s.granary.nextOpen then 0 else 3
    (g.map (fun f => (f, res)) ++ b.1, s)) (a.2.1, a.2.2)
  ((b.1.filter (fun x => x.1.manual)).map (fun x => (x.1.program, x.2)), b.2)

/-- A failed Thresher runs no program (R313). -/
def thresherWorks (s : State) : Bool := !s.power.failedBlocks.contains 4

/-- One sub-sample (R232): the programs in order, the closes, then the fires. -/
def stepSample (k m : Nat) (s : State) : List (Nat × FireResult) × State :=
  let progs := if thresherWorks s then tgEntries s.cfg.package else []
  let s := progs.foldl (fun s p => stepProgram p.1 p.2 m s) s
  resolveFires k m (closeByMasks progs m s)

/-- Points above 191 that conditions watch or records keep (R226, R228). -/
def watchedPoints (p : Option Package) : List Nat :=
  ((tgEntries p).flatMap (fun e =>
    let recs := (tgChannels e.2).filterMap (fun w => if chDigital w && decide (191 < chIndex w) then some (chIndex w) else none)
    let conds := (List.range 32).filterMap (fun i =>
      let c := tgCond e.2 (i / 4) (i % 4) 0
      if (cdType c == 1 || cdType c == 2) && decide (191 < cdOperand c) then some (cdOperand c) else none)
    recs ++ conds)).eraseDups

/-- Notes the committed values of the watched points of sheaf k (R226, R228). -/
def notePoints (k : Nat) (s : State) : State :=
  (watchedPoints s.cfg.package).foldl (fun s n =>
    let v := truth (boolPoint s n).value
    let was := FMap.get? s.thr.last n
    let s := { s with thr := { s.thr with last := FMap.set s.thr.last n v } }
    if was = some v ∨ was = none then s
    else { s with thr := { s.thr with points := (3 * k, n, v) :: s.thr.points } }) s

/-- Thresher processes sheaf k after its commit (R225, R232, R239, R241). manual: the programs fired by MANUAL_TRIGGER at
position 0; their results are answered. -/
def thresherSheaf (k : Nat) (manual : List Nat) (s : State) : List (Nat × FireResult) × State :=
  let m0 := 3 * k
  let fires := if thresherWorks s then manual.map (fun p => (⟨p, m0, false, true⟩ : Fire)) else []
  let s := noteFacts k { s with thr := { s.thr with fires := fires } }
  let a := stepSample k m0 s
  let b := stepSample k (m0 + 1) a.2
  let c := stepSample k (m0 + 2) b.2
  let s := notePoints k c.2
  let s := { s with thr := { s.thr with
    cross := s.thr.cross.filter (fun x => decide (k < x.sheaf))
    points := s.thr.points.filter (fun e => decide (m0 ≤ e.1 + histDepth)) } }
  let s := { s with granary := { s.granary with
    opened := s.granary.opened.map (codeSegments s (m0 + 2) 2) } }
  (a.1, closeRecords (fun r => r.done || decide (r.last ≤ m0 + 2)) s)

/-- A cross-trigger arrives (R240). -/
def crossIn (port src program m : Nat) (s : State) : State :=
  if FMap.get s.dovetail false port = false then s
  else
    let due := m / 3 + 1
    let late := s.glb.running && decide (due < s.glb.cur)
    let s := if late then count 179 1 s else s
    { s with thr := { s.thr with cross := s.thr.cross ++ [⟨src, program, m, if late then s.glb.cur else due⟩] } }

/-- The values of the points that a package watches, as committed now: those that its first sheaf compares with (R226). -/
def watchedNow (p : Option Package) (s : State) : FMap Bool :=
  (watchedPoints p).map (fun n => (n, truth (boolPoint s n).value))

/-- A package takes effect from sheaf j (R243): programs that changed or were disabled restart and their records close;
channels that no enabled program named before start empty, and the ring holds of the others what it had room for (R235).
seen: the watched points as committed. -/
def thresherPackage (old : Option Package) (seen : FMap Bool) (j : Nat) (s : State) : State :=
  let new := s.cfg.package
  let changed := (List.range 8).filter (fun p => tgWords old p != tgWords new p)
  let s := closeEarly (fun r => changed.any (fun p => r.cause.testBit p)) (3 * j - 1) 5 s
  let chans (p : Option Package) : List Word := ((tgEntries p).flatMap (fun e => tgChannels e.2)).eraseDups
  let had := chans old
  let fresh := (chans new).filter (fun w => !had.contains w)
  let both := (watchedPoints new).filter (fun n => (watchedPoints old).contains n)
  { s with thr := { s.thr with
    trigs := s.thr.trigs.filter (fun p => !changed.contains p.1)
    last := seen
    points := s.thr.points.filter (fun e => both.contains e.2.1)
    heldFrom := max s.thr.heldFrom (3 * j - ringDepth old)
    added := fresh.foldl (fun a w => FMap.set a w.toNat (3 * j)) s.thr.added } }

/-- A timebase step or a restart (R243): sequencers restart, open records close at m with a flag, the ring empties and
starts at sub-sample from. -/
def thresherRestart (m flag from' : Nat) (s : State) : State :=
  let s := closeEarly (fun _ => true) m flag s
  { s with thr := { s.thr with
    trigs := [], fires := [], cross := [], ringFrom := from', heldFrom := from', added := [], points := [], last := []
    facts := [] } }

/-- A timer that has reached its preset stays expired (R231). -/
def presetReached (p timer : Nat) (s : State) : State :=
  let ws := tgWords s.cfg.package p
  let t := trigOf s p
  if tgEnabled ws ∧ timerExpired ws t timer = true then
    let cap := some (field (wAt ws (3 + timer)) 23 0)
    setTrig p (if timer = 0 then { t with tm0 := cap } else { t with tm1 := cap }) s
  else s

/-- A mask whose run has reached NV stops its program or closes the open records of it (R232, R233), unless Thresher has stepped
the program at m: a program changes state at most once there, and closes come before fires (log 98). -/
def maskAct (p i m : Nat) (s : State) : State :=
  let ws := tgWords s.cfg.package p
  let t := trigOf s p
  if ¬ (tgEnabled ws ∧ inViolation s ws i m ((t.masks[i]?).getD 0) = true ∧ m = 3 * s.glb.sheaf + 2 ∧ t.stepped ≠ some m) then s
  else if mkAction ws i = 1 ∧ (mkStates ws i).testBit t.state = true ∧ stopTrig t ≠ t then
    setTrig p (stopTrig t) (count 177 1 s)
  else if mkAction ws i = 2 then
    closeRecords (fun r => r.done) (closeByMasks [(p, ws)] m s)
  else s

/-- THRESHER_TIMER_EXPIRY. -/
def execThresherTimerExpiry (program timer : Nat) (s : State) : Host.Outcome State Fault Refusal :=
  .next (presetReached program timer s)
/-- MASK_VIOLATION. -/
def execMaskViolation (program mask m : Nat) (s : State) : Host.Outcome State Fault Refusal :=
  .next (maskAct program mask m s)
/-- CROSS_TRIGGER_RX. -/
def execCrossTriggerRx (port srcEngine program m : Nat) (s : State) : Host.Outcome State Fault Refusal :=
  .next (crossIn port srcEngine program m s)

end Sys2Proof.Machine
end

