-- ==== Sys2Proof/Machine/Staging.lean ====
section
/-!
DEFINITION. What STAGE_SETTINGS, LOAD_PROGRAM and COMMIT_AT_SHEAF check: every descriptor rule of a setting package, its
signature block, its classes, the program image, the union of two packages (R17, R20, R29, R60, R79, R190, R192, R203, R242,
R290, R347, R390).
-/
namespace Sys2Proof.Machine

/-- The default L_pipe of R2: 1,200 µs with a process-bus input, else 240 µs. R2 does not say what counts as one: an enabled SV
entry or GOOSE subscription does, a line-differential path or a Dovetail subscription does not (DESIGN CHOICE, log 95). -/
def defaultLpipe (p : Option Package) : Nat := if (svEntries p).isEmpty && (gsEntries p).isEmpty then 240 else 1200

/-- L_pipe under a package (R17, R348 E0): its own field, the value of SET_LPIPE, the default. -/
def lpipeUnder (s : State) (p : Option Package) : Nat :=
  let e := field (wAt (engineWords p) 0) 11 0
  if e ≠ 0 then e else if s.glb.lpipeSet ≠ 0 then s.glb.lpipeSet else defaultLpipe p

/-- The L_pipe by which boundaries run: that of the package in force, or what SET_LPIPE or R2 gives before one. -/
def runningLpipe (s : State) : Nat := if s.glb.lpipe ≠ 0 then s.glb.lpipe else lpipeUnder s none

/-- The start word E1 of a package (R366). -/
def startWord (p : Option Package) : Word := wAt (recOr p secEngine 0 [0, 0x02580000#32, 0, 0, 0]) 1
def swHold (p : Option Package) : Bool := bit (startWord p) 0
def swWait (p : Option Package) : Bool := bit (startWord p) 1
def swSeconds (p : Option Package) : Nat := field (startWord p) 27 16

/-- Faults of one record's words as places of the package. -/
def at1 (type index : Nat) (o : Option Nat) : List FieldFault := (o.map (fun w => (type, index, w))).toList

/-- Faults of every record of a type. -/
def eachRec (p : Package) (type : Nat) (f : Nat → List Word → Option Nat) : List FieldFault :=
  (indicesOf (some p) type).flatMap (fun i => at1 type i (f i (recOr (some p) type i [])))

/-- The pre-trigger ring's bytes (R235): every channel of an enabled program once, over the largest n_pre plus 3. -/
def ringBytesOf (p : Option Package) : Nat :=
  let chs := ((tgEntries p).flatMap (fun e => tgChannels e.2)).eraseDups
  let ana := (chs.filter (fun w => !chDigital w)).length
  let dig := (chs.filter chDigital).length
  if (tgEntries p).isEmpty then 0 else (8 * ana * (ringDepth p + 3)) + ceilDiv (dig * (ringDepth p + 3)) 8

/-- The engine section (R348 E0, R245, R244, R366): L_pipe's range, and R17 where the engine is not in CONFIG. -/
def engineFault (s : State) (p : Package) : List FieldFault :=
  let q := some p
  let ws := engineWords q
  let e := field (wAt ws 0) 11 0
  let g := gnRegionMib q
  let shares := ((List.range 8).map (gnShare q)).foldl (· + ·) 0
  let run := (tgEntries q).map (fun x => x.1)
  let fits := decide (268435456 + ringBytesOf q + g * 1048576 ≤ s.granary.ddrBytes)
  at1 secEngine 0 (firstBad
    [(0, (e == 0 || within e 240 3200) && (!protecting s || lpipeUnder s q == runningLpipe s)),
      (2, (if g = 0 then run.isEmpty else within g 64 4096) && fits),
      (3, [0, 1, 2, 3].all (fun n => decide (gnShare q n ≤ 64) && (!run.contains n || gnShare q n != 0)) &&
        decide (shares ≤ 64)),
      (4, [4, 5, 6, 7].all (fun n => decide (gnShare q n ≤ 64) && (!run.contains n || gnShare q n != 0)))])

/-- Ports (R59, R60): PTP_EN on at most 4; in PROTECTING or DEGRADED MODE, ROLE and PRP stay as they are. -/
def portFaults (s : State) (p : Package) : List FieldFault :=
  eachRec p secPort (portFault (some p)) ++
    ((ptpPorts (some p)).drop 4).map (fun n => (secPort, n, 0)) ++
    (if protecting s then
      ((List.range 32).filter (fun n => !portFixedEq (portWords s.cfg.package n) (portWords (some p) n))).map
        (fun n => (secPort, n, 0))
    else [])

/-- L_pipe that a stream needs (R20), 20 µs more where Dovetail publishes a slot it feeds (R137). -/
def streamLpipe (p : Option Package) (ws : List Word) : Nat :=
  let sent := (dpEntries p).any (fun e => (svMapped ws).any (fun m => m.2.1 == dpSlot e.2))
  let more : Int := (svDmax ws : Nat) * 1000 + svOffsetNs ws + 200000
  if sent then max (svMinLpipe ws) (-((-more) / 1000)).toNat else svMinLpipe ws

/-- Slots that SV entries map, with the entry and the map word, then those that Dovetail subscriptions name. -/
def slotsOf (sv ds : List (Nat × List Word)) : List (Nat × FieldFault) :=
  sv.flatMap (fun e => (svMapped e.2).map (fun m => (m.2.1, (secSv, e.1, 23 + m.1)))) ++
    ds.map (fun e => (dsLocal e.2, (secDvtSub, e.1, 1)))

/-- Those of the entries in use. -/
def mappedSlots (p : Option Package) : List (Nat × FieldFault) := slotsOf (svEntries p) (dsEntries p)

/-- Those of every entry, in use or not: R65 limits only the rule on equal keys to enabled entries (log 39). -/
def claimedSlots (p : Option Package) : List (Nat × FieldFault) :=
  slotsOf ((indicesOf p secSv).map (fun i => (i, recOr p secSv i [])))
    ((indicesOf p secDvtSub).map (fun i => (i, recOr p secDvtSub i [])))

/-- Slots mapped twice (R65, R137): the later place is at fault. -/
def sharedSlots (l : List (Nat × FieldFault)) : List FieldFault :=
  (l.zipIdx).filterMap (fun x => if (l.take x.2).any (fun y => y.1 == x.1.1) then some x.1.2 else none)

/-- Entries whose matching key an earlier entry has (R65, R349). -/
def repeatedKeys (type : Nat) (same : List Word → List Word → Bool) (l : List (Nat × List Word)) : List FieldFault :=
  (l.zipIdx).filterMap (fun x => if (l.take x.2).any (fun y => same y.2 x.1.2) then some (type, x.1.1, 0) else none)

/-- Sampled-value and Dovetail entries (R20, R65, R137, R351). -/
def streamFaults (s : State) (p : Package) : List FieldFault :=
  let q := some p
  eachRec p secSv (fun _ ws => svFault ws) ++ sharedSlots (claimedSlots q) ++ repeatedKeys secSv (svSameKey q) (svEntries q) ++
    ((svEntries q).filter (fun e => decide (lpipeUnder s q < streamLpipe q e.2))).map (fun e => (secSv, e.1, 5)) ++
    eachRec p secDvtSub (fun _ ws => firstBad [(1, decide (64 ≤ dsLocal ws))])

/-- Occupancy of port n's timed-launch queue at worst (R108): one entry for each GOOSE control block sent there, two for each
line-differential path. -/
def queueLoad (p : Option Package) (n : Nat) : Nat :=
  ((gpEntries p).filter (fun e => samePort p (gpPort e.2) n)).length +
    2 * ((ldEntries p).flatMap (fun e => [0, 1].filter (fun i => ldUse e.2 i && ldPort e.2 i == n))).length

/-- GOOSE entries (R108, R203, R349, R350); q: the program the package will run with. -/
def gooseFaults (p : Package) (q : Option Program) : List FieldFault :=
  let o := some p
  eachRec p secGooseSub (fun _ ws => gsFault ws) ++ repeatedKeys secGooseSub (gsSameKey o) (gsEntries o) ++
    eachRec p secGoosePub (fun _ ws => gpFault ws) ++
    ((membersDeclared p q).map (fun x => (secGooseSub, x.1, x.2))).toList ++
    ((gpEntries o).filter (fun e => decide (256 < queueLoad o (gpPort e.2)))).map (fun e => (secGoosePub, e.1, 0)) ++
    ((ldEntries o).flatMap (fun e => [0, 1].filterMap (fun i =>
      if ldUse e.2 i && decide (256 < queueLoad o (ldPort e.2 i)) then some (secLdf, e.1, 5 + 3 * i) else none)))

/-- The first word of a bay at fault (R114, R138, R139): the slots of a bay in use are enabled local channels or fast ones. -/
def bayFault (p : Option Package) (ws : List Word) : Option Nat :=
  let slotOk (ph : Nat) : Bool :=
    let k := baySlot ws ph
    !bayUse ws || ((decide (64 ≤ k) || chEnabled (channelWords p k)) && !slotSlow p k)
  firstBad [(0, slotOk 0 && slotOk 1), (1, slotOk 2), (2, F32.lt 0#32 (bayMatch ws))]

/-- A CHAR of 8 to 15 in some group of an inverse-time instance names user table n (R144). -/
def curveNamed (p : Option Package) (n : Nat) : Bool :=
  (indicesOf p secInstance).any (fun i =>
    let ws := instWords p i
    within (inType ws) 1 3 && (List.range 8).any (fun g => inSet ws g 2 == BitVec.ofNat 32 (8 + n)))

/-- Zones, bays, Tenon, instances, line differential, wires, inputs (R113, R114, R123, R138, R139, R144, R154, R207, R210,
R221). -/
def zoneFaults (p : Package) : List FieldFault :=
  let q := some p
  eachRec p secZone (fun _ ws => zoneFault q ws) ++ eachRec p secBay (fun _ ws => bayFault q ws) ++
    eachRec p secTenon (fun z ws => tenonFault q z ws) ++
    eachRec p secInstance (fun i ws => instFault q i (lineRules q) ws) ++
    eachRec p secLdf (fun d ws => ldfFault q d ws) ++ eachRec p secWire (fun _ ws => wireFault q ws) ++
    eachRec p secBi (fun _ ws => biFault ws) ++ eachRec p secBiPair (fun _ ws => pairFault ws) ++
    eachRec p secCurve (fun n ws => if curveNamed q n then ucFault ws else none) ++ eachRec p secChannel (fun _ ws => channelFault ws) ++
    eachRec p secGroup (fun _ ws => groupFault ws)

/-- A slot that a trigger program may name (R242): an enabled local channel, or mapped by SV or Dovetail. -/
def slotFed (p : Option Package) (k : Nat) : Bool :=
  if k < 64 then chEnabled (channelWords p k) else decide (k < 2048) && slotSource p k != .unfed

/-- A condition's words (R229, R230): the type, the edge, the distance, the operand. -/
def conditionOk (p : Option Package) (c0 : Word) : Bool :=
  let t := cdType c0
  let o := cdOperand c0
  if t = 0 then true
  else if t ≤ 2 then !isReserved ⟨false, o⟩ && (t != 2 || cdEdge c0 != 3)
  else if t ≤ 6 then slotFed p o && (t != 6 || cdAux c0 != 0)
  else if t = 7 then !isReserved ⟨true, o⟩
  else decide (t < 11) || (t == 11 && decide (cdAux c0 ≤ 63))

/-- A mask entry (R233, R242); the slot counts where the entry is in use. -/
def maskChecks (p : Option Package) (ws : List Word) (i : Nat) : List (Nat × Bool) :=
  let m := tgMask ws i 0
  [(5 + 3 * i, (!bit m 11 || slotFed p (field m 10 0)) && field m 15 14 != 3 && within (field m 27 24) 1 15),
    (7 + 3 * i, bit m 12 || decide ((tgMask ws i 2).toInt ≤ (tgMask ws i 1).toInt))]

/-- A state block (R229, R230, R242). -/
def stateChecks (p : Option Package) (ws : List Word) (st : Nat) : List (Nat × Bool) :=
  let a := tgAction ws st
  (List.range 4).map (fun i => (29 + 9 * st + 2 * i, conditionOk p (tgCond ws st i 0))) ++
    [(29 + 9 * st + 8, decide (field a 3 1 < tgStates ws) && decide (field a 17 15 < tgStates ws))]

/-- A trigger program (R227 to R230, R233, R242, R246): every field of every block, running or not; NCH and the record's
size where the program runs; the channel-list entries in use. -/
def triggerFault (p : Package) (n : Nat) (ws : List Word) : Option Nat :=
  let q := some p
  let on := tgEnabled ws
  let chan (w : Word) : Bool := if chDigital w then !isReserved ⟨false, chIndex w⟩ else slotFed q (chIndex w)
  let share := gnRegionMib q * 1048576 * gnShare q n / 64
  let size := recordBytes q (tgChannels ws) (ceilDiv (tgCap ws) 768)
  let checks :=
    [(0, tgRetrig ws != 3 && tgBoundE ws != 7), (1, decide (tgPre ws ≤ 72 * 400) && within (tgPost ws) 72 (72 * 2000)),
      (2, within (tgCap ws) 72 (72 * 2400) && decide (tgPre ws + tgPost ws ≤ tgCap ws) &&
        (!on || (within (tgNch ws) 1 256 && decide (size ≤ share)))),
      (3, within (field (wAt ws 3) 23 0) 1 8640000), (4, within (field (wAt ws 4) 23 0) 1 8640000)] ++
    (List.range 8).flatMap (maskChecks q ws) ++ (List.range 8).flatMap (stateChecks q ws) ++
    (tgChannels ws).zipIdx.map (fun c => (101 + c.2, chan c.1))
  (checks.filter (fun c => !c.2)).foldl (fun a c => match a with
    | some w => some (min w c.1)
    | none => some c.1) none

/-- Every field that fails the rule of its descriptor (R347). -/
def packageFaults (s : State) (p : Package) (q : Option Program) : List FieldFault :=
  engineFault s p ++ portFaults s p ++ streamFaults s p ++ gooseFaults p q ++ zoneFaults p ++
    eachRec p secTrigger (triggerFault p)

/-- The lowest of some byte offsets. -/
def lowest (l : List Nat) : Option Nat := l.foldl (fun a x => match a with
  | some y => some (min x y)
  | none => some x) none

/-- The byte offset of the first field at fault in a package's bytes (R347, R344), or none. -/
def packageFault (s : State) (bs : List Byte) (p : Package) (q : Option Program) : Option Nat :=
  match frameFault (runningBg s) bs (bodyLength bs) with
  | some o => some o
  | none =>
    match indexFault bs with
    | some o => some o
    | none => lowest ((packageFaults s p q).map (fun f => wordOffset bs f.1 f.2.1 f.2.2))

/-- The owner key package's public keys (R389): one is set, the stored package agrees with the fuse entry of its generation
(R380), the owner's, the settings key where present. -/
def ownerSet (s : State) : Bool := !s.trust.fuses.isEmpty
def ownerPackageWhole (s : State) : Bool :=
  s.trust.fuses.getLast?.all (fun h => h == digestOf (slice s.trust.ownerPackage 12 194))
def ownerPub (s : State) : List Byte := slice s.trust.ownerPackage 12 97
def settingsKeyPresent (s : State) : Bool := ownerSet s && (leAt s.trust.ownerPackage 6 2).testBit 0
def settingsPub (s : State) : List Byte := slice s.trust.ownerPackage 109 97

/-- Whether the block at the end of a byte string verifies (R390): kind 0 package, 1 program. -/
def blockVerifies (s : State) (kind : Nat) (bs : List Byte) : Bool :=
  let b := bs.drop (bs.length - 256)
  let d := digestOf (bs.take (bs.length - 256))
  let key := leAt b 7 1
  let keyOk := if key = 0 then settingsKeyPresent s else key == 1 && ownerSet s
  hasBlock bs && leAt b 4 2 == 1 && leAt b 6 1 == kind && keyOk && slice b 8 48 == digestBytes d &&
    ecdsaVerify (if key = 0 then settingsPub s else ownerPub s) d (slice b 56 96)

/-- R390: a block that fails to verify, or none while signatures are required. -/
def signatureFault (s : State) (kind : Nat) (bs : List Byte) : Bool :=
  if hasBlock bs then !blockVerifies s kind bs else s.trust.requireSigned

/-- The digest of a package or program image (R390): the bytes before any block. -/
def imageDigest (bs : List Byte) : BitVec 384 := digestOf (bs.take (bodyLength bs))

/-- A package as read. -/
def packageOf (s : State) (bs : List Byte) : Package :=
  ⟨imageDigest bs, packageRecords (bs.take (bodyLength bs)), hasBlock bs && blockVerifies s 0 bs⟩

/-- The program a staged package will run with (R190): the staged one, else the one in force. -/
def comingProgram (s : State) : Option Loaded := match s.logic.staged with
  | some l => some l
  | none => s.logic.program

/-- Whether the package and program exceed the evaluation window on the serving lanes (R290). Log 5. -/
def overloaded (s : State) (p : BitVec 384) (q : Option Loaded) : Bool :=
  Config.loadExceeds p ((q.map (fun l => l.digest)).getD 0) (s.lanes.states.filter (fun x => x == .serving)).length

/-- Keys forced now or by a force that is pending (R196). -/
def forcedKeys (s : State) : List Nat :=
  (FMap.keys s.logic.forces ++ s.cfg.changes.filterMap (fun p => match p.change with
    | .force r _ => some (forceKey r)
    | _ => none)).eraseDups

/-- The points forced when a package takes effect: none beside a new program (R197). -/
def forcedThen (s : State) (program : Bool) : List Nat := if program then [] else forcedKeys s

/-- What staging answers: status and the byte offset of the first field rejected. -/
def stageVerdict (s : State) (bs : List Byte) (p : Package) : Half × Nat :=
  let q := comingProgram s
  let prog := q.map (fun l => l.program)
  match packageFault s bs p prog with
  | some o => (0x0200, o)
  | none =>
    if overloaded s p.digest q then (0x0200, 0xFFFFFFFF)
    else if signatureFault s 0 bs then (0x0201, 0xFFFFFFFF)
    else if ¬ packageTaintOk p prog (forcedThen s s.logic.staged.isSome) then (0x0202, 0xFFFFFFFF)
    else (0, 0xFFFFFFFF)

/-- A point as LOAD_PROGRAM's result names it (R344): index, kind in bit 31. -/
def pointCode (p : PRef) : Nat := p.idx + (if p.word then 2147483648 else 0)

/-- The points a program references, in the order of its steps, then inputs, then retained points. -/
def referenced (q : Program) : List PRef :=
  (q.steps.flatMap (fun st => stepReads st ++ stepWrites st)) ++ q.inputs.map inputPoint ++ q.retained.map (fun r => r.point)

/-- The first point that fails R192, and the first that fails R190. -/
def firstUnwritable (q : Program) : Option PRef := (q.steps.flatMap stepWrites).find? (fun r => !writable q r)
def firstTainted (p : Option Package) (q : Program) : Option PRef :=
  let t := tripClass p (some q)
  (referenced q).find? (fun r =>
    let cls := t.contains (taintNode r)
    (match q.marks.find? (fun m => m.1 == r) with
      | some m => m.2 != cls
      | none => true) || (cls && forbiddenNode (some q) [] (taintNode r)))

/-- What LOAD_PROGRAM answers: status, the first point at fault, the program where it is staged. -/
def loadVerdict (s : State) (bs : List Byte) : Half × Nat × Option Loaded :=
  match Config.parseProgram (bs.take (bodyLength bs)) with
  | none => (0x0200, 0xFFFFFFFF, none)
  | some q =>
    if bs.isEmpty ∨ ¬ programOk q then (0x0200, ((firstUnwritable q).map pointCode).getD 0xFFFFFFFF, none)
    else if signatureFault s 1 bs then (0x0201, 0xFFFFFFFF, none)
    else if ¬ programTaintOk s.cfg.package q then
      (0x0202, ((firstTainted s.cfg.package q).map pointCode).getD 0xFFFFFFFF, none)
    else (0, 0xFFFFFFFF, some ⟨imageDigest bs, q, hasBlock bs⟩)

/-- The union of the running and the staged package keeps to 512 streams and 2,048 slots (R29). -/
def unionOk (old : Option Package) (new : Package) : Bool :=
  let n := some new
  let extra := (svEntries n).filter (fun e => !(svEntries old).any (fun o => svSameKey n o.2 e.2))
  let slots := ((mappedSlots old).map (fun x => x.1) ++ (mappedSlots n).map (fun x => x.1)).eraseDups
  decide ((svEntries old).length + extra.length ≤ 512) && decide (64 + slots.length ≤ 2048)

end Sys2Proof.Machine
end

