-- ==== Sys2Proof/Machine/Bist.lean ====
section
/-!
DEFINITION. Self-tests ordered by RUN_BIST (14_self_test.md R304 to R314, R289, R54): the queue, preparation, runs, aborts,
outcomes, and the volatile secrets (R308, R393).
-/
namespace Sys2Proof.Machine

/-- ZEROISE of the backup latch (R378, R394). -/
def zeroised (s : State) : Bool := bit s.power.latch 4

/-- CLASS and INDEX of a target word (R309). -/
def bistClass (r : BistRun) : Nat := field r.target 7 0
def bistIndex (r : BistRun) : Nat := field r.target 15 8

/-- No values. -/
def BistValues.none : BistValues := ⟨0, 0, 0, 0⟩

/-- The expected values of a target (R306): those of the running image for this silicon revision. -/
def expectedOf (s : State) (target : Word) : Quad × Word × Word :=
  Config.bistExpected ((s.trust.slotDigest[s.trust.running]?).getD 0) Config.silicon target

/-- The 64-byte result (R314). -/
def bistResult (s : State) (r : BistRun) (outcome effect : Nat) : List Byte :=
  let v := r.values
  let x := expectedOf s r.target
  leBytes 4 r.target.toNat ++ leBytes 1 outcome ++ leBytes 1 r.runs ++ leBytes 1 r.abortCause ++ zeros 1 ++
    leBytes 8 v.misr.toNat ++ leBytes 4 v.patterns.toNat ++ leBytes 4 v.endToken.toNat ++ leBytes 8 x.1.toNat ++
    leBytes 4 x.2.1.toNat ++ leBytes 4 x.2.2.toNat ++ leBytes 8 r.startSheaf ++ leBytes 8 effect ++
    leBytes 4 v.durationUs ++ zeros 4

/-- The Tally entry of a run (R314): 0x0B01 pass, 0x0B02 fail, 0x0B03 aborted. -/
def bistEntry (r : BistRun) (outcome : Nat) (s : State) : State :=
  let packed : Quad := (r.values.patterns.zeroExtend 64 <<< 32) ||| r.values.endToken.zeroExtend 64
  tally (0x0B01 + BitVec.ofNat 16 outcome)
    [r.target.zeroExtend 64, item outcome, item r.runs, r.values.misr, packed] s

/-- Completes the RUN_BIST of a run with a status and result. -/
def answerRun (r : BistRun) (status : Half) (result : List Byte) (s : State) : State :=
  match findInflight s .pf0 (fun e => e.hostSeq == r.hostSeq && e.stage == .testing) with
  | some e => complete .pf0 e status 0 result s
  | none => s

/-- The volatile secrets are zeroed before a scan (R308, R393). -/
def zeroSecrets (s : State) : State :=
  { s with bist := { s.bist with sessionKeys := false, identityKey := false, settingsKey := false } }

/-- A run's preparation is refused (R309, R289, R54): a retired lane, a serving lane without a spare; a failed slice, a
group whose spare has failed or has replaced a slice. -/
def bistRefused (s : State) (r : BistRun) : Bool :=
  let n := bistIndex r
  match bistClass r with
  | 0 => laneState s n == .retired || (laneState s n == .serving && (spareLane s).isNone)
  | 1 =>
    let g := groupOfSlice n
    (sliceOf s n).failed || (sliceOf s (64 + g)).failed || (groupOf s g).replaced.isSome
  | _ => false

/-- The queue with its head replaced. -/
def setHead (r : BistRun) (s : State) : State :=
  { s with bist := { s.bist with queue := r :: s.bist.queue.drop 1 } }
def dropHead (s : State) : State := { s with bist := { s.bist with queue := s.bist.queue.drop 1 } }

/-- The run at the head of the queue is looked at (R310): refused runs end, n at most; a test of the eMMC controller starts
at once (R309, R311). A refused rerun ends the command with the first run's outcome (R312). -/
def bistHead : Nat → State → State
  | 0, s => s
  | n + 1, s =>
    match s.bist.queue with
    | [] => s
    | r :: _ =>
      if r.started ∨ r.waiting then s
      else if bistRefused s r then
        bistHead n
          (if r.runs = 0 then answerRun r 0x0300 [] (dropHead s)
          else answerRun r 0 (bistResult s r 2 s.glb.sheaf) (dropHead s))
      else if bistClass r = 2 then
        zeroSecrets (setHead { r with started := true, startSheaf := s.glb.sheaf, startAt := s.tb.now } s)
      else s

/-- A run is decided (R313, R314): the entry, the completion, the next run. -/
def endRun (r : BistRun) (outcome effect : Nat) (s : State) : State :=
  bistHead 8 (answerRun r 0 (bistResult s r outcome effect) (dropHead s))

/-- A lane that is TESTING with no run under way is the spare again (R312, log 35): at the boundary after an abort (R4). -/
def freeTested (s : State) : State :=
  let busy (n : Nat) : Bool :=
    (match s.bist.queue with
      | r :: _ => r.started && bistClass r == 0 && bistIndex r == n
      | [] => false) ||
    (s.bist.decided.any (fun d => bistIndex d.1 == n)) || s.lanes.suspects.any (fun x => x.lane == n)
  ((List.range 13).filter (fun n => laneState s n == .testing && !busy n)).foldl (fun s n => setLane n .spare s) s

/-- The scan that runs ends now: the re-derivation of the secrets counts from here (R308). -/
def scanEnds (s : State) : State := { s with bist := { s.bist with scanEnd := some s.tb.now } }

/-- A run under way is aborted (R312): its values are discarded. A lane under test leaves TESTING at the next boundary (R4, freeTested). -/
def bistAbort (cause : Nat) (s : State) : State :=
  match s.bist.queue with
  | [] => s
  | r :: _ =>
    if r.started = false ∨ s.bist.decided.isSome then s
    else
      let r' := { r with
        runs := r.runs + 1, started := false, waiting := true
        values := { BistValues.none with durationUs := ((s.tb.now - r.startAt) / usSteps 1).toNat }
        abortCause := if r.abortCause = 0 then cause else r.abortCause }
      let s := scanEnds (sticky 3 5 (bistEntry r' 2 (setHead r' s)))
      if r'.runs = 2 then endRun r' 2 s.glb.sheaf s else s

/-- An aborted run need not wait for an event: its rerun is looked at again at once (R312). -/
def resumeRun (r : BistRun) (from' : Nat) (s : State) : State :=
  match s.bist.queue with
  | q :: _ => if q.hostSeq = r.hostSeq ∧ q.waiting then setHead { q with waiting := false, notBefore := from' } s else s
  | [] => s

/-- The lane under test is recalled because a serving lane failed at C_k (R312): its known-answer test runs in the next
sheaf. Answers whether one was. -/
def recallLane (k pos : Nat) (s : State) : Bool × State :=
  match s.bist.queue with
  | r :: _ =>
    if r.started ∧ bistClass r = 0 ∧ laneState s (bistIndex r) = .testing ∧ s.bist.decided.isNone ∧
        s.lanes.suspects.isEmpty then
      let n := bistIndex r
      let s := resumeRun r (k + 2) (bistAbort 4 s)
      (true, { s with lanes := { s.lanes with suspects := [⟨n, pos, k, k + 1, true, true⟩] } })
    else (false, s)
  | [] => (false, s)

/-- A lane's run starts at boundary C_k (R289): the spare takes the position of a serving lane. -/
def startLaneRun (k : Nat) (r : BistRun) (s : State) : State :=
  let n := bistIndex r
  if !s.lanes.suspects.isEmpty ∨ k < r.notBefore then s
  else
    let s := match laneState s n, spareLane s with
      | .serving, some sp => (positionsOf s n).foldl (fun s p => setPosition p (some sp) s) (setLane sp .serving s)
      | _, _ => s
    zeroSecrets (setHead { r with started := true, startSheaf := k, startAt := s.tb.now } (setLane n .testing s))

/-- A slice's run at boundary C_k (R54): the slot is asked for, and the run starts with slot sheaf 64. -/
def startSliceRun (k : Nat) (r : BistRun) (s : State) : State :=
  let n := bistIndex r
  let x := groupOf s (groupOfSlice n)
  if x.inserted = some ⟨n⟩ ∧ x.slotSheaf = 64 then zeroSecrets (setHead { r with started := true, startSheaf := k, startAt := s.tb.now } s)
  else if x.inserted = some ⟨n⟩ ∨ x.insertDue = some ⟨n⟩ then s
  else insertSlot n s

/-- A decided test of a lane takes effect at boundary C_k (R289, R313). -/
def laneOutcome (k : Nat) (s : State) : State :=
  match s.bist.decided with
  | none => s
  | some (r, pass) =>
    let n := bistIndex r
    let s := { s with bist := { s.bist with decided := none } }
    let s := if pass then setLane n .spare s
      else sticky 0 2 (tally 0x0106 [item n, 0xFF, item k, 2] (setLane n .retired s))
    endRun r (boolNat (!pass)) k s

/-- The self-test sequencer at boundary C_k (R289, R309, R312). A slot that R55 abandons ends the run in it as the recall of R312
does: the group is calibrated no more (DEDUCED, log 92). -/
def bistBoundary (k : Nat) (s : State) : State :=
  let s := bistHead 8 (freeTested (laneOutcome k s))
  match s.bist.queue with
  | [] => s
  | r :: _ =>
    if r.waiting then s
    else if r.started then
      let g := groupOfSlice (bistIndex r)
      if bistClass r = 1 ∧ ((bistIndex r < 64 ∧ (sliceOf s (64 + g)).failed) ∨ (groupOf s g).running = false) then
        bistHead 8 (resumeRun r (k + 1) (bistAbort 4 s))
      else s
    else
      match bistClass r with
      | 0 => startLaneRun k r s
      | 1 => startSliceRun k r s
      | _ => s

/-- BIST_RUN_END (R305, R306, R313): a pass needs all three values. -/
def bistRunEnd (v : BistValues) (s : State) : State :=
  match s.bist.queue with
  | [] => s
  | r :: _ =>
    if r.started = false ∨ s.bist.decided.isSome then s
    else
      let pass := (v.misr, v.patterns, v.endToken) == expectedOf s r.target
      let r := { r with values := v, runs := r.runs + 1 }
      let s := scanEnds (bistEntry r (boolNat (!pass)) (setHead r s))
      let s := if pass then s else sticky 3 4 s
      match bistClass r with
      | 0 => { s with bist := { s.bist with decided := some (r, pass) } }
      | 1 => endRun r (boolNat (!pass)) s.glb.cur (if pass then s else failSlice (bistIndex r) s.glb.cur 2 none s)
      | _ =>
        endRun r (boolNat (!pass)) s.glb.cur
          (if pass then s else sticky 2 4 { s with store := { s.store with emmcFailed := true } })

/-- BIST_RERUN: VCORE_LOW and TEMP_HIGH have been clear for 1 s (R312). -/
def bistRerun (t : Time) (s : State) : State :=
  let s := advance t s
  let s := { s with power := { s.power with vcoreLow := false, tempHigh := false } }
  match s.bist.queue with
  | r :: _ =>
    if r.waiting ∧ (r.abortCause = 2 ∨ r.abortCause = 3) then
      bistHead 8 (setHead { r with waiting := false, notBefore := s.glb.sheaf + 1 } s)
    else s
  | [] => s

/-- BIST_RERUN_TIMEOUT: the rerun could not start within 60 s (R312). -/
def bistTimeout (s : State) : State :=
  match s.bist.queue with
  | r :: _ => if r.runs = 1 ∧ r.started = false then endRun r 2 s.glb.sheaf s else s
  | [] => s

/-- A run shifts a scan chain: every secret stays zeroed (R308). -/
def chainShifts (s : State) : Bool := s.bist.queue.any (fun r => r.started) && s.bist.decided.isNone

/-- SECRETS_REDERIVED: after the last scan (R308); not in TEST; under ZEROISE only the verification key (R393, R394). -/
def secretsBack (s : State) : State :=
  if chainShifts s ∨ s.glb.gstate = .test ∨ s.power.inReset then s
  else
    let z := zeroised s
    { s with bist := { s.bist with settingsKey := ownerPackageWhole s, identityKey := !z, sessionKeys := !z, scanEnd := none } }

/-- BIST_RUN_END. -/
def execBistRunEnd (v : BistValues) (s : State) : Host.Outcome State Fault Refusal := .next (bistRunEnd v s)
/-- BIST_RERUN. -/
def execBistRerun (t : Time) (s : State) : Host.Outcome State Fault Refusal := .next (bistRerun t s)
/-- BIST_RERUN_TIMEOUT. -/
def execBistRerunTimeout (s : State) : Host.Outcome State Fault Refusal := .next (bistTimeout s)
/-- SECRETS_REDERIVED. -/
def execSecretsRederived (s : State) : Host.Outcome State Fault Refusal := .next (secretsBack s)

end Sys2Proof.Machine
end

