-- ==== Sys2Proof/Machine/Operands.lean ====
section
/-!
DEFINITION. The operand forms of a host command (16_mailbox.md R333, R339): fields of its payload, and the 16-byte descriptor
of a buffer in host memory.
-/
namespace Sys2Proof.Machine

/-- ADDR and BLEN of the descriptor at payload offset o (R339). -/
def descAddr (e : Inflight) (o : Nat) : Nat := leAt e.payload o 8
def descLen (e : Inflight) (o : Nat) : Nat := leAt e.payload (o + 8) 4

/-- Writes bytes to the buffer of a descriptor (R339). -/
def writeBuffer (e : Inflight) (o : Nat) (bs : List Byte) (s : State) : State :=
  { s with hostMem := memWrite s.hostMem (descAddr e o) bs }
/-- The bytes of the buffer of a descriptor. -/
def readBuffer (e : Inflight) (o : Nat) (s : State) : List Byte := memRead s.hostMem (descAddr e o) (descLen e o)

end Sys2Proof.Machine
end

