-- ==== Sys2Proof/Machine/Commands.lean ====
section
/-!
DEFINITION. The effects of the host commands (16_mailbox.md, 19_trust.md): what each does once it is accepted and its turn
has come, and what the long-running ones do when they end.
-/
namespace Sys2Proof.Machine

/-- The time a test takes from its start, zeroing included (R304, R308): a lane 50 ms, a slice 473.333 ms, the eMMC controller
45 ms. -/
def testTime (r : BistRun) : Time := match bistClass r with
  | 0 => usSteps 50010
  | 1 => usSteps 473343
  | _ => usSteps 45010

/-- The instant at which what a request needs is there again (R311): the end of the test under way, and 20 ms more for the
secrets, which count from the end of the last scan. None where neither is the cause. -/
def readyAt (secrets : Bool) (s : State) : Option Time :=
  let more : Time := if secrets then usSteps 20000 else 0
  match s.bist.queue.find? (fun r => r.started && s.bist.decided.isNone), s.bist.scanEnd with
  | some r, _ => some (r.startAt + testTime r + more)
  | none, some t => if secrets then some (t + more) else none
  | none, none => none

/-- DEFERRED with RETRY_MS (R311): the remaining time in ms, rounded up, 1 to 50. The walk of the record log (R368) has no
stated duration: there RETRY_MS is a free value. -/
def deferCommand (secrets : Bool) (v : View) (e : Inflight) (s : State) : State :=
  match readyAt secrets s with
  | some t => complete v e 0x0301 0 (leBytes 4 (max 1 (min 50 ((t - s.tb.now + usSteps 1000 - 1) / usSteps 1000).toNat))) s
  | none =>
    let (w, s) := takeFree s
    complete v e 0x0301 0 (leBytes 4 (1 + w.toNat % 50)) s

/-- Completes with a status and no result. -/
def answer (v : View) (e : Inflight) (status : Half) (s : State) : State := complete v e status 0 [] s

/-- The command runs until COMMAND_EXECUTION_END. -/
def keepRunning (v : View) (e : Inflight) (s : State) : State := setStage v e .running s

/-- A COMMIT_AT_SHEAF is pending; one that brings the staged program is pending (R32, R352). -/
def commitPending (s : State) : Bool := s.cfg.changes.any (fun p => match p.change with
  | .package _ _ => true
  | _ => false)
def programPending (s : State) : Bool := s.cfg.changes.any (fun p => match p.change with
  | .package _ b => b
  | _ => false)

/-- The largest sheaf from which an earlier boundary-applied command of the view takes effect (R338). -/
def earlierSheaf (v : View) (s : State) : Nat :=
  s.cfg.changes.foldl (fun a p => match p.change with
    | .package _ _ => a
    | _ => if p.view = v then max a p.j else a) 0

/-- The sheaf from which a change accepted in period g takes effect: its boundary follows acceptance by at least one sheaf
period, and is still to come (R27, R338). -/
def effectSheaf (v : View) (g : Nat) (s : State) : Nat := max (max (g + 3) (s.glb.sheaf + 2)) (earlierSheaf v s)

/-- The sheaf whose start boundary is the next logic cycle start after acceptance in period g (R27, R194). -/
def cycleSheaf (v : View) (g : Nat) (s : State) : Nat :=
  let p := periodOf s
  p * ceilDiv (max (max (g + 2) (s.glb.sheaf + 2)) (earlierSheaf v s)) p

/-- A change is held in the sheaf fabric (R30) and the command waits for its boundary. -/
def holdChange (v : View) (e : Inflight) (j : Nat) (c : Change) (s : State) : State :=
  setStage v e (.awaitBoundary j) { s with cfg := { s.cfg with changes := s.cfg.changes ++ [⟨j, v, e.hostSeq, c⟩] } }

/-- An INSTALL_FW runs. -/
def installRunning (s : State) : Bool := s.trust.install.isSome

/-- GET_INFO's result (R344): 188 bytes. -/
def infoBytes (s : State) : List Byte :=
  let flags := boolNat s.trust.requireSigned + 2 * boolNat (ownerSet s) + 4 * boolNat s.logic.staged.isSome +
    8 * boolNat (commitPending s) + 16 * boolNat (installRunning s)
  wordBytes ((List.range 5).map (glbReg s)) ++ wordBytes [wAt s.trust.slotVersion 0, wAt s.trust.slotVersion 1] ++
    leBytes 8 serialNumber.toNat ++ digestBytes (packageDigest s) ++ digestBytes (programDigest s) ++
    digestBytes ((s.cfg.staged.map (fun p => p.digest)).getD 0) ++ leBytes 4 flags ++ leBytes 4 s.glb.lpipe

/-- GET_INFO (R344). -/
def doGetInfo (v : View) (e : Inflight) (s : State) : State := complete v e 0 0 (infoBytes s) s

/-- GET_CERTS (R343, R388). -/
def doGetCerts (v : View) (e : Inflight) (s : State) : State :=
  if descLen e 0 < 8192 then answer v e 0x0200 s
  else
    let bs := certificateChain.flatten
    complete v e 0 0 (leBytes 4 bs.length ++ leBytes 4 certificateChain.length) (writeBuffer e 0 bs s)

/-- STAGE_SETTINGS needs the eMMC, and the verification key while signatures are required (R308, R311). -/
def stageWaits (s : State) : Bool := emmcBusy s || (s.trust.requireSigned && !s.bist.settingsKey)

/-- STAGE_SETTINGS begins (R311, R343, R352). -/
def doStage (v : View) (e : Inflight) (s : State) : State :=
  if ¬ within (descLen e 0) 32 16777216 then complete v e 0x0200 0 (zeros 48 ++ leBytes 4 0xFFFFFFFF) s
  else if commitPending s then answer v e 0x0104 s
  else if stageWaits s then deferCommand s.trust.requireSigned v e s
  else keepRunning v e s

/-- The copy of the configuration area not in force (R369). -/
def spareCopy (s : State) : Nat := if s.store.configInForce = some 0 then 1 else 0

/-- Writes bytes into the copy not in force, unless the eMMC has failed (R369). -/
def writeCopy (f : List Byte × List Byte → List Byte × List Byte) (s : State) : State :=
  if s.store.emmcFailed then s
  else { s with store := { s.store with configCopies := modAt f (spareCopy s) s.store.configCopies } }

/-- STAGE_SETTINGS ends: the package is checked and staged (R347, R390, R190, R369); a test that has begun meanwhile defers it
(R311). -/
def endStage (v : View) (e : Inflight) (s : State) : State :=
  if stageWaits s then deferCommand s.trust.requireSigned v e s
  else
  let bs := readBuffer e 0 s
  let p := packageOf s bs
  let r := stageVerdict s bs p
  let res := digestBytes p.digest ++ leBytes 4 r.2
  let s := if r.1 = 0 then
      writeCopy (fun c => (bs, c.2)) { s with cfg := { s.cfg with staged := some p, stagedBytes := bs } }
    else s
  complete v e r.1 0 res s

/-- The period of a program, 1 for none (R192). -/
def loadedPeriod (l : Option Loaded) : Nat := (l.map (fun x => programPeriod x.program)).getD 1

/-- R17 and R60 hold for a package about to be committed: outside CONFIG it keeps L_pipe and the fixed port fields. -/
def commitFits (s : State) (p : Package) : Bool :=
  !protecting s ||
    (lpipeUnder s (some p) == runningLpipe s &&
      (List.range 32).all (fun n => portFixedEq (portWords s.cfg.package n) (portWords (some p) n)))

/-- The subscriptions and bindings of an accepted package are armed for sheaf j (R28, R29): what a slot whose source changes
has stored of sheaves from j on leaves it, and the new entries begin as streams with no previous frame. -/
def armSubscriptions (j : Nat) (p : Package) (s : State) : State :=
  let keep (k : Nat) : Bool := sameFeed s.cfg.package (some p) k
  { s with
    samp := { s.samp with
      hist := s.samp.hist.mapVals (fun k l => if keep k then l else l.filter (fun x => decide (x.1 < 3 * j)))
      raw := s.samp.raw.mapVals (fun k l => if keep k then l else l.filter (fun x => decide (x.1 < 3 * j))) }
    cfg := { s.cfg with armedFrom := firstSheafAfter s.tb.now }
    ing := { s.ing with
      streamsNew := (svEntries (some p)).map (fun x => (x.1, { Stream.init with since := s.tb.now })) } }

/-- COMMIT_AT_SHEAF (R28, R29, R192, R343, R352). A program loaded or a point forced since the staging is judged with the
package here, so that R7 holds of what takes effect together (log 88). g: GLB_SHEAF at acceptance; a sheaf that has come too
close while an earlier command held this one back completes SET_TOO_LATE (DESIGN CHOICE, log 95). -/
def doCommit (g : Nat) (v : View) (e : Inflight) (s : State) : State :=
  let named := leAt e.payload 0 8
  let j := if named = 0 ∧ s.glb.gstate = .config then g + 8 else named
  match s.cfg.staged with
  | none => answer v e (if commitPending s then 0x0104 else 0x0204) s
  | some p =>
    let prog := s.logic.staged
    let step := decide (j % loadedPeriod s.logic.program = 0) && decide (j % loadedPeriod prog = 0)
    let run := (comingProgram s).map (fun l => l.program)
    if commitPending s then answer v e 0x0104 s
    else if digestBytes p.digest ≠ slice e.payload 8 48 then answer v e 0x0204 s
    else if j < g + 8 ∨ j ≤ s.glb.sheaf + 1 then answer v e 0x0203 s
    else if g + 288000 < j ∨ (prog.isSome ∧ ¬ step) ∨ ¬ commitFits s p ∨ ¬ unionOk s.cfg.package p ∨
        (membersDeclared p run).isSome then
      answer v e 0x0200 s
    else if ¬ packageTaintOk p run (forcedThen s prog.isSome) then
      answer v e 0x0202 s
    else
      let s := holdChange v e j (.package j prog.isSome) s
      armSubscriptions j p s

/-- SELECT_GROUP (R115, R343): a zone that is not enabled is out of range. -/
def doSelectGroup (g : Nat) (v : View) (e : Inflight) (s : State) : State :=
  let z := leAt e.payload 0 2
  let n := leAt e.payload 2 1
  let ok := decide (n ≤ 7) && (z == 0xFFFF || (enabledZones s).contains z)
  if ¬ ok then answer v e 0x0200 s
  else if z ≠ 0xFFFF ∧ znGroupSrc (zoneWords s.cfg.package z) ≠ 0 then answer v e 0x0103 s
  else holdChange v e (effectSheaf v g s) (.group z n) s

/-- SET_LPIPE (R17, R343): GLB_LPIPE stays 0 until a package is in force. The value takes effect at once: R27 names no boundary
for it, and the command runs in CONFIG only (DESIGN CHOICE, log 95). -/
def doSetLpipe (v : View) (e : Inflight) (s : State) : State :=
  let n := leAt e.payload 0 2
  if ¬ within n 240 3200 then answer v e 0x0200 s
  else
    let lp := if s.cfg.package.isSome then n else s.glb.lpipe
    complete v e 0 0 [] { s with glb := { s.glb with lpipeSet := n, lpipe := lp } }

/-- LOAD_PROGRAM begins (R343, R352, R369). -/
def doLoad (v : View) (e : Inflight) (s : State) : State :=
  if 33554432 < descLen e 0 then complete v e 0x0200 0 (zeros 48 ++ leBytes 4 0xFFFFFFFF) s
  else if programPending s then answer v e 0x0104 s
  else if emmcBusy s then deferCommand false v e s
  else keepRunning v e s

/-- LOAD_PROGRAM ends (R190 to R192, R311, R369, R390). -/
def endLoad (v : View) (e : Inflight) (s : State) : State :=
  if emmcBusy s then deferCommand false v e s
  else
  let bs := readBuffer e 0 s
  let r := loadVerdict s bs
  let res := digestBytes (imageDigest bs) ++ leBytes 4 r.2.1
  let s := match r.2.2 with
    | some l => writeCopy (fun c => (c.1, bs))
        { s with logic := { s.logic with staged := some l }, cfg := { s.cfg with programBytes := bs } }
    | none => s
  complete v e r.1 0 res s

/-- A value lies in a parameter's range by its TYPE (R193, R194). -/
def paramOk (d : ParamDesc) (w : Word) : Bool :=
  match field d.p0 1 0 with
  | 0 => decide ((w &&& 1).toNat ≤ (d.max &&& 1).toNat) && decide ((d.min &&& 1).toNat ≤ (w &&& 1).toNat)
  | 1 => decide (d.min.toInt ≤ w.toInt) && decide (w.toInt ≤ d.max.toInt)
  | 2 => decide (d.min.toNat ≤ w.toNat) && decide (w.toNat ≤ d.max.toNat)
  | _ => F32.le d.min w && F32.le w d.max

/-- PARAM_WRITE (R32, R194). -/
def doParamWrite (g : Nat) (v : View) (e : Inflight) (s : State) : State :=
  let i := leAt e.payload 0 2
  let w := wordAt e.payload 4
  let ps := (s.logic.program.map (fun l => l.program.params)).getD []
  if programPending s then answer v e 0x0104 s
  else
    match ps[i]? with
    | none => answer v e 0x0200 s
    | some d => if paramOk d w then holdChange v e (cycleSheaf v g s) (.param i w) s else answer v e 0x0200 s

/-- The point a FORCE or UNFORCE names (R343). -/
def namedPoint (e : Inflight) : PRef := ⟨leAt e.payload 0 1 == 1, leAt e.payload 4 4⟩

/-- A point is trip-class under the program in force, with the package in force or with one that waits for its boundary
(R196, R7). -/
def tripClassSoon (s : State) (r : PRef) : Bool :=
  isTripClass s r || (match armedPackage s with
    | some (_, p) => (tripClass (some p) (s.logic.program.map (fun l => l.program))).contains (taintNode r)
    | none => false)

/-- FORCE (R32, R196). -/
def doForce (g : Nat) (v : View) (e : Inflight) (s : State) : State :=
  let r := namedPoint e
  if programPending s then answer v e 0x0104 s
  else if 1 < leAt e.payload 0 1 then answer v e 0x0200 s
  else if ¬ isGeneral r ∨ tripClassSoon s r then answer v e 0x0103 s
  else if 256 ≤ (forcedKeys s).length ∧ ¬ (forcedKeys s).contains (forceKey r) then answer v e 0x0200 s
  else holdChange v e (cycleSheaf v g s) (.force r (wordAt e.payload 8)) s

/-- UNFORCE (R32, R199). -/
def doUnforce (g : Nat) (v : View) (e : Inflight) (s : State) : State :=
  let r := namedPoint e
  if programPending s then answer v e 0x0104 s
  else if 1 < leAt e.payload 0 1 then answer v e 0x0200 s
  else holdChange v e (cycleSheaf v g s) (.unforce (if r.idx = 0xFFFFFFFF then none else some r)) s

/-- RESTART_LOGIC (R201, R343). -/
def doRestartLogic (g : Nat) (v : View) (e : Inflight) (s : State) : State :=
  let m := leAt e.payload 0 1
  if 1 < m then answer v e 0x0200 s else holdChange v e (cycleSheaf v g s) (.restartLogic (m == 1)) s

/-- LIST_RECORDS begins (R260, R343, R368). -/
def doListRecords (v : View) (e : Inflight) (s : State) : State :=
  let n := leAt e.payload 8 4
  if ¬ within n 1 65536 ∨ descLen e 16 < 32 * n then answer v e 0x0200 s
  else if s.granary.walked = false ∨ emmcBusy s then deferCommand false v e s
  else keepRunning v e s

/-- One entry of LIST_RECORDS (R344). -/
def listEntry (r : Stored) : List Byte :=
  leBytes 8 r.no ++ leBytes 8 r.triggerM ++ leBytes 8 r.body.length ++ leBytes 4 r.flags.toNat ++ leBytes 2 r.cause ++
    leBytes 1 r.primary ++ zeros 1

/-- LIST_RECORDS ends (R263, R341, R344). -/
def endListRecords (v : View) (e : Inflight) (s : State) : State :=
  if s.granary.walked = false ∨ emmcBusy s then deferCommand false v e s
  else
    let all := s.granary.stored.filter (fun r => decide (s.granary.releasedThrough < r.no) && decide (leAt e.payload 0 8 ≤ r.no))
    let out := all.take (leAt e.payload 8 4)
    complete v e 0 (if out.length < all.length then 8 else 0)
      (leBytes 4 out.length ++ zeros 4 ++ leBytes 8 s.granary.lastNo ++ leBytes 8 s.granary.releasedThrough)
      (writeBuffer e 16 (out.flatMap listEntry) s)

/-- FETCH_RECORD begins (R260, R343, R368). -/
def doFetchRecord (v : View) (e : Inflight) (s : State) : State :=
  if leAt e.payload 8 8 % 4096 ≠ 0 ∨ descLen e 16 % 4096 ≠ 0 then answer v e 0x0200 s
  else if s.granary.walked = false ∨ emmcBusy s then deferCommand false v e s
  else keepRunning v e s

/-- FETCH_RECORD ends (R263, R341, R344). -/
def endFetchRecord (v : View) (e : Inflight) (s : State) : State :=
  if emmcBusy s then deferCommand false v e s
  else
    let no := leAt e.payload 0 8
    match s.granary.stored.find? (fun r => r.no == no && decide (s.granary.releasedThrough < r.no)) with
    | none => answer v e 0x0400 s
    | some r =>
      let rest := (r.body ++ r.sealBytes).drop (leAt e.payload 8 8)
      let out := rest.take (descLen e 16)
      complete v e 0 (if out.length < rest.length then 8 else 0)
        (leBytes 8 (r.body.length + 4096) ++ leBytes 4 out.length) (writeBuffer e 16 out s)

/-- RELEASE_RECORD (R263). -/
def doReleaseRecord (v : View) (e : Inflight) (s : State) : State :=
  let n := leAt e.payload 0 8
  if s.granary.walked = false then deferCommand false v e s
  else if s.granary.lastNo < n then answer v e 0x0400 s
  else if n ≤ s.granary.releasedThrough then complete v e 0 0 (leBytes 8 s.granary.releasedThrough) s
  else if emmcBusy s then deferCommand false v e s
  else
    let s := releaseThrough n s
    complete v e 0 0 (leBytes 8 s.granary.releasedThrough) s

/-- MANUAL_TRIGGER (R241, R313). -/
def doManualTrigger (g : Nat) (v : View) (e : Inflight) (s : State) : State :=
  let p := leAt e.payload 0 1
  if thresherWorks s = false then answer v e 0x0103 s
  else if 7 < p ∨ ¬ tgEnabled (tgWords s.cfg.package p) then answer v e 0x0200 s
  else holdChange v e (effectSheaf v g s) (.manual p) s

/-- The 256 bytes of a Tally entry (R268). ring: an entry of the last-resort ring (R280). -/
def tallyBytes (t : TallyEntry) : List Byte :=
  let detail := (t.ev.detail ++ List.replicate 6 0#64).take 6
  let regs := (t.ev.regs ++ List.replicate 32 0#32).take 32
  let head := leBytes 4 (ascii4 0x54 0x4C 0x59 0x45) ++ leBytes 2 t.ev.event.toNat ++ leBytes 1 t.ev.snapset ++
    leBytes 1 t.ev.regs.length ++ leBytes 8 t.seq.toNat ++ leBytes 8 t.ev.sheaf.toNat ++ leBytes 8 t.ev.opsec.toNat ++
    leBytes 4 t.ev.pwrcyc.toNat ++ leBytes 4 t.eflags.toNat ++ detail.flatMap (fun q => leBytes 8 q.toNat) ++ wordBytes regs ++
    leBytes 4 t.ringNo.toNat ++ zeros 28
  head ++ leBytes 4 (crc32 head).toNat ++ leBytes 4 0x56414C44

/-- FETCH_TALLY begins (R343). -/
def doFetchTally (v : View) (e : Inflight) (s : State) : State :=
  let n := leAt e.payload 8 4
  let ring := leAt e.payload 12 1
  if ¬ within n 1 16384 ∨ 1 < ring ∨ descLen e 16 < 256 * n + 16384 * ring then answer v e 0x0200 s
  else keepRunning v e s

/-- FETCH_TALLY ends (R276, R280, R344). -/
def endFetchTally (v : View) (e : Inflight) (s : State) : State :=
  let all := s.tally.log.reverse.filter (fun t => decide (leAt e.payload 0 8 ≤ t.seq.toNat))
  let out := all.take (leAt e.payload 8 4)
  let ring := if leAt e.payload 12 1 = 1 then s.tally.ring.reverse else []
  let oldest := (s.tally.log.getLast?.map (fun t => t.seq)).getD s.tally.nextSeq
  complete v e 0 (if out.length < all.length then 8 else 0)
    (leBytes 4 out.length ++ leBytes 4 ring.length ++ leBytes 8 s.tally.nextSeq.toNat ++ leBytes 8 oldest.toNat)
    (writeBuffer e 16 ((out ++ ring).flatMap tallyBytes) s)

/-- A snapshot set keeps to R272. -/
def snapsetOk (ws : List Word) : Bool :=
  let m := field (wAt ws 0) 7 6
  let offset (w : Word) : Bool :=
    let o := field w 19 0
    o % 4 == 0 && (decide (o < 0x1000) || within o 0x3000 0x5FFF || within o 0x10000 0x127FF)
  m != 3 && (m != 2 || wAt ws 2 != 0) && (List.range 32).all (fun n => offset (wAt ws (3 + n)))

/-- CONFIG_SNAPSETS (R272). -/
def doConfigSnapsets (g : Nat) (v : View) (e : Inflight) (s : State) : State :=
  if descLen e 0 ≠ 8960 then answer v e 0x0200 s
  else
    let ws := wordsAt (readBuffer e 0 s) 0 2240
    if (List.range 64).all (fun n => snapsetOk ((ws.drop (35 * n)).take 35)) then
      holdChange v e (effectSheaf v g s) (.snapsets ws) s
    else answer v e 0x0200 s

/-- TIME_CONFIG (R91). -/
def doTimeConfig (v : View) (e : Inflight) (s : State) : State :=
  if descLen e 0 ≠ 420 then answer v e 0x0200 s
  else
    let r := applyTimeConfig (wordsAt (readBuffer e 0 s) 0 105) s
    answer v e r.1 r.2

/-- TIME_STATUS (R345). -/
def doTimeStatus (v : View) (e : Inflight) (s : State) : State :=
  if descLen e 0 < 524 then answer v e 0x0200 s
  else complete v e 0 0 (leBytes 4 524) (writeBuffer e 0 (timeStatusBytes s) s)

/-- CAL_STATUS (R345). -/
def doCalStatus (v : View) (e : Inflight) (s : State) : State :=
  if descLen e 0 < 3232 then answer v e 0x0200 s
  else complete v e 0 0 (leBytes 4 3232) (writeBuffer e 0 (calStatusBytes s) s)

/-- A pair record keeps to R291; the number of pair ports is judged where PAIRED is set. -/
def pairRecordOk (c0 c1 : Word) : Bool :=
  within (field c1 7 0) 1 168 && field c0 11 6 != field c0 22 17 &&
    (!bit c0 0 || within ((List.range 4).filter (fun i => bit c0 (13 + i))).length 1 2)

/-- PAIR_CONFIG (R291, R434). -/
def doPairConfig (v : View) (e : Inflight) (s : State) : State :=
  let c0 := wordAt e.payload 0
  let c1 := wordAt e.payload 4
  if ¬ pairRecordOk c0 c1 then answer v e 0x0200 s
  else
    complete v e 0 0 [] { s with pair := { s.pair with
      c0 := c0, c1 := c1, inStep := false, agreeing := 0, copied := none, adopt := none, seqAdoptDue := bit c0 0
      roleHeld := some (roleOf s) } }

/-- SWAP_ROLES (R301). -/
def doSwapRoles (v : View) (e : Inflight) (s : State) : State :=
  if ¬ (paired s ∧ s.pair.token ∧ s.pair.inStep) then answer v e 0x0103 s
  else
    let sw := match s.pair.swap with
      | .idle => Swap.due s.tb.now true
      | .due t _ => .due t true
      | .marked t _ j => .marked t true j
      | .acked t _ j => .acked t true j
      | .released t _ r => .released t true r
      | .handed t _ r => .handed t true r
    setStage v e .swapping { s with pair := { s.pair with swap := sw } }

/-- RUN_BIST joins the test queue (R309, R310). -/
def doRunBist (g : Nat) (v : View) (e : Inflight) (s : State) : State :=
  let t := wordAt e.payload 0
  let i := field t 15 8
  let ok : Bool := match field t 7 0 with
    | 0 => decide (i ≤ 12)
    | 1 => decide (i ≤ 67)
    | 2 => i == 0
    | _ => false
  if ¬ ok then answer v e 0x0200 s
  else if 8 ≤ s.bist.queue.length then answer v e 0x0104 s
  else
    let r : BistRun := ⟨e.hostSeq, t, 0, 0, false, 0, g + 2, BistValues.none, false, 0⟩
    bistHead 8 (setStage v e .testing { s with bist := { s.bist with queue := s.bist.queue ++ [r] } })

/-- SPOT_CONVERT (R57). -/
def doSpotConvert (v : View) (e : Inflight) (s : State) : State :=
  let c := leAt e.payload 0 1
  if 63 < c then answer v e 0x0200 s else complete v e 1 0 (spotResult s c) (count 163 1 s)

/-- Header checks of an image, steps 1 to 3 of R383: the status where one fails. -/
def headerFault (bs : List Byte) (len : Nat) : Option Half :=
  let revs := (slice bs 17 15).take (leAt bs 16 1)
  if leAt bs 0 4 ≠ ascii4 0x45 0x56 0x46 0x57 ∨ leAt bs 4 2 ≠ 1 ∨ leAt bs 12 4 ≠ len then some 0x0200
  else if digestOf (slice bs 32 97) ≠ Config.rootKeyHash then some 0x0500
  else if ¬ (within (leAt bs 16 1) 1 15 ∧ revs.contains (BitVec.ofNat 8 Config.silicon)) then some 0x0200
  else none

/-- The firmware slot that is not running. -/
def otherSlot (s : State) : Nat := 1 - s.trust.running

/-- Writes an activation record with the next SEQ over the older of the two in each mirror in service (R381). -/
def writeRecord (s : State) : State :=
  let t := s.trust
  let r : ActRecord := ⟨t.actSeq + 1, t.activeSlot, t.slotState, t.slotDigest, t.slotVersion, t.slotBg⟩
  { s with trust := { t with
    actSeq := t.actSeq + 1
    recordsA := if s.store.norA then r :: t.recordsA.take 1 else t.recordsA
    recordsB := if s.store.norB then r :: t.recordsB.take 1 else t.recordsB } }

/-- Writes one slot's part of the activation record (R381). -/
def recordSlot (n st : Nat) (d : BitVec 384) (ver : Word) (bg : Nat) (s : State) : State :=
  writeRecord { s with trust := { s.trust with
    slotState := modAt (fun _ => st) n s.trust.slotState
    slotDigest := modAt (fun _ => d) n s.trust.slotDigest
    slotVersion := modAt (fun _ => ver) n s.trust.slotVersion
    slotBg := modAt (fun _ => bg) n s.trust.slotBg } }

/-- Digest, version and generation of a slot. -/
def slotDigestOf (s : State) (n : Nat) : BitVec 384 := (s.trust.slotDigest[n]?).getD 0

/-- INSTALL_FW begins: steps 1 and 2 of R385. -/
def doInstall (v : View) (e : Inflight) (s : State) : State :=
  let len := descLen e 0
  let bs := readBuffer e 0 s
  if ¬ within len 65536 8388608 ∨ len % 65536 ≠ 0 then answer v e 0x0200 s
  else if installRunning s then answer v e 0x0104 s
  else
    match headerFault bs len with
    | some st => answer v e st (if st = 0x0500 then sticky 3 3 s else s)
    | none =>
      let n := otherSlot s
      let old := slotDigestOf s n
      let s := if s.trust.activeSlot = n then
          tally 0x0C02 [item n, BitVec.ofNat 64 (leNat ((digestBytes old).take 8))]
            { s with trust := { s.trust with activeSlot := s.trust.running, activationDue := false } }
        else s
      let s := recordSlot n 1 0 0 0 s
      keepRunning v e { s with trust := { s.trust with
        install := some 0, installResumed := false
        slotImage := modAt (fun _ => bs) n s.trust.slotImage } }

/-- The bytes that INSTALL_FW has written when its last block is verified: after a resumption, the blocks journaled before it
come from the earlier reading of the buffer (R386). -/
def installedBytes (e : Inflight) (s : State) : List Byte :=
  let now := readBuffer e 0 s
  let k := 65536 * s.trust.install.getD 0
  if s.trust.installResumed then ((s.trust.slotImage[otherSlot s]?).getD []).take k ++ now.drop k else now

/-- Signatures of an image, steps 4 and 5 of R383. -/
def imageSigned (s : State) (bs : List Byte) : Bool :=
  let t := bs.drop (bs.length - 256)
  let d := digestOf (bs.take (bs.length - 256))
  ecdsaVerify (slice bs 32 97) d (slice t 0 96) &&
    (!ownerSet s || (leAt t 96 1 == 1 && ecdsaVerify (ownerPub s) d (slice t 100 96)))

/-- The first check of R383 that the image in a slot fails, as far as the model holds the image: 1 header, 2 root key, 3 revision,
4 vendor's signature, 5 owner's. -/
def slotFault (s : State) (n : Nat) : Option Nat :=
  let bs := (s.trust.slotImage[n]?).getD []
  let t := bs.drop (bs.length - 256)
  let d := digestOf (bs.take (bs.length - 256))
  if bs.isEmpty ∨ (s.trust.slotState[n]?).getD 0 ≠ 2 then none
  else if leAt bs 0 4 ≠ ascii4 0x45 0x56 0x46 0x57 ∨ leAt bs 4 2 ≠ 1 ∨ leAt bs 12 4 ≠ bs.length ∨ bs.length % 65536 ≠ 0 then
    some 1
  else if digestOf (slice bs 32 97) ≠ Config.rootKeyHash then some 2
  else if (headerFault bs bs.length).isSome then some 3
  else if ecdsaVerify (slice bs 32 97) d (slice t 0 96) = false then some 4
  else if ownerSet s ∧ ¬ (ownerPackageWhole s ∧ imageSigned s bs) then some 5
  else none

/-- INSTALL_FW ends: steps 4 and 5 of R385. A resumed install waits for Bus Master Enable (R386). -/
def endInstall (v : View) (e : Inflight) (s : State) : State :=
  let n := otherSlot s
  if (s.view v).busMaster = false then
    (if s.trust.installResumed then s
    else answer v e 0x0104 (recordSlot n 0 0 0 0 { s with trust := { s.trust with install := none } }))
  else
    let bs := installedBytes e s
    let d := digestOf (bs.take (bs.length - 256))
    let res := digestBytes d ++ leBytes 1 n ++ zeros 3 ++ leBytes 4 (bs.length / 65536)
    let s := { s with trust := { s.trust with install := none, installResumed := false } }
    if imageSigned s bs then
      let s := recordSlot n 2 d (wordAt bs 8) (leAt bs 6 2) s
      complete v e 0 0 res { s with trust := { s.trust with
        slotImage := modAt (fun _ => bs) n s.trust.slotImage
        slotCosigned := modAt (fun _ => leAt bs (bs.length - 160) 1 == 1) n s.trust.slotCosigned } }
    else complete v e 0x0500 0 res (sticky 3 3 (recordSlot n 0 0 0 0 s))

/-- ACTIVATE_FW (R387). -/
def doActivate (v : View) (e : Inflight) (s : State) : State :=
  let n := leAt e.payload 0 1
  let ok := (s.trust.slotState[n]?).getD 0 == 2 && digestBytes (slotDigestOf s n) == slice e.payload 4 48 &&
    ((s.trust.slotBg[n]?).getD 0 == runningBg s || s.glb.gstate == .config)
  if 1 < n then answer v e 0x0200 s
  else if n = s.trust.running then answer v e 0x0501 s
  else if ¬ ok then answer v e 0x0502 s
  else
    let due := s.glb.gstate == .config || (paired s && !s.pair.token)
    answer v e 0 (writeRecord { s with trust := { s.trust with activeSlot := n, activationDue := due } })

/-- Bytes 0 to 391 of the quote (R392). -/
def quoteBody (e : Inflight) (s : State) : List Byte :=
  let n := leAt e.payload 0 1
  let cos := (s.trust.slotCosigned[s.trust.running]?).getD false
  let flags := boolNat s.trust.requireSigned + 2 * boolNat (ownerSet s) + 4 * boolNat cos +
    8 * boolNat (bit s.power.latch 3) + 16 * boolNat (bit s.power.latch 2) + 32 * s.trust.running + 64 * boolNat s.trust.fallback
  let slotD (i : Nat) : BitVec 384 := if (s.trust.slotState[i]?).getD 0 = 0 then 0 else slotDigestOf s i
  leBytes 4 (ascii4 0x41 0x54 0x51 0x54) ++ leBytes 2 1 ++ leBytes 2 488 ++ leBytes 1 n ++ zeros 3 ++
    (slice e.payload 4 n ++ zeros (64 - n)) ++ leBytes 8 serialNumber.toNat ++ wordBytes ((List.range 5).map (glbReg s)) ++
    wordBytes [wAt s.trust.slotVersion 0, wAt s.trust.slotVersion 1] ++ digestBytes (slotD 0) ++ digestBytes (slotD 1) ++
    digestBytes (packageDigest s) ++ digestBytes (programDigest s) ++
    (if ownerSet s then sha384 (ownerPub s) else zeros 48) ++ leBytes 4 flags ++ zeros 4 ++ leBytes 8 s.glb.sheaf ++
    leBytes 4 s.glb.opsec.toNat ++ leBytes 4 s.glb.pwrcyc.toNat ++ timeBytes s.tb.now

/-- ATTEST (R308, R392, R394). -/
def doAttest (v : View) (e : Inflight) (s : State) : State :=
  if ¬ within (leAt e.payload 0 1) 16 64 ∨ descLen e 68 < 4096 then answer v e 0x0200 s
  else if zeroised s then answer v e 0x0103 s
  else if s.bist.identityKey = false ∨ s.bist.sessionKeys = false then deferCommand true v e s
  else
    let b := quoteBody e s
    complete v e 0 0 (leBytes 4 488) (writeBuffer e 68 (b ++ identitySign b) s)

/-- The form and generation of an owner key package (R389): the status where one fails. -/
def ownerFault (s : State) (b : List Byte) : Option Half :=
  let cur := s.trust.fuses.length
  let gen := leAt b 8 4
  let same := decide (1 ≤ cur) && gen == cur && slice b 12 194 == slice s.trust.ownerPackage 12 194
  if leAt b 0 4 ≠ ascii4 0x45 0x56 0x4F 0x4B ∨ leAt b 4 2 ≠ 1 ∨ 16 ≤ leAt b 6 2 then some 0x0200
  else if ¬ (same ∨ (gen = cur + 1 ∧ gen ≤ 4)) then some 0x0200
  else if 1 ≤ cur ∧ ¬ ecdsaVerify (ownerPub s) (digestOf (slice b 0 208)) (slice b 208 96) then some 0x0201
  else none

/-- An accepted owner key package takes effect (R389, R391, R394). The keys that ZEROISE withheld are there again, but for a scan
that runs: then they come back with the others (R308). -/
def applyOwner (b : List Byte) (s : State) : State :=
  let cur := s.trust.fuses.length
  let flags := leAt b 6 2
  let fuses := if leAt b 8 4 = cur + 1 then s.trust.fuses ++ [digestOf (slice b 12 194)] else s.trust.fuses
  let was := zeroised s
  let latch := if flags.testBit 2 then clearBit (clearBit s.power.latch 3) 4
    else if cur = 0 then clearBit s.power.latch 3 else s.power.latch
  let back := was && flags.testBit 2 && !chainShifts s
  tally 0x0C04 [item (leAt b 8 4), item flags]
    { s with
      trust := { s.trust with
        fuses := fuses, ownerPackage := b, zeroiseOnTamper := flags.testBit 3
        requireSigned := s.trust.requireSigned && !flags.testBit 1 }
      power := { s.power with latch := latch }
      bist := { s.bist with
        identityKey := s.bist.identityKey || back, sessionKeys := s.bist.sessionKeys || back } }

/-- SET_OWNER_KEY (R389, R394). -/
def doSetOwner (v : View) (e : Inflight) (s : State) : State :=
  let b := readBuffer e 0 s
  if descLen e 0 ≠ 512 then answer v e 0x0200 s
  else if zeroised s ∧ ¬ (leAt b 6 2).testBit 2 then answer v e 0x0103 s
  else if zeroised s = false ∧ (s.bist.identityKey = false ∨ s.bist.sessionKeys = false) then deferCommand true v e s
  else
    match ownerFault s b with
    | some st => answer v e st s
    | none => complete v e 0 0 (sha384 (slice b 12 97)) (applyOwner b s)

/-- REQUIRE_SIGNED_SETTINGS (R391). -/
def doRequireSigned (v : View) (e : Inflight) (s : State) : State :=
  let unsigned := (s.cfg.package.map (fun p => !p.signed)).getD false || (s.logic.program.map (fun p => !p.signed)).getD false
  match leAt e.payload 0 1 with
  | 0 => answer v e (if s.trust.requireSigned then 0x0103 else 0) s
  | 1 =>
    if ownerSet s = false ∨ unsigned then answer v e 0x0103 s
    else answer v e 0 { s with trust := { s.trust with requireSigned := true } }
  | _ => answer v e 0x0200 s

/-- The copy FETCH_DUMP names, none where it has no valid header (R406). -/
def dumpCopy (s : State) (source : Nat) : Option Dump :=
  if source = 0 then s.dumpDdr else if s.store.emmcFailed then none else s.dumpEmmc

/-- DUMP_NO of the copy FETCH_DUMP names (R407). -/
def dumpNoOf (s : State) (source : Nat) : Option Nat := (dumpCopy s source).map (fun d => d.no)

/-- FETCH_DUMP begins (R343, R406): DEFERRED with RETRY_MS 50 while a dump is being written. -/
def doFetchDump (v : View) (e : Inflight) (s : State) : State :=
  let o := leAt e.payload 8 8
  let src := leAt e.payload 0 1
  if 1 < src ∨ o % 4 ≠ 0 then answer v e 0x0200 s
  else if s.dumpBusy.isSome then complete v e 0x0301 0 (leBytes 4 50) s
  else if src = 1 ∧ emmcBusy s then deferCommand false v e s
  else
    match dumpCopy s src with
    | some d => if d.bytes.length ≤ o then answer v e 0x0200 s else setStage v e (.fetching (dumpNoOf s src)) s
    | none => setStage v e (.fetching none) s

/-- The dump was replaced while FETCH_DUMP read it (R407). -/
def dumpReplaced (e : Inflight) (s : State) : Bool :=
  match e.stage with
  | .fetching no => decide (no ≠ dumpNoOf s (leAt e.payload 0 1))
  | _ => false

/-- FETCH_DUMP ends (R341, R406); DEFERRED where the dump was replaced meanwhile (R407). -/
def endFetchDump (v : View) (e : Inflight) (s : State) : State :=
  if s.dumpBusy.isSome ∨ dumpReplaced e s then complete v e 0x0301 0 (leBytes 4 50) s
  else if leAt e.payload 0 1 = 1 ∧ emmcBusy s then deferCommand false v e s
  else
    match dumpCopy s (leAt e.payload 0 1) with
    | none => complete v e 0 0 (leBytes 8 0 ++ leBytes 4 0) s
    | some d =>
      let rest := d.bytes.drop (leAt e.payload 8 8)
      let out := rest.take (descLen e 16)
      complete v e 0 (if out.length < rest.length then 8 else 0) (leBytes 8 d.bytes.length ++ leBytes 4 out.length)
        (writeBuffer e 16 out s)

end Sys2Proof.Machine
end

