-- ==== Sys2Proof/Machine/Execution.lean ====
section
/-!
DEFINITION. The path of a command (16_mailbox.md): doorbells taken, acceptance, execution in order, the partner's part of it
(R294), the return of the mailbox (R354), and the register writes that ring a doorbell.
-/
namespace Sys2Proof.Machine

/-- Commands that only read or fetch: they run again in full after a start (R354). -/
def isRead (op : Half) : Bool := [0x0101, 0x0102, 0x0401, 0x0402, 0x0501, 0x0602, 0x0803, 0x0B01].contains op.toNat

/-- The commands whose effect falls on a boundary (R354). -/
def boundaryApplied (op : Half) : Bool :=
  [0x0202, 0x0203, 0x0302, 0x0303, 0x0304, 0x0305, 0x0502, 0x0404, 0x0702].contains op.toNat

/-- Ordered commands (R338), mirrored ones (R294). -/
def isOrdered (op : Half) : Bool := (commandSpec op).any (fun c => c.ordered)
def isMirrored (op : Half) : Bool := (commandSpec op).any (fun c => c.mirrored)

/-- An earlier command x of the view holds back command e (R338): an ordered one whose effect is still to come, at the standby a
SWAP_ROLES of the token holder too. A command that waits for a boundary holds back those without one; a pending COMMIT_AT_SHEAF
does not (log 29). -/
def holdsBack (e x : Inflight) : Bool :=
  let earlier := decide (x.hostSeq.toNat < e.hostSeq.toNat)
  let order := isOrdered e.opcode && isOrdered x.opcode && (match x.stage with
    | .running => true
    | .awaitOrder _ => true
    | .swapping => true
    | .atPartner => x.remote && x.opcode == 0x0702
    | .awaitBoundary _ => !boundaryApplied e.opcode && x.opcode != 0x0202
    | _ => false)
  let install := e.opcode == 0x0902 && x.opcode == 0x0901 && x.stage == .running
  earlier && (order || install)

/-- An earlier command of the view holds back command e (R338). -/
def blocked (s : State) (v : View) (e : Inflight) : Bool := (s.view v).inflight.any (holdsBack e)

/-- The effect of a command without a boundary argument. -/
def runPlain (v : View) (e : Inflight) (s : State) : State :=
  match e.opcode.toNat with
  | 0x0101 => doGetInfo v e s
  | 0x0102 => doGetCerts v e s
  | 0x0201 => doStage v e s
  | 0x0204 => doSetLpipe v e s
  | 0x0301 => doLoad v e s
  | 0x0401 => doListRecords v e s
  | 0x0402 => doFetchRecord v e s
  | 0x0403 => doReleaseRecord v e s
  | 0x0501 => doFetchTally v e s
  | 0x0601 => doTimeConfig v e s
  | 0x0602 => doTimeStatus v e s
  | 0x0701 => doPairConfig v e s
  | 0x0702 => doSwapRoles v e s
  | 0x0802 => doSpotConvert v e s
  | 0x0803 => doCalStatus v e s
  | 0x0901 => doInstall v e s
  | 0x0902 => doActivate v e s
  | 0x0A01 => doAttest v e s
  | 0x0A02 => doSetOwner v e s
  | 0x0A03 => doRequireSigned v e s
  | 0x0B01 => doFetchDump v e s
  | _ => s

/-- The effect of a command accepted in the sheaf period g. -/
def runEffect (g : Nat) (v : View) (e : Inflight) (s : State) : State :=
  match e.opcode.toNat with
  | 0x0202 => doCommit g v e s
  | 0x0203 => doSelectGroup g v e s
  | 0x0302 => doParamWrite g v e s
  | 0x0303 => doForce g v e s
  | 0x0304 => doUnforce g v e s
  | 0x0305 => doRestartLogic g v e s
  | 0x0404 => doManualTrigger g v e s
  | 0x0502 => doConfigSnapsets g v e s
  | 0x0801 => doRunBist g v e s
  | _ => runPlain v e s

/-- Executes a command whose turn has come: its state check (R342; a command that runs again after a reset is cancelled by it,
R354), Bus Master Enable (R316), its effect. -/
def runNow (g : Nat) (v : View) (e : Inflight) (s : State) : State :=
  match commandSpec e.opcode with
  | none => s
  | some c =>
    if c.states.contains s.glb.gstate = false then answer v e (if e.resumed then 0x0109 else 0x0103) s
    else if c.desc.isSome ∧ e.remote = false ∧ (s.view v).busMaster = false then answer v e 0x0104 s
    else runEffect g v e s

/-- Executes an accepted command, or lets it wait for its turn (R338). -/
def execute (g : Nat) (v : View) (e : Inflight) (s : State) : State :=
  if blocked s v e then setStage v e (.awaitOrder g) s else runNow g v e s

/-- The first command of a view that waits for its turn and may run: with the period of its acceptance. -/
def readyCommand (s : State) (v : View) : Option (Nat × Inflight) :=
  (s.view v).inflight.findSome? (fun e => match e.stage with
    | .awaitOrder g => if blocked s v e then none else some (g, e)
    | _ => none)

/-- Commands of a view whose turn has come are executed, n at most (R338). -/
def wakeView (v : View) : Nat → State → State
  | 0, s => s
  | n + 1, s =>
    match readyCommand s v with
    | some (g, e) => wakeView v n (runNow g v e (setStage v e .running s))
    | none => s

/-- Commands whose turn has come (R338): PF1 holds no ordered command. -/
def wake (s : State) : State := if s.power.online then wakeView .pf0 s.pf0.inflight.length s else s

/-- A doorbell is taken (R334, R335). -/
def takeBell (b : Bell) (s : State) : State :=
  let sl := slotOf (s.view b.view) b.slot
  match bellChecks s b.view b.slot with
  | .reject st => rejectNow b.view b.slot sl.hostSeq st s
  | .replay c => replayNow b.view b.slot c s
  | .accepted q => acceptedNow b.view b.slot sl.hostSeq q s
  | .journal e => addInflight b.view e s
  | .plain e =>
    let e := { e with stage := .running }
    execute s.glb.sheaf b.view e (addInflight b.view e s)

/-- Doorbells are taken in the order written, n at most, while the mailbox takes them and no command is being journaled. -/
def takeDoorbells : Nat → State → State
  | 0, s => s
  | n + 1, s =>
    if takesBells s ∧ journalBusy s = false then
      match s.bells with
      | [] => s
      | b :: rest => takeDoorbells n (takeBell b { s with bells := rest })
    else s

/-- What the supervisor does after every event: commands whose turn has come, then doorbells. -/
def settle (s : State) : State :=
  let s := wake s
  takeDoorbells s.bells.length s

/-- Host software submits a command (R333). -/
def submit (c : Submit) (opcode : Half) (bufAt : Option Nat) (s : State) : State := settle (writeSlot c opcode bufAt s)

/-- A command is accepted (R336): N, ENGINE_SEQ, the journal's window (R337), the trace message of R396; then it is executed
here, or by the standby under FLAGS.PARTNER (R294). -/
def accept (v : View) (e : Inflight) (s : State) : State :=
  let q := s.store.engineSeq + 1
  let a := { e with engineSeq := q, stage := .running }
  let x := s.view v
  let s := s.setView v { x with
    nextSeq := e.hostSeq + 1
    inflight := x.inflight.map (fun y => if sameCommand y e then a else y)
    completed := x.completed.filter (fun d => decide (e.hostSeq.toNat < d.hostSeq.toNat + 64)) }
  let s := { s with store := { s.store with engineSeq := q } }
  let s := traceMsg 0x20
    (beBytes 1 (viewByte v) ++ beBytes 4 (e.hostSeq.truncate 32 : Word).toNat ++ beBytes 4 (q.truncate 32 : Word).toNat ++
      beBytes 2 e.opcode.toNat ++ traceTs s) s
  if v = .pf0 ∧ partnerFlag e.flags then setStage v a .atPartner s else execute s.glb.sheaf v a s

/-- COMMAND_ACCEPTANCE: the journal record of the command in a slot is programmed (R336, R279, R294). Under PFAIL_N it is
a mark begun within the 0.5 ms of R360, since no doorbell is taken any more. -/
def acceptance (v : View) (slot : Nat) (failA failB : Bool) (s : State) : State :=
  match inSlot s v slot with
  | none => s
  | some e =>
    if e.stage ≠ .journaling ∨ s.power.online = false then s
    else
      let s := retireMirrors failA failB 0 s
      if anyMirror s then
        (if v = .pf0 ∧ paired s ∧ s.pair.token then setStage v e .awaitPartner s else accept v e s)
      else if mirrorless e.opcode then runNow s.glb.sheaf v { e with stage := .running } (setStage v e .running s)
      else rejectNow v slot e.hostSeq 0x0107 (dropInflight v e s)

/-- A command of the pair was accepted alone (R294): the pair is not in step; one entry for a run of such commands. -/
def markAlone (h : Quad) (s : State) : State :=
  let s := if s.pair.alone then s else tally 0x0A01 [h] s
  { s with pair := { s.pair with alone := true, inStep := false, agreeing := 0 } }

/-- The standby acknowledges a command, journals a completion, or sends the completion of a command under FLAGS.PARTNER
(R294, R337). -/
def partnerAck (slot : Nat) (done : Option PairDone) (s : State) : State :=
  match inSlot s .pf0 slot with
  | none => s
  | some e =>
    if s.power.online = false then s
    else
      match e.stage, done with
      | .awaitPartner, none => accept .pf0 e { s with pair := { s.pair with alone := false } }
      | .completing st cf r, none => finish .pf0 e st cf r s
      | .atPartner, some d => finish .pf0 e d.status d.cflags d.result s
      | _, _ => s

/-- The standby did not answer within 5 ms (R294, R337). A command under FLAGS.PARTNER that is accepted alone has nobody to
execute it (log 30). -/
def ackTimeout (slot : Nat) (s : State) : State :=
  match inSlot s .pf0 slot with
  | none => s
  | some e =>
    if s.power.online = false then s
    else
      match e.stage with
      | .awaitPartner =>
        let s := accept .pf0 e (markAlone e.hostSeq s)
        (match inSlot s .pf0 slot with
          | some a => if a.stage = .atPartner then finish .pf0 a 0x0104 0 [] s else s
          | none => s)
      | .completing st cf r => finish .pf0 e st cf r (markAlone e.hostSeq s)
      | _ => s

/-- The standby's part of a PF0 command (R294): its journal under the same HOST_SEQ and ENGINE_SEQ, and its execution, where
the command is mirrored or carries FLAGS.PARTNER. -/
def mirrorCommand (c : Submit) (opcode : Half) (engineSeq : Quad) (g : Nat) (s : State) : State :=
  let known := hasCompletion s .pf0 c.hostSeq || s.pf0.inflight.any (fun e => e.remote && e.hostSeq == c.hostSeq)
  match commandSpec opcode with
  | none => s
  | some r =>
    if known ∨ anyMirror s = false then s
    else
      let e : Inflight :=
        ⟨c.slot, opcode, c.flags, c.hostSeq, slice c.payload 0 r.len, engineSeq, .running, true, false⟩
      let s := match r.desc with
        | some o => { s with hostMem := memWrite s.hostMem (leAt c.payload o 8) c.buffer }
        | none => s
      let q := if s.store.engineSeq < engineSeq then engineSeq else s.store.engineSeq
      let s := { s with store := { s.store with engineSeq := q } }
      let s := addInflight .pf0 e { s with pf0 := { s.pf0 with nextSeq := c.hostSeq + 1 } }
      if r.mirrored ∨ partnerFlag c.flags then execute g .pf0 e s else setStage .pf0 e .atPartner s

/-- The standby journals the token holder's completion (R337). -/
def mirrorDone (c : Submit) (opcode : Half) (engineSeq : Quad) (d : PairDone) (s : State) : State :=
  let s := journalDone .pf0 ⟨c.hostSeq, opcode, d.status, d.cflags, engineSeq, d.result⟩ s
  match findInflight s .pf0 (fun e => e.remote && e.hostSeq == c.hostSeq && e.stage == .atPartner) with
  | some e => dropInflight .pf0 e s
  | none => s

/-- PAIR_COMMAND_MIRROR: a command of the token holder, or its completion, arrives over the pair link. -/
def pairMirror (c : Submit) (opcode : Half) (engineSeq : Quad) (g : Nat) (done : Option PairDone) (s : State) : State :=
  if ¬ (paired s ∧ s.power.online ∧ s.power.pfail = false) then s
  else
    match done with
    | none => if s.pair.token then s else mirrorCommand c opcode engineSeq g s
    | some d => mirrorDone c opcode engineSeq d s

/-- A long-running command has moved its data, written its storage or finished its check. -/
def endEffect (v : View) (e : Inflight) (s : State) : State :=
  match e.opcode.toNat with
  | 0x0201 => endStage v e s
  | 0x0301 => endLoad v e s
  | 0x0401 => endListRecords v e s
  | 0x0402 => endFetchRecord v e s
  | 0x0501 => endFetchTally v e s
  | 0x0901 => endInstall v e s
  | 0x0B01 => endFetchDump v e s
  | _ => s

/-- COMMAND_EXECUTION_END: the command of a slot, of this view or mirrored, that runs. A block of INSTALL_FW that failed twice in
one mirror takes that mirror out of service (R279, R385). While the mailbox is offline nothing
completes (R354); without Bus Master Enable nothing moves (R316). -/
def executionEnd (v : View) (x : Ended) (s : State) : State :=
  let slot := x.slot
  let run (remote : Bool) : Option Inflight :=
    findInflight s v (fun e => e.slot == slot && e.remote == remote && stageRuns e.stage)
  match (run false).orElse (fun _ => run true) with
  | none => s
  | some e =>
    if s.power.online = false then s
    else if e.opcode ≠ 0x0901 ∧ e.remote = false ∧ (s.view v).busMaster = false then answer v e 0x0104 s
    else endEffect v e (if e.opcode = 0x0901 then retireMirrors x.failA x.failB 0 s else s)

/-- The number in the slot of a doorbell. -/
def bellSeq (s : State) (b : Bell) : Nat := (slotOf (s.view b.view) b.slot).hostSeq.toNat

/-- Puts a held doorbell in its place by HOST_SEQ. -/
def insertBell (s : State) (b : Bell) : List Bell → List Bell
  | [] => [b]
  | c :: rest => if bellSeq s b < bellSeq s c then b :: c :: rest else c :: insertBell s b rest

/-- The doorbells that the mailbox finds on its return: those not taken before, then the held ones by HOST_SEQ (R354). -/
def sortBells (s : State) : List Bell :=
  s.bells.filter (fun b => !b.held) ++ (s.bells.filter (fun b => b.held)).foldl (fun l b => insertBell s b l) []

/-- 64 KiB blocks of an install that the journal shows as verified: how far it came is not known to the model. -/
def resumeInstall (v : View) (e : Inflight) (s : State) : State :=
  let (w, s) := takeFree s
  let x := s.view v
  sticky 3 2 { s.setView v { x with
      inflight := x.inflight.map (fun y => if sameCommand y e then { y with resumed := true } else y) } with
    trust := { s.trust with
      install := some (max (s.trust.install.getD 0) (w.toNat % (descLen e 0 / 65536 + 1))), installResumed := true } }

/-- A command that a reset cut off runs again when the mailbox returns (R354): a read in full whatever the state, any other where
the state permits it, else RESTART_CANCELLED. -/
def runAgain (v : View) (e : Inflight) (s : State) : State :=
  let e := { e with stage := .running, resumed := true }
  let s := s.setView v { s.view v with
    inflight := (s.view v).inflight.map (fun y => if sameCommand y e then e else y) }
  if isRead e.opcode then
    (if (commandSpec e.opcode).any (fun c => c.desc.isSome) ∧ e.remote = false ∧ (s.view v).busMaster = false then
      answer v e 0x0104 s
    else runEffect s.glb.sheaf v e s)
  else execute s.glb.sheaf v e s

/-- A command's stage when the mailbox returns (R354): a decided one completes, INSTALL_FW resumes, one that a reset cut off runs
again. -/
def resolveOne (v : View) (e : Inflight) (s : State) : State :=
  match e.stage with
  | .decided st cf r => complete v e st cf r s
  | .running => if e.opcode = 0x0901 then resumeInstall v e s else s
  | .rerun => runAgain v e s
  | _ => s

/-- What the mailbox posts on its return, and the held doorbells after it (R354, R353): unresolved commands, MAILBOX_RETURNED, the
events that arose meanwhile. -/
def mailboxPosts (s : State) : State :=
  let s := setOnline true s
  let s := if zeroised s ∨ chainShifts s ∨ s.bist.scanEnd.isSome then s
    else { s with bist := { s.bist with sessionKeys := true } }
  let s := s.pf0.inflight.foldl (fun s e => resolveOne .pf0 e s) s
  let s := s.pf1.inflight.foldl (fun s e => resolveOne .pf1 e s) s
  let s := postEvent 0x0E05 (BitVec.ofNat 64 (FMap.get s.cnt (0 : Nat) 187)) s
  let held := s.power.heldEvents
  let s := { s with power := { s.power with heldEvents := [] } }
  let s := held.foldl (fun s p => postEvent p.1 p.2 s) s
  settle { s with bells := sortBells s }

/-- The mailbox returns (R354). -/
def mailboxReturns (s : State) : State :=
  let p := s.power
  if p.online ∨ p.parked ∨ p.inReset ∨ s.glb.gstate = .test then s
  else together mailboxPosts s

/-- Bus Master Enable stayed clear for 600 s after the mailbox returned (R386). -/
def installTimeout (s : State) : State :=
  match findInflight s .pf0 (fun e => e.opcode == 0x0901 && e.resumed && e.stage == .running) with
  | some e =>
    if s.pf0.busMaster ∨ s.power.online = false ∨ s.trust.installResumed = false then s
    else
      answer .pf0 e 0x0109
        (recordSlot (otherSlot s) 0 0 0 0 { s with trust := { s.trust with install := none, installResumed := false } })
  | none => s

/-- A write to MBX_DB (R323, R333): a slot that the engine owns already is ignored. -/
def ringDoorbell (v : View) (slot : Nat) (s : State) : State :=
  if slotCount v ≤ slot ∨ engineOwns s v slot then s
  else settle { s with bells := s.bells ++ [⟨v, slot, !s.power.online⟩] }

/-- The mask bit of an MSI-X vector, in the view's BAR4 table (R315, R319). -/
def vectorControl (v : View) (n : Nat) (w : Word) (s : State) : State :=
  if bit w 0 then s.setView v { s.view v with msixMask := setBit (s.view v).msixMask n } else msixUnmask v n s

/-- A write of one word of the MSI-X table (R315, R319). -/
def msixWrite (v : View) (o : Nat) (w : Word) (s : State) : State :=
  if o % 16 = 12 then vectorControl v (o / 16) w s
  else s.setView v { s.view v with msixTable := (s.view v).msixTable.set (o / 4) w }

/-- A write of one 32-bit word (R317, R318, R320). Offsets from 0x100000 name BAR4 (log 31). -/
def writeWord (v : View) (o : Nat) (w : Word) (s : State) : State :=
  let x := s.view v
  if o = 0x1000 then ringDoorbell v (field w 5 0) s
  else if o = 0x1008 then tailWrite v w s
  else if o = 0x1010 then s.setView v { x with cplEn := bit w 0, statEn := bit w 1 }
  else if o = 0x2000 then snapshotWrite v w s
  else if o = 0x2010 then s.setView v { x with snpPage := w.truncate 2 }
  else if within o 0x3000 0x300C then stickyWrite v ((o - 0x3000) / 4) w s
  else if within o 0x3020 0x302C then s.setView v { x with stkIrqEn := modAt (fun _ => w) ((o - 0x3020) / 4) x.stkIrqEn }
  else if within o 0x8000 (0x8000 + 256 * slotCount v - 4) then slotWrite v (o - 0x8000) w s
  else if within o 0x100000 0x1001FC then msixWrite v (o - 0x100000) w s
  else s

/-- REGISTER_WRITE: only 4 bytes at an aligned offset take effect (R317), while BAR access is possible (R316). -/
def registerWrite (v : View) (o size : Nat) (w : Word) (s : State) : State :=
  if size ≠ 4 ∨ o % 4 ≠ 0 ∨ barOpen s v = false then s else writeWord v o w s

/-- GET_INFO. -/
def execGetInfo (c : Submit) (s : State) : Host.Outcome State Fault Refusal := .next (submit c 0x0101 none s)
/-- GET_CERTS. -/
def execGetCerts (c : Submit) (s : State) : Host.Outcome State Fault Refusal := .next (submit c 0x0102 (some 0) s)
/-- STAGE_SETTINGS. -/
def execStageSettings (c : Submit) (s : State) : Host.Outcome State Fault Refusal := .next (submit c 0x0201 (some 0) s)
/-- COMMIT_AT_SHEAF. -/
def execCommitAtSheaf (c : Submit) (s : State) : Host.Outcome State Fault Refusal := .next (submit c 0x0202 none s)
/-- SELECT_GROUP. -/
def execSelectGroup (c : Submit) (s : State) : Host.Outcome State Fault Refusal := .next (submit c 0x0203 none s)
/-- SET_LPIPE. -/
def execSetLpipe (c : Submit) (s : State) : Host.Outcome State Fault Refusal := .next (submit c 0x0204 none s)
/-- LOAD_PROGRAM. -/
def execLoadProgram (c : Submit) (s : State) : Host.Outcome State Fault Refusal := .next (submit c 0x0301 (some 0) s)
/-- PARAM_WRITE. -/
def execParamWrite (c : Submit) (s : State) : Host.Outcome State Fault Refusal := .next (submit c 0x0302 none s)
/-- FORCE. -/
def execForce (c : Submit) (s : State) : Host.Outcome State Fault Refusal := .next (submit c 0x0303 none s)
/-- UNFORCE. -/
def execUnforce (c : Submit) (s : State) : Host.Outcome State Fault Refusal := .next (submit c 0x0304 none s)
/-- RESTART_LOGIC. -/
def execRestartLogic (c : Submit) (s : State) : Host.Outcome State Fault Refusal := .next (submit c 0x0305 none s)
/-- LIST_RECORDS. -/
def execListRecords (c : Submit) (s : State) : Host.Outcome State Fault Refusal := .next (submit c 0x0401 (some 16) s)
/-- FETCH_RECORD. -/
def execFetchRecord (c : Submit) (s : State) : Host.Outcome State Fault Refusal := .next (submit c 0x0402 (some 16) s)
/-- RELEASE_RECORD. -/
def execReleaseRecord (c : Submit) (s : State) : Host.Outcome State Fault Refusal := .next (submit c 0x0403 none s)
/-- MANUAL_TRIGGER. -/
def execManualTrigger (c : Submit) (s : State) : Host.Outcome State Fault Refusal := .next (submit c 0x0404 none s)
/-- FETCH_TALLY. -/
def execFetchTally (c : Submit) (s : State) : Host.Outcome State Fault Refusal := .next (submit c 0x0501 (some 16) s)
/-- CONFIG_SNAPSETS. -/
def execConfigSnapsets (c : Submit) (s : State) : Host.Outcome State Fault Refusal := .next (submit c 0x0502 (some 0) s)
/-- TIME_CONFIG. -/
def execTimeConfig (c : Submit) (s : State) : Host.Outcome State Fault Refusal := .next (submit c 0x0601 (some 0) s)
/-- TIME_STATUS. -/
def execTimeStatus (c : Submit) (s : State) : Host.Outcome State Fault Refusal := .next (submit c 0x0602 (some 0) s)
/-- PAIR_CONFIG. -/
def execPairConfig (c : Submit) (s : State) : Host.Outcome State Fault Refusal := .next (submit c 0x0701 none s)
/-- SWAP_ROLES. -/
def execSwapRoles (c : Submit) (s : State) : Host.Outcome State Fault Refusal := .next (submit c 0x0702 none s)
/-- RUN_BIST. -/
def execRunBist (c : Submit) (s : State) : Host.Outcome State Fault Refusal := .next (submit c 0x0801 none s)
/-- SPOT_CONVERT. -/
def execSpotConvert (c : Submit) (s : State) : Host.Outcome State Fault Refusal := .next (submit c 0x0802 none s)
/-- CAL_STATUS. -/
def execCalStatus (c : Submit) (s : State) : Host.Outcome State Fault Refusal := .next (submit c 0x0803 (some 0) s)
/-- INSTALL_FW. -/
def execInstallFw (c : Submit) (s : State) : Host.Outcome State Fault Refusal := .next (submit c 0x0901 (some 0) s)
/-- ACTIVATE_FW. -/
def execActivateFw (c : Submit) (s : State) : Host.Outcome State Fault Refusal := .next (submit c 0x0902 none s)
/-- ATTEST. -/
def execAttest (c : Submit) (s : State) : Host.Outcome State Fault Refusal := .next (submit c 0x0A01 (some 68) s)
/-- SET_OWNER_KEY. -/
def execSetOwnerKey (c : Submit) (s : State) : Host.Outcome State Fault Refusal := .next (submit c 0x0A02 (some 0) s)
/-- REQUIRE_SIGNED_SETTINGS. -/
def execRequireSignedSettings (c : Submit) (s : State) : Host.Outcome State Fault Refusal :=
  .next (submit c 0x0A03 none s)
/-- FETCH_DUMP. -/
def execFetchDump (c : Submit) (s : State) : Host.Outcome State Fault Refusal := .next (submit c 0x0B01 (some 16) s)
/-- BAD_OPCODE_DOORBELL: a doorbell whose slot carries any opcode. -/
def execBadOpcodeDoorbell (c : Submit) (opcode : Half) (s : State) : Host.Outcome State Fault Refusal :=
  .next (submit c opcode none s)
/-- COMMAND_ACCEPTANCE. -/
def execCommandAcceptance (view : View) (slot : Nat) (failA failB : Bool) (s : State) : Host.Outcome State Fault Refusal :=
  .next (settle (acceptance view slot failA failB s))
/-- COMMAND_EXECUTION_END. -/
def execCommandExecutionEnd (view : View) (ended : Ended) (s : State) : Host.Outcome State Fault Refusal :=
  .next (settle (executionEnd view ended s))
/-- PAIR_COMMAND_MIRROR. -/
def execPairCommandMirror (c : Submit) (opcode : Half) (engineSeq : Quad) (boundary : Nat) (done : Option PairDone)
    (s : State) : Host.Outcome State Fault Refusal := .next (settle (pairMirror c opcode engineSeq boundary done s))
/-- PAIR_COMMAND_ACK. -/
def execPairCommandAck (slot : Nat) (done : Option PairDone) (s : State) : Host.Outcome State Fault Refusal :=
  .next (settle (partnerAck slot done s))
/-- PAIR_ACK_TIMEOUT. -/
def execPairAckTimeout (slot : Nat) (s : State) : Host.Outcome State Fault Refusal := .next (settle (ackTimeout slot s))
/-- MAILBOX_RETURN. -/
def execMailboxReturn (s : State) : Host.Outcome State Fault Refusal := .next (mailboxReturns s)
/-- INSTALL_RESUME_TIMEOUT. -/
def execInstallResumeTimeout (s : State) : Host.Outcome State Fault Refusal := .next (settle (installTimeout s))
/-- REGISTER_WRITE. -/
def execRegisterWrite (view : View) (offset size : Nat) (value : Word) (s : State) : Host.Outcome State Fault Refusal :=
  .next (registerWrite view offset size value s)

end Sys2Proof.Machine
end

