-- ==== Sys2Proof/Machine/Stores.lean ====
section
/-!
DEFINITION. The non-volatile writers: Tally entries and the last-resort ring (12_tally.md R276 to R280), the retained log,
GLB_OPSEC and the power-fail flush (18_startup_power.md R375 to R377).
-/
namespace Sys2Proof.Machine

/-- The newest entries that the log keeps readable (R276: at least as many). Log 32. -/
def tallyKept : Nat := 16128

/-- Puts an accepted entry into the log, the highest number first. -/
def insertEntry (t : TallyEntry) : List TallyEntry → List TallyEntry
  | [] => [t]
  | u :: rest => if u.seq.toNat < t.seq.toNat then t :: u :: rest else u :: insertEntry t rest

/-- An entry is accepted under a number (R276), with the trace message of R396. -/
def logEntry (e : TallyEvent) (seq : Quad) (eflags : Word) (s : State) : State :=
  let s := traceMsg 0x30 (beBytes 8 seq.toNat ++ beBytes 2 e.event.toNat ++ traceTs s) s
  let both := s.store.norA && s.store.norB
  { s with tally := { s.tally with
    single := if both then s.tally.single else seq :: s.tally.single
    log := (insertEntry ⟨e, seq, eflags, 0⟩ s.tally.log).take tallyKept } }

/-- The number after n, where n + 1 went to the STORE_FAILOVER entry that stands before entry n (R279). -/
def nextNumber (log : List TallyEntry) (n : Quad) : Quad := if log.any (fun t => t.seq == n + 1) then n + 2 else n + 1

/-- The head of the queue is accepted (R276): STORE_FAILOVER leaves the failed entry its number (R279). -/
def acceptEntry (e : TallyEvent) (rest : List TallyEvent) (s : State) : State :=
  let n := s.tally.nextSeq
  let s := { s with tally := { s.tally with queue := rest } }
  let failed := (e.detail[1]?).getD 0
  if e.event = evStoreFailover ∧ failed = n then logEntry e (n + 1) 1 s
  else
    let s := logEntry e n (if e.event = evStoreFailover then 1 else 0) s
    { s with tally := { s.tally with nextSeq := nextNumber s.tally.log n } }

/-- One entry enters the last-resort ring of 64 (R280). -/
def ringEntry (e : TallyEvent) (s : State) : State :=
  let t : TallyEntry := ⟨e, 0xFFFFFFFFFFFFFFFF, 4, BitVec.ofNat 32 s.tally.nextRing⟩
  let s := if 64 ≤ s.tally.ring.length then count 183 1 s else s
  { s with tally := { s.tally with ring := (t :: s.tally.ring).take 64, nextRing := s.tally.nextRing + 1 } }

/-- With no mirror in service the entries whose snapshot is filled go to the ring (R280), n at most. -/
def ringFlush : Nat → State → State
  | 0, s => s
  | n + 1, s =>
    if anyMirror s then s
    else
      match s.tally.queue with
      | e :: rest => if e.filled then ringFlush n (ringEntry e { s with tally := { s.tally with queue := rest } }) else s
      | [] => s

/-- While no boundary runs any more, snapshots show the last commit (R273, log 33). -/
def fillStopped (s : State) : State := if s.glb.gstate = .halted then fillSnapshots s.glb.sheaf s else s

/-- Under PFAIL_N the one entry in progress is finished (R278). -/
def finishEntry (s : State) : State :=
  if s.power.pfail then { s with power := { s.power with lastEntry := false } } else s

/-- TALLY_ENTRY_WRITTEN: the oldest entry, its snapshot filled, is written to the mirrors in service (R276); a mirror that
failed twice goes out of service first, and the STORE_FAILOVER entry waits for its own snapshot (R273, R279, R280). Under
PFAIL_N only the entry in progress is (R278). -/
def tallyWritten (failA failB : Bool) (s : State) : State :=
  let s := fillStopped s
  match s.tally.queue with
  | [] => s
  | e :: _ =>
    if e.filled = false ∨ s.power.inReset ∨ (s.power.pfail ∧ s.power.lastEntry = false) then s
    else
      let s := finishEntry s
      let s := retireMirrors failA failB s.tally.nextSeq s
      let s := fillStopped s
      if anyMirror s then
        match s.tally.queue with
        | [] => s
        | h :: rest => if h.filled then dropSummary (acceptEntry h rest s) else s
      else dropSummary (ringFlush s.tally.queue.length s)

/-- Merges deltas into a retained image by key. -/
def mergeRetained (deltas image : List (Nat × Word × Half)) : List (Nat × Word × Half) :=
  deltas ++ image.filter (fun x => deltas.all (fun y => y.1 != x.1))

/-- A checkpoint holds all retained points and the program digest (R376). -/
def checkpoint (k : Nat) (s : State) : State :=
  { s with store := { s.store with
    retainedImage := retainedImage s, retainedDigest := programDigest s, retainedSheaf := k
    retainedAdvance := 0, retainedPending := [] } }

/-- A batch is written (R376): the log advances by 8 bytes a delta, and 512 KiB bring a checkpoint. -/
def batchWritten (s : State) : State :=
  let d := s.store.retainedPending
  if d.isEmpty ∨ anyMirror s = false ∨ s.power.inReset ∨ s.power.pfail then s
  else
    let st := s.store
    let s := { s with store := { st with
      retainedImage := mergeRetained d st.retainedImage, retainedSheaf := st.pendingSheaf, retainedPending := []
      retainedAdvance := st.retainedAdvance + 8 * d.length } }
    if 524288 ≤ s.store.retainedAdvance then
      { s with store := { s.store with retainedAdvance := 0, retainedDigest := programDigest s } }
    else s

/-- OPSEC_TICK: an operating second (R322, R377). -/
def opsecTick (s : State) : State :=
  if s.power.powered = false then s
  else
    let n := s.glb.opsec + 1
    let st := if n.toNat % 64 = 0 ∧ anyMirror s ∧ s.power.inReset = false then { s.store with opsecStored := n } else s.store
    { s with glb := { s.glb with opsec := n }, store := st }

/-- Records that a power loss loses: closed and not accepted, and open (R266). -/
def unaccepted (s : State) : Nat := s.granary.closed.length + (s.granary.opened.filter (fun r => !r.done)).length

/-- FLUSH_MARKER_VERIFIED: the final batch and its marker stand in the mirrors in service (R375, R376); what changed after the
assertion stays pending, and nothing is lost where PFAIL_N is released. A final batch of more than 128 deltas is not honoured: the
image to restore stays that of the batch before it. The marker keeps the numbers that follow the Tally entries and the records
waiting: those that are not accepted by the next start are lost (R266, R278). -/
def flushVerified (s : State) : State :=
  match s.store.flush with
  | some (k, ops, d) =>
    if s.power.inReset ∨ anyMirror s = false then s
    else
      let st := s.store
      let kept := decide (d.length ≤ 128)
      { s with store := { st with
        retainedImage := if kept then mergeRetained d st.retainedImage else st.retainedImage
        retainedSheaf := if kept then k else st.retainedSheaf
        retainedPending := if kept then st.retainedPending.filter (fun x => !d.contains x) else st.retainedPending
        opsecStored := ops, flush := none
        flushMarker := some (k, ops, d.length, s.tally.nextSeq.toNat + s.tally.queue.length,
          s.granary.nextNo + unaccepted s) } }
  | none => s

/-- TALLY_ENTRY_WRITTEN. -/
def execTallyEntryWritten (failA failB : Bool) (s : State) : Host.Outcome State Fault Refusal :=
  .next (tallyWritten failA failB s)
/-- RETAINED_BATCH_WRITTEN. -/
def execRetainedBatchWritten (s : State) : Host.Outcome State Fault Refusal := .next (batchWritten s)
/-- OPSEC_TICK. -/
def execOpsecTick (s : State) : Host.Outcome State Fault Refusal := .next (opsecTick s)
/-- FLUSH_MARKER_VERIFIED. -/
def execFlushMarkerVerified (s : State) : Host.Outcome State Fault Refusal := .next (flushVerified s)

end Sys2Proof.Machine
end

