-- ==== Sys2Proof/Machine/Pair.lean ====
section
/-!
DEFINITION. Engine pairs (13_redundancy.md R291 to R303, R434): the interlock, epochs, claims, role swaps.
-/
namespace Sys2Proof.Machine

/-- What an interlock output carries (R297): CLAIM 62.5 kHz, RELEASE 15.625 kHz, or a static level. -/
inductive LineCode where
  | static
  | claim
  | release
  deriving DecidableEq, Repr

/-- ILK_A_O and ILK_B_O (R297): CLAIM with the token, RELEASE from the boundary C_r of a hand-over on, without the token and in
CONFIG; static in BOOT, HALTED, TEST and in reset (R298); high-impedance, which the partner reads as static, where VCORE or
VIO33 has left its range (R413). -/
def ilkOut (s : State) : LineCode :=
  if s.power.inReset ∨ s.power.supplyOk = false then .static
  else if holdsToken s && protecting s then (if s.pair.releaseDriven then .release else .claim)
  else if protecting s || s.glb.gstate == .config then .release
  else .static

/-- HLTH_O (R297, R298): the RELEASE code while the commit unit re-arms it, in the states in which the lines are driven. -/
def hlthOut (s : State) : LineCode := if s.glb.hlthArmed && ilkOut s != .static then .release else .static

/-- SWAP_H (R291). -/
def swapHours (s : State) : Nat := field s.pair.c1 7 0
def partnerId (s : State) : Nat := field s.pair.c0 11 6

/-- Every spacing of a run of edges lies in a to b. -/
def spaced (a b : Time) : List Time → Bool
  | x :: y :: rest => decide (a ≤ y - x) && decide (y - x ≤ b) && spaced a b (y :: rest)
  | _ => true

/-- The class of an interlock input at the boundary of instant t (R299). -/
def ilkClass (t : Time) (edges : List Time) : IlkClass :=
  let es := edges.filter (fun e => decide (t - usSteps 128 ≤ e) && decide (e ≤ t))
  match es.getLast? with
  | none => .absent
  | some l =>
    if 12 ≤ es.length ∧ spaced (usSteps 6) (usSteps 10) es ∧ t - usSteps 10 ≤ l then .claim
    else if 3 ≤ es.length ∧ spaced (usSteps 28) (usSteps 36) es ∧ t - usSteps 36 ≤ l then .release
    else .undefined

/-- Code of a class (R346 0x0A03). -/
def IlkClass.code : IlkClass → Nat
  | .absent => 0
  | .claim => 1
  | .release => 2
  | .undefined => 3

/-- Classes of the three inputs at C_k: A, B, HLTH. -/
def ilkClasses (s : State) (k : Nat) (i : IlkInputs) : IlkClass × IlkClass × IlkClass :=
  let t := commitInstantOf (runningLpipe s) k
  (ilkClass t i.ilkA, ilkClass t i.ilkB, ilkClass t i.hlth)

/-- A run counter. -/
def runOn (b : Bool) (n : Nat) : Nat := if b then n + 1 else 0

/-- HLTH_I reads ABSENT while an ILK input is live (R300). -/
def hlthOdd (c : IlkClass × IlkClass × IlkClass) : Bool :=
  c.2.2 == .absent && (c.1 == .claim || c.1 == .release || c.2.1 == .claim || c.2.1 == .release)

/-- CLAIM, RELEASE, ABSENT on both lines or all three. -/
def bothClaim (c : IlkClass × IlkClass × IlkClass) : Bool := c.1 == .claim && c.2.1 == .claim
def bothRelease (c : IlkClass × IlkClass × IlkClass) : Bool := c.1 == .release && c.2.1 == .release
def allAbsent (c : IlkClass × IlkClass × IlkClass) : Bool := c.1 == .absent && c.2.1 == .absent && c.2.2 == .absent

/-- The causes of R346 0x0A03 that hold now (R300). -/
def lineCauses (p : Pair) (c : IlkClass × IlkClass × IlkClass) : List Nat :=
  (if p.token && bothClaim c then [0] else []) ++ (if p.undefRuns.any (fun n => decide (2 ≤ n)) then [1] else []) ++
    (if 24 ≤ p.diffRun then [2] else []) ++ (if 24 ≤ p.hlthRun then [3] else [])

/-- Classification at C_k (R299, R300): runs of boundaries; a fault or loss that ended may be reported again. -/
def ilkBoundary (k : Nat) (i : IlkInputs) (s : State) : State :=
  let c := ilkClasses s k i
  let p := s.pair
  let runs := [c.1, c.2.1, c.2.2].zipIdx.map (fun x => runOn (x.1 == .undefined) ((p.undefRuns[x.2]?).getD 0))
  let p := { p with
    classes := [c.1, c.2.1, c.2.2]
    relRun := runOn (bothRelease c) p.relRun
    absRun := runOn (allAbsent c) p.absRun
    undefRuns := runs
    diffRun := runOn (c.1 != c.2.1) p.diffRun
    hlthRun := runOn (hlthOdd c) p.hlthRun
    partnerLost := p.partnerLost && allAbsent c
    notice := p.notice.filter (fun r => decide (k ≤ r + 1)) }
  { s with pair := { p with faults := p.faults.filter (fun n => (lineCauses p c).contains n) } }

/-- Auto-reclose instances of the package in force (R140). -/
def recloseInsts (s : State) : List Nat :=
  (indicesOf s.cfg.package secInstance).filter (fun i => inType (instWords s.cfg.package i) == 0x0E)

/-- Codes of the auto-reclose states in the epoch copy (R295), the model's own. -/
def Reclose.code : Reclose → Nat
  | .disabled => 0
  | .lockout => 1
  | .ready => 2
  | .waitOpen => 3
  | .dead => 4
  | .closing => 5
  | .reclaim => 6
def recloseOf : Nat → Reclose
  | 0 => .disabled
  | 2 => .ready
  | 3 => .waitOpen
  | 4 => .dead
  | 5 => .closing
  | 6 => .reclaim
  | _ => .lockout

/-- The items of R295 as committed now. -/
def captureEpoch (e : Nat) (s : State) : EpochCopy where
  epoch := e
  retained := retainedImage s
  params := s.logic.params
  forces := s.logic.forces
  reclose := (recloseInsts s).map (fun i => (i, (instOf s i).reclose.code, (instOf s i).shots))
  goose := (gpEntries s.cfg.package).map (fun p => (p.1, (pubOf s p.1).stNum, (pubOf s p.1).sqNum))
  nextRecord := s.granary.nextNo
  pf0NextSeq := s.pf0.nextSeq

/-- A list of pairs as a table. -/
def toMap {α : Type} (l : List (Nat × α)) : FMap α := l.foldl (fun m p => FMap.set m p.1 p.2) []

/-- The rows of R295's table in which two copies differ, bit n for row n (R346 0x0A02). The record number has its own rule
(R265). -/
def epochDiff (a b : EpochCopy) : Nat :=
  boolNat (toMap a.retained != toMap b.retained) +
    2 * boolNat (toMap a.params != toMap b.params || toMap a.forces != toMap b.forces) +
    4 * boolNat (toMap a.reclose != toMap b.reclose) + 8 * boolNat (toMap a.goose != toMap b.goose) +
    32 * boolNat (a.pf0NextSeq != b.pf0NextSeq)

/-- Copied retained points take effect by key (R296, R303). -/
def adoptRetained (vals : List (Nat × Word × Half)) (s : State) : State :=
  let put' (word : Bool) (m : FMap Point) : FMap Point :=
    ((retainedOf s).filter (fun r => r.point.word == word)).foldl (fun m r =>
      match vals.find? (fun v => v.1 == r.key.toNat + (if word then 4294967296 else 0)) with
      | some v => FMap.set m r.point.idx ⟨v.2.1, v.2.2⟩
      | none => m) m
  { s with logic := { s.logic with bools := put' false s.logic.bools, words := put' true s.logic.words } }

/-- Copied items take effect (R295, R296, R303), by rows of the table. Parameters and forces are taken as the partner holds them,
with no class check of their own, also from a partner that runs another program (R7 and R296 state no precedence; DESIGN CHOICE,
log 95). -/
def adoptEpoch (c : EpochCopy) (rows : Nat) (s : State) : State :=
  let s := if rows.testBit 0 then adoptRetained c.retained s else s
  let s := if rows.testBit 1 then
      { s with logic := { s.logic with params := toMap c.params, forces := toMap c.forces } } else s
  let s := if rows.testBit 2 then
      c.reclose.foldl (fun s x =>
        { s with insts := FMap.set s.insts x.1 { instOf s x.1 with reclose := recloseOf x.2.1, shots := x.2.2 } }) s
    else s
  let s := if rows.testBit 3 then
      c.goose.foldl (fun s x => setPub x.1 { pubOf s x.1 with stNum := x.2.1, sqNum := x.2.2 } s) s
    else s
  let s := if rows.testBit 4 then { s with granary := { s.granary with nextNo := c.nextRecord } } else s
  if rows.testBit 5 then { s with pf0 := { s.pf0 with nextSeq := c.pf0NextSeq } } else s

/-- What the partner tells of itself agrees (R292). -/
def partnerAgrees (s : State) : Bool :=
  match s.pair.partner with
  | some p =>
    p.engineId == partnerId s && p.partnerId == engineId s && p.pairId == pairId s &&
      p.bg == runningBg s && p.lpipe == s.glb.lpipe && p.packageDigest == packageDigest s &&
      p.programDigest == programDigest s && p.sheaf == 48 * s.pair.partnerEpoch + 47 && decide (p.boundaryOffsetNs.natAbs ≤ 5000)
  | none => false

/-- The pair is in step (R292): the last two comparisons agreed, and the engine's check over the link holds. -/
def inStepNow (s : State) : Bool := decide (2 ≤ s.pair.agreeing) && partnerAgrees s

/-- The partner's words over the link (R292): of equal PREFER values the higher engine ID's acts as 0, with one entry. -/
def meetPartner (e : Nat) (p : PartnerInfo) (s : State) : State :=
  let tie := decide (p.engineId < engineId s) && p.prefer == bit s.pair.c0 12 &&
    !s.pair.partner.any (fun q => q.prefer == p.prefer && q.engineId == p.engineId)
  let s := if tie then tally 0x0A08 [item (engineId s), item (partnerId s)] s else s
  { s with pair := { s.pair with partner := some p, partnerEpoch := e } }

/-- Dovetail ports that carry the pair link (R291 PAIR_PORTS). -/
def pairPorts (s : State) : List Nat := (List.range 4).filter (fun i => bit s.pair.c0 (13 + i))

/-- A capture on its way over every pair port, with its commit marker; a copy has at most 96 KiB (R295). -/
def sendEpoch (s : State) (c : EpochCopy) : EpochSent :=
  let bs := (Config.epochBytes c).take 98304
  ⟨pairPorts s, c, bs.length, crc32 bs⟩

/-- PREFER as it acts (R292): of equal values the higher engine ID's acts as 0. -/
def preferActs (s : State) : Bool :=
  let own := bit s.pair.c0 12
  own && !(s.pair.partner.any (fun p => p.prefer == own && decide (p.engineId < engineId s)))

/-- The SWAP_ROLES in flight here. -/
def swapCommands (s : State) : List Inflight := s.pf0.inflight.filter (fun e => e.stage == .swapping)

/-- Completes every SWAP_ROLES in flight. -/
def answerSwap (status : Half) (result : List Byte) (s : State) : State :=
  (swapCommands s).foldl (fun s e => complete .pf0 e status 0 result s) s

/-- The token ends here (R293, R218): a swap under way is off, and its command is told to retry (log 34). -/
def loseToken (s : State) : State :=
  if s.pair.token = false then s
  else
    let s := releaseWires { s with pair := { s.pair with
      token := false, releaseDriven := false, swap := .idle, publishDue := false } }
    answerSwap 0x0104 [] s

/-- The engine claims the token (R299): the swap timer restarts (R301). -/
def claimToken (s : State) : State :=
  { s with pair := { s.pair with
    token := true, releaseDriven := false, swap := .idle, swapFrom := s.tb.now, notice := none, captures := [], alone := false } }

/-- No trip-wire gate was true in commits k − 47 to k (R301). -/
def gatesQuiet (s : State) (k : Nat) : Bool :=
  s.wires.all (fun p => match p.2.lastGate with
    | some j => decide (j + 47 < k)
    | none => true)

/-- The swap's steps at boundary C_k (R301). -/
def swapBoundary (k : Nat) (s : State) : State :=
  let p := s.pair
  match p.swap with
  | .acked t b _ =>
    if gatesQuiet s k then
      releaseWires { s with pair := { p with swap := .released t b k, releaseDriven := true, notices := k :: p.notices } }
    else s
  | .released t b r =>
    if r + 1 ≤ k then
      releaseWires { s with pair := { p with
        token := false, releaseDriven := false, swap := .handed t b r, copied := p.sent.head?.map (fun x => x.copy), captures := [] } }
    else s
  | .handed _ b r =>
    if k = r + 2 ∧ p.classes.take 2 = [.claim, .claim] then
      let s := { s with pair := { p with swap := .idle, swapFrom := s.tb.now } }
      answerSwap 0 (leBytes 8 (r + 1)) (tally 0x0A04 [item (r + 1), item (roleOf s), item (boolNat b)] s)
    else s
  | _ => s

/-- The epoch end at C_k (R295, R296): the holder sends its capture and marks a swap that is due (R301); the standby keeps
its own. A comparison that never came ends the run of agreeing ones. -/
def epochEnd (k : Nat) (s : State) : State :=
  if (k + 1) % 48 ≠ 0 then s
  else
    let e := k / 48
    let cap := captureEpoch e s
    let p := s.pair
    if p.token then
      let p := if p.captures.isEmpty then p else { p with agreeing := 0, inStep := false }
      let sw := match p.swap with
        | .due t b => if p.inStep then Swap.marked t b k else .due t b
        | x => x
      { s with pair := { p with captures := [cap], sent := sendEpoch s cap :: p.sent, swap := sw } }
    else
      let missed := match p.captures, p.copied with
        | [], _ => false
        | _, some c => c.epoch + 1 != e
        | _, none => true
      { s with pair := { p with
        captures := cap :: p.captures.take 1, agreeing := if missed then 0 else p.agreeing } }

/-- The pair's part of boundary C_k (R31 step 7, R292, R296, R299). A role that PAIR_CONFIG changed shows from here on (R322). -/
def pairBoundary (k : Nat) (i : IlkInputs) (s : State) : State :=
  if paired s = false then withRole (fun s => { s with pair := { s.pair with roleHeld := none } }) s
  else
    withRole (fun s =>
      let s := { s with pair := { s.pair with roleHeld := none } }
      let s := ilkBoundary k i s
      let s := match s.pair.adopt with
        | some (c, rows) => adoptEpoch c rows { s with pair := { s.pair with adopt := none } }
        | none => s
      let s := { s with pair := { s.pair with inStep := inStepNow s } }
      swapBoundary k (epochEnd k s)) s

/-- The token ends where zones are not evaluated any more (R297, R365). -/
def tokenByState (s : State) : State := if protecting s then s else withRole loseToken s

/-- The last committed boundary is where the engine stands: rows of the interlock follow the commit. -/
def atBoundary (s : State) : Bool := s.glb.running && !s.glb.frozen

/-- The role swap of a claim (R301): SWAP_ROLES is known from the mirrored journal. -/
def swapCause (s : State) : Nat := boolNat (s.pf0.inflight.any (fun e => e.remote && e.opcode == 0x0702))

/-- RELEASE_CLAIM (R299): release claim and swap claim. -/
def releaseClaimAt (i : IlkInputs) (s : State) : State :=
  let k := s.glb.sheaf
  let c := ilkClasses s k i
  let swap := s.pair.notice.any (fun r => decide (k = r + 1))
  if ¬ (paired s ∧ protecting s ∧ s.pair.token = false ∧ atBoundary s ∧ bothRelease c) then s
  else if swap then
    withRole claimToken (tally 0x0A04 [item k, 1, item (swapCause s)] s)
  else if preferActs s ∨ 4800 ≤ s.pair.relRun then withRole claimToken s
  else s

/-- PF0 commands of the failed holder (R354): local ones without PARTNER are lost; the others end here from the engine's own
execution. A mirrored one that a reset of this engine cut off is resolved by the reset's rule: cancelled, or run again. -/
def resolveTakeover (s : State) : State :=
  (s.pf0.inflight.filter (fun e => e.remote && e.stage == .atPartner)).foldl (fun s e =>
    let cut := boundaryApplied e.opcode || e.opcode == 0x0201 || e.opcode == 0x0301
    if isMirrored e.opcode ∧ cut = false then runAgain .pf0 e s
    else
      journalDone .pf0 ⟨e.hostSeq, e.opcode, if isMirrored e.opcode then 0x0109 else 0x0108, 0, e.engineSeq, []⟩
        (dropInflight .pf0 e s)) s

/-- Nothing of the old schedule goes out after a takeover (R82): each control block is sent anew at the first boundary. -/
def dropGoose (s : State) : State :=
  let isGoose (e : Launch) : Bool := match e.kind with
    | .goose _ => true
    | _ => false
  { s with ing := { s.ing with
    ports := s.ing.ports.mapVals (fun _ p => { p with queue := p.queue.filter (fun e => !isGoose e) })
    pubs := s.ing.pubs.mapVals (fun _ p => { p with next := none }) } }

/-- ABSENCE_CLAIM (R299, R303): a takeover, or the holder sees its partner lost. -/
def absenceClaimAt (i : IlkInputs) (s : State) : State :=
  let k := s.glb.sheaf
  if ¬ (paired s ∧ protecting s ∧ atBoundary s ∧ allAbsent (ilkClasses s k i) ∧ 24 ≤ s.pair.absRun) then s
  else if s.pair.token then
    (if s.pair.partnerLost then s
    else
      sticky 3 6 (tally 0x0A06 [0, item k, 1]
        { s with pair := { s.pair with partnerLost := true, inStep := false, agreeing := 0 } }))
  else
    let c := s.pair.copied
    withRole (fun s =>
      let s := match c with
        | some c => adoptEpoch c 31 s
        | none => s
      let s := dropGoose (resolveTakeover (claimToken s))
      sticky 3 6 (tally 0x0A06 [item ((c.map (fun c => c.epoch)).getD 0), item k, 0]
        { s with pair := { s.pair with
          partnerLost := true, inStep := false, agreeing := 0, adopt := none, publishDue := true } })) s

/-- ILK_LINE_FAULT (R300): each cause is reported once while it stands; CLAIM on both lines takes the token from
PREFER 0. -/
def lineFaultAt (i : IlkInputs) (s : State) : State :=
  if ¬ (paired s ∧ atBoundary s) then s
  else
    let c := ilkClasses s s.glb.sheaf i
    let causes := (lineCauses s.pair c).filter (fun n => !s.pair.faults.contains n)
    let s := causes.foldl (fun s (n : Nat) =>
      sticky 3 7 (tally 0x0A03 [item n, item c.1.code, item c.2.1.code, item c.2.2.code]
        { s with pair := { s.pair with faults := n :: s.pair.faults } })) s
    if (lineCauses s.pair c).contains 0 ∧ preferActs s = false then withRole loseToken s else s

/-- The next record number follows the holder's (R265): the copied number is compared with the engine's own at that epoch end;
records persisted here since keep their places after it (log 56). -/
def adoptNumber (own c : EpochCopy) (s : State) : State :=
  if c.nextRecord = own.nextRecord then s
  else
    tally 0x0906 [item own.nextRecord, item c.nextRecord]
      { s with granary := { s.granary with nextNo := c.nextRecord + (s.granary.nextNo - own.nextRecord) } }

/-- EPOCH_COPY_RX: a complete copy with its marker at the standby (R296, R292, R265, R434): the first of an epoch on any pair
port counts (R295). -/
def epochCopyIn (c : EpochCopy) (p : PartnerInfo) (s : State) : State :=
  if paired s = false ∨ s.pair.token ∨ s.pair.copied.any (fun x => x.epoch == c.epoch) then s
  else
    let s := meetPartner c.epoch p s
    let s := if s.pair.seqAdoptDue then
        tally 0x0A09 [s.pf0.nextSeq, c.pf0NextSeq]
          { s with
            pf0 := { s.pf0 with nextSeq := c.pf0NextSeq, completed := [] }
            pair := { s.pair with
              seqAdoptDue := false
              captures := s.pair.captures.map (fun x => { x with pf0NextSeq := c.pf0NextSeq }) } }
      else s
    let s := { s with pair := { s.pair with copied := some c } }
    match s.pair.captures.find? (fun x => x.epoch == c.epoch) with
    | none => { s with pair := { s.pair with agreeing := 0 } }
    | some own =>
      let s := adoptNumber own c s
      let d := epochDiff own c
      if d = 0 then { s with pair := { s.pair with agreeing := s.pair.agreeing + 1 } }
      else
        count 155 1 (tally 0x0A02 [item c.epoch, item d]
          { s with pair := { s.pair with agreeing := 0, adopt := some (c, d) } })

/-- EPOCH_ACKNOWLEDGEMENT: the standby's comparison of an epoch agreed (R301, R292). -/
def epochAck (a : EpochAck) (s : State) : State :=
  let e := a.epoch
  if ¬ (paired s ∧ s.pair.token ∧ s.pair.captures.any (fun c => c.epoch == e)) then s
  else
    let s := meetPartner e a.partner s
    let p := s.pair
    let sw := match p.swap with
      | .marked t b j => if j / 48 = e then Swap.acked t b j else .marked t b j
      | x => x
    { s with pair := { p with captures := [], agreeing := p.agreeing + 1, swap := sw } }

/-- SWAP_NOTICE_RX (R301). -/
def swapNotice (r : Nat) (s : State) : State :=
  if paired s ∧ s.pair.token = false then { s with pair := { s.pair with notice := some r } } else s

/-- ROLE_SWAP_DUE: the holder has held the token for SWAP_H hours (R301). -/
def swapDue (s : State) : State :=
  if paired s ∧ s.pair.token ∧ s.pair.swap = .idle ∧
      s.pair.swapFrom + 3600 * swapHours s * stepsPerSec ≤ s.tb.now then
    { s with pair := { s.pair with swap := .due s.tb.now false } }
  else s

/-- A swap failed (R302): the sticky bit, the entry, and a periodic swap due again in 1 h. -/
def swapFailed (cause r : Nat) (byCommand : Bool) (s : State) : State :=
  let next := s.tb.now + 3600 * stepsPerSec - 3600 * swapHours s * stepsPerSec
  let s := { s with pair := { s.pair with swap := .idle, swapFrom := if byCommand then s.pair.swapFrom else next } }
  answerSwap 0x0104 [] (sticky 3 8 (tally 0x0A05 [item cause, item r] s))

/-- ROLE_SWAP_FAIL (R302, R299): no swap boundary within 60 s, or no CLAIM read at C_(r+2), where the old active claims
again if it reads RELEASE on both lines. -/
def swapFailAt (i : IlkInputs) (t : Time) (s : State) : State :=
  let s := advance t s
  let late (since : Time) : Bool := decide (since + 60 * stepsPerSec ≤ s.tb.now)
  match s.pair.swap with
  | .due since b => if late since then swapFailed 0 0 b s else s
  | .marked since b _ => if late since then swapFailed 0 0 b s else s
  | .acked since b _ => if late since then swapFailed 0 0 b s else s
  | .handed _ b r =>
    let c := ilkClasses s s.glb.sheaf i
    if ¬ (atBoundary s ∧ s.glb.sheaf = r + 2 ∧ bothClaim c = false) then s
    else
      let s := if bothRelease c ∧ protecting s ∧ paired s then
          withRole (fun s => { s with pair := { s.pair with token := true, captures := [] } }) s else s
      swapFailed 1 r b s
  | _ => s

/-- RELEASE_CLAIM. -/
def execReleaseClaim (inputs : IlkInputs) (s : State) : Host.Outcome State Fault Refusal :=
  .next (settle (releaseClaimAt inputs s))
/-- ABSENCE_CLAIM. -/
def execAbsenceClaim (inputs : IlkInputs) (s : State) : Host.Outcome State Fault Refusal :=
  .next (settle (absenceClaimAt inputs s))
/-- ILK_LINE_FAULT. -/
def execIlkLineFault (inputs : IlkInputs) (s : State) : Host.Outcome State Fault Refusal :=
  .next (settle (lineFaultAt inputs s))
/-- EPOCH_COPY_RX. -/
def execEpochCopyRx (copy : EpochCopy) (partner : PartnerInfo) (s : State) : Host.Outcome State Fault Refusal :=
  .next (epochCopyIn copy partner s)
/-- EPOCH_ACKNOWLEDGEMENT. -/
def execEpochAcknowledgement (ack : EpochAck) (s : State) : Host.Outcome State Fault Refusal := .next (epochAck ack s)
/-- SWAP_NOTICE_RX. -/
def execSwapNoticeRx (boundary : Nat) (s : State) : Host.Outcome State Fault Refusal := .next (swapNotice boundary s)
/-- ROLE_SWAP_DUE. -/
def execRoleSwapDue (s : State) : Host.Outcome State Fault Refusal := .next (swapDue s)
/-- ROLE_SWAP_FAIL. -/
def execRoleSwapFail (inputs : IlkInputs) (t : Time) (s : State) : Host.Outcome State Fault Refusal :=
  .next (settle (swapFailAt inputs t s))

end Sys2Proof.Machine
end

