-- ==== Sys2Proof/Machine/Boundary.lean ====
section
/-!
DEFINITION. What a boundary applies beside the results of its sheaf (01_sheaf.md R27 to R32): setting packages, groups,
parameters, forces, logic restarts, the state machine of R365.
-/
namespace Sys2Proof.Machine

/-- Answers the command that asked for a change, with its result (R344). -/
def answerChange (p : Pending) (result : List Byte) (s : State) : State :=
  let waits (e : Inflight) : Bool := match e.stage with
    | .awaitBoundary _ => e.hostSeq == p.hostSeq
    | _ => false
  match findInflight s p.view waits with
  | some e => complete p.view e 0 0 result s
  | none => s

/-- The changes that sel picks leave the list; they are answered in acceptance order (R30, R338). -/
def takeChanges (sel : Pending → Bool) (s : State) : List Pending × State :=
  (s.cfg.changes.filter sel, { s with cfg := { s.cfg with changes := s.cfg.changes.filter (fun p => !sel p) } })

/-- A change whose boundary is C_k: it is effective from sheaf k + 1 (R27). -/
def dueAt (k : Nat) (p : Pending) : Bool := decide (p.j ≤ k + 1)

/-- Kinds of change. -/
def isPackage (p : Pending) : Bool := match p.change with
  | .package _ _ => true
  | _ => false
def isSnapsets (p : Pending) : Bool := match p.change with
  | .snapsets _ => true
  | _ => false
def isGroup (p : Pending) : Bool := match p.change with
  | .group _ _ => true
  | _ => false
def isParam (p : Pending) : Bool := match p.change with
  | .param _ _ => true
  | _ => false
def isForce (p : Pending) : Bool := match p.change with
  | .force _ _ => true
  | _ => false
def isUnforce (p : Pending) : Bool := match p.change with
  | .unforce _ => true
  | _ => false
def isUnforced (p : Pending) : Bool := match p.change with
  | .unforced _ => true
  | _ => false
def isRestart (p : Pending) : Bool := match p.change with
  | .restartLogic _ => true
  | _ => false
def isManual (p : Pending) : Bool := match p.change with
  | .manual _ => true
  | _ => false

/-- Applies the due changes of one kind in acceptance order. -/
def applyKind (k : Nat) (kind : Pending → Bool) (f : Pending → State → State) (s : State) : State :=
  let r := takeChanges (fun p => kind p && dueAt k p) s
  r.1.foldl (fun s p => f p s) r.2

/-- The copies of the configuration area change places (R369): the copy in force carries the package that takes effect, and
its program or the one that stays in force; a program still staged goes into the copy not in force. -/
def switchCopies (prog : Bool) (s : State) : State :=
  let spare := spareCopy s
  let staged := if prog then s.cfg.programBytes
    else ((s.store.configInForce.bind (fun n => s.store.configCopies[n]?)).map (fun c => c.2)).getD []
  let s := writeCopy (fun _ => (s.cfg.stagedBytes, staged)) s
  let s := { s with store := { s.store with configInForce := some spare } }
  if prog || s.logic.staged.isNone then s else writeCopy (fun c => (c.1, s.cfg.programBytes)) s

/-- The staged program replaces the one in force (R200, R201, R376). -/
def replaceProgram (k : Nat) (s : State) : State :=
  let kept := retainedImage s
  let s := { s with
    logic := { s.logic with program := s.logic.staged, staged := none }
    cfg := { s.cfg with programBytes := [] } }
  let s := logicStart 3 kept true s
  if anyMirror s ∧ s.power.pfail = false then checkpoint k s else s

/-- The state of stream i of a new package (R29): an entry that a running entry equals goes on, another begins with the
state gathered since acceptance. -/
def carriedStream (s : State) (old : Option Package) (e : Nat × List Word) : Stream :=
  match (svEntries old).find? (fun o => o.2 == e.2) with
  | some o => streamOf s false o.1
  | none => streamOf s true e.1

/-- A new entry's conditions that still hold at C_(j−1) are reported there (R29, R67, R72). -/
def reportStream (i : Nat) (ws : List Word) (s : State) : State :=
  let s := match (streamOf s false i).confRev with
    | some got => tally 0x0301 [item i, got.zeroExtend 64, (svConfRev ws).zeroExtend 64] s
    | none => s
  streamLost i s

/-- A subscription under the new package (R201): where the entry is as before, it goes on with the values of the members that
are as before; a member that changed reads invalid until the next frame, whose values are then applied. -/
def carriedSub (old new : List Word) (x : GooseSub) : Option GooseSub :=
  let changed (i : Nat) : Bool := wAt old (38 + i) != wAt new (38 + i)
  let keep (vs : List (Word × Half)) : List (Word × Half) :=
    vs.zipIdx.map (fun v => if changed v.2 then (0, qInvalid ||| qOldData) else v.1)
  if old.take 38 ≠ new.take 38 then none
  else if old = new then some x
  else some { x with
    stNum := none, seen := [], values := keep x.values, before := x.before.map (fun v => (v.1, keep v.2)) }

/-- Streams, subscriptions and publications under the new package (R29, R77, R81, R201). A control block under a changed record begins
anew: its next stNum is 1 (DESIGN CHOICE, log 42). -/
def switchIngest (old : Option Package) (s : State) : State :=
  let new := s.cfg.package
  let entries := svEntries new
  let fresh := entries.filter (fun e => !(svEntries old).any (fun o => o.2 == e.2))
  let streams := entries.map (fun e => (e.1, carriedStream s old e))
  let s := { s with
    ing := { s.ing with
      streams := streams, streamsNew := []
      subs := s.ing.subs.filterMap (fun x =>
        match recOf' old secGooseSub x.1, recOf' new secGooseSub x.1 with
        | some a, some b => (carriedSub a b x.2).map (fun y => (x.1, y))
        | _, _ => none)
      pubs := s.ing.pubs.filter (fun x => recOf' old secGoosePub x.1 == recOf' new secGoosePub x.1) }
    logic := { s.logic with inBools := [], inWords := [] } }
  fresh.foldl (fun s e => reportStream e.1 e.2 s) s
where
  /-- The record of a type and index of an optional package. -/
  recOf' (p : Option Package) (type index : Nat) : Option (List Word) := p.bind (fun q => recOf q type index)

/-- A zone under the new package (R34, R113, R115): one that stays enabled keeps its group and estimators and is admitted
again, a newly enabled one starts. -/
def switchZone (old : Option Package) (s : State) (z : Nat) : Zone :=
  let x := zoneOf s z
  if znEnabled (zoneWords old z) then { x with degraded := false, armed := false, overran := false, held := false }
  else { Zone.init with group := znGroupDefault (zoneWords s.cfg.package z), estFrom := s.thr.ringFrom }

/-- Zones, instances and line-differential descriptors under the new package (R113, R153, R154). -/
def switchZones (old : Option Package) (s : State) : State :=
  let new := s.cfg.package
  let zones := (enabledZones s).map (fun z => (z, switchZone old s z))
  let keep (i : Nat) : Bool :=
    znEnabled (zoneWords old (i / 32)) && znEnabled (zoneWords new (i / 32)) &&
      inType (instWords old i) == inType (instWords new i)
  { s with
    zones := zones
    insts := s.insts.filter (fun x => keep x.1)
    results := []
    ldf := (ldEntries new).map (fun e =>
      (e.1, if ldfWords old e.1 == e.2 then ldfOf s e.1 else { Ldf.init with since := s.tb.now })) }

/-- A pair that the package newly enables, or whose sense it changes, waits for its first agreement (R224): the
disagreement counts from sub-sample m, with the changes that the inputs have shown since. A pair that it disables leaves its
fault. -/
def switchPair (old : Option Package) (m p : Nat) (s : State) : State :=
  let a := pairWord old p
  let b := pairWord s.cfg.package p
  let x := biPairOf s p
  let was := [(384 + p, x.agreed), (256 + p, x.fault), (128 + p, x.value)].filter (fun e => biAt s e.1 (m - 1) e.2)
  let fresh (s : State) : State :=
    let s := { s with bi := { s.bi with log := s.bi.log.filter (fun e =>
      !(decide (m ≤ e.1) && (e.2.1 == 128 + p || e.2.1 == 256 + p || e.2.1 == 384 + p))) } }
    was.foldl (fun s e => biLog m e.1 false s) (setPair p BiPair.init s)
  if prEnabled b ∧ (prEnabled a = false ∨ prAnti a ≠ prAnti b) then pairReplay p m (fresh s)
  else if prEnabled a ∧ prEnabled b = false then fresh s
  else s

/-- GLB_STATE after a package takes effect (R365). -/
def stateAfterPackage (s : State) : Option GState :=
  let hold := swHold s.cfg.package
  match s.glb.gstate with
  | .config => if hold ∨ swWait s.cfg.package then none else some .protecting
  | .protecting => if hold then some .config else none
  | .degraded => if hold then some .config else some .protecting
  | _ => s.glb.next

/-- The slots that a package feeds (R65, R137). -/
def fedSlots (p : Option Package) : List Nat :=
  (List.range 64).filter (fun c => chEnabled (channelWords p c)) ++
    (svEntries p).flatMap (fun e => (svMapped e.2).map (fun m => m.2.1)) ++ (dsEntries p).map (fun e => dsLocal e.2)

/-- A slot that the package in force newly binds has no sample of a sheaf that began before the package was armed (R28). -/
def bindSlots (old : Option Package) (s : State) : State :=
  let fresh := (fedSlots s.cfg.package).filter (fun k => !sameFeed old s.cfg.package k)
  { s with samp := { s.samp with boundFrom := fresh.map (fun k => (k, s.cfg.armedFrom)) } }

/-- The staged package takes effect from sheaf k + 1 (R27, R30, R31). One accepted in CONFIG takes effect whole even where
the engine has left CONFIG by its boundary, MODE, ROLE and the PRP pairs with it: R60 has the staging check them (DESIGN
CHOICE, log 95). L_pipe alone never changes in service (R2, R17): there the value in force stays (DESIGN CHOICE, log 95). -/
def takeEffect (k : Nat) (prog : Bool) (new : Package) (s : State) : State :=
  let old := s.cfg.package
  let seen := watchedNow (some new) s
  let s := switchCopies prog s
  let s := { s with cfg := { s.cfg with package := some new, staged := none, stagedBytes := [] } }
  let s := if prog then replaceProgram k s else s
  let s := switchZones old (switchIngest old (bindSlots old s))
  let s := (List.range 64).foldl (fun s p => switchPair old (3 * (k + 1)) p s) s
  let s := repartition (thresherPackage old seen (k + 1) s)
  let s := selectMaster { s with glb := { s.glb with lpipe := if protecting s then s.glb.lpipe else lpipeUnder s (some new) } }
  { s with
    glb := { s.glb with next := stateAfterPackage s }
    power := { s.power with loadFailed := false } }

/-- A COMMIT_AT_SHEAF reaches its boundary C_k (R27, R344); digests that equal those in force change nothing (R433). -/
def applyPackage (k : Nat) (p : Pending) (s : State) : State :=
  match p.change, s.cfg.staged with
  | .package j prog, some new =>
    let sameProg := !prog || (s.logic.staged.map (fun l => l.digest)) == (s.logic.program.map (fun l => l.digest))
    let same := (s.cfg.package.map (fun q => q.digest)) == some new.digest && sameProg
    let s := if same then
        { s with
          cfg := { s.cfg with staged := none, stagedBytes := [] }
          logic := { s.logic with staged := if prog then none else s.logic.staged }
          ing := { s.ing with streamsNew := [] } }
      else takeEffect k prog new s
    answerChange p (leBytes 8 j) s
  | _, _ => s

/-- CONFIG_SNAPSETS reaches its boundary (R272, R269 0x0005). -/
def applySnapsets (k : Nat) (p : Pending) (s : State) : State :=
  match p.change with
  | .snapsets ws =>
    let sets := (List.range 64).map (fun n => (ws.drop (35 * n)).take 35)
    let s := { s with tally := { s.tally with snapsets := sets } }
    answerChange p (leBytes 8 (k + 1))
      (tally 0x0005 [p.hostSeq, item (sets.filter (fun x => bit (wAt x 0) 0)).length] s)
  | _ => s

/-- SELECT_GROUP reaches its boundary (R115, R343): 0xFFFF names every enabled zone whose GRP_SRC is 0. -/
def applyGroup (k : Nat) (p : Pending) (s : State) : State :=
  match p.change with
  | .group z g =>
    let zs := (enabledZones s).filter (fun y =>
      (z == 0xFFFF || y == z) && znGroupSrc (zoneWords s.cfg.package y) == 0)
    answerChange p (leBytes 8 (k + 1)) (zs.foldl (fun s y => setZone y { zoneOf s y with group := g } s) s)
  | _ => s

/-- The code of a zone's group source as committed: value and quality (R115); none under GRP_SRC 0. -/
def groupSource (s : State) (z : Nat) : Option (Nat × Half) :=
  let zw := zoneWords s.cfg.package z
  match znGroupSrc zw with
  | 1 =>
    let bits := [0, 1, 2].map (fun i => boolPoint s (znGroupPoint zw + i))
    some ((bits.zipIdx).foldl (fun a x => a + (if truth x.1.value then 2 ^ x.2 else 0)) 0, worstQuality (bits.map (fun x => x.q)))
  | 2 =>
    let x := wordPoint s (znGroupPoint zw)
    some (x.value.toNat, x.q)
  | _ => none

/-- The group that a binary input or a word point committed at this boundary selects from the next sheaf on (R115): an
invalid source leaves the group and is reported once until a valid selection. -/
def sourceGroup (z : Nat) (s : State) : State :=
  match groupSource s z with
  | none => s
  | some (v, q) =>
    let x := zoneOf s z
    if qIsInvalid q ∨ 7 < v then
      (if x.groupBad then s
      else
        tally 0x0501 [item z, item (znGroupSrc (zoneWords s.cfg.package z)), item v, q.zeroExtend 64]
          (setZone z { x with groupBad := true } s))
    else setZone z { x with group := v, groupBad := false } s

/-- PARAM_WRITE reaches its cycle's start boundary (R194). -/
def applyParam (k : Nat) (p : Pending) (s : State) : State :=
  match p.change with
  | .param i v => answerChange p (leBytes 8 (k + 1)) { s with logic := { s.logic with params := FMap.set s.logic.params i v } }
  | _ => s

/-- The entry of a force (R197, R346 0x0701). -/
def forceEntry (removed key : Nat) (v : Word) (k : Nat) (s : State) : State :=
  tally 0x0701 [item removed, item (if 131072 ≤ key then 1 else 0), item (key % 131072), v.zeroExtend 64, item k] s

/-- FORCE reaches its cycle's start boundary (R196). -/
def applyForce (k : Nat) (p : Pending) (s : State) : State :=
  match p.change with
  | .force r v =>
    let v := if r.word then v else v &&& 1
    let s := { s with logic := { s.logic with forces := FMap.set s.logic.forces (forceKey r) v } }
    answerChange p (leBytes 8 (k + 1)) (forceEntry 0 (forceKey r) v k s)
  | _ => s

/-- UNFORCE reaches its cycle's start boundary (R199): it completes at the end boundary of the cycle that starts here, or at
once where nothing was forced. -/
def applyUnforce (k : Nat) (p : Pending) (s : State) : State :=
  match p.change with
  | .unforce r =>
    let gone := match r with
      | none => s.logic.forces
      | some x => s.logic.forces.filter (fun f => f.1 == forceKey x)
    if gone.isEmpty then answerChange p (leBytes 8 0) s
    else
      let keys := gone.map (fun f => f.1)
      let s := gone.foldl (fun s f => forceEntry 1 f.1 f.2 k s) s
      let later : Pending := { p with j := k + periodOf s, change := .unforced keys }
      { s with
        logic := { s.logic with forces := s.logic.forces.filter (fun f => !keys.contains f.1) }
        cfg := { s.cfg with changes := s.cfg.changes ++ [later] } }
  | _ => s

/-- An UNFORCE whose computed values commit k shows completes (R199, R344); a cycle that holds puts it off by one. -/
def endUnforce (k : Nat) (s : State) : State :=
  let r := takeChanges (fun p => isUnforced p && decide (p.j ≤ k)) s
  r.1.foldl (fun s p =>
    match p.change with
    | .unforced keys =>
      let shows := keys.all (fun x => (FMap.get? s.logic.shown x).isNone || (FMap.get? s.logic.forces x).isSome)
      if shows then answerChange p (leBytes 8 k) s
      else { s with cfg := { s.cfg with changes := s.cfg.changes ++ [{ p with j := k + periodOf s }] } }
    | _ => s) r.2

/-- RESTART_LOGIC reaches its cycle's start boundary (R201). -/
def applyRestart (k : Nat) (p : Pending) (s : State) : State :=
  match p.change with
  | .restartLogic cold =>
    answerChange p (leBytes 8 (k + 1)) (logicStart 2 (if cold then [] else retainedImage s) cold s)
  | _ => s

/-- The start word in force keeps the engine waiting in CONFIG for time lock (R365, R366). -/
def waitsForLock (s : State) : Bool :=
  s.glb.gstate == .config && s.cfg.package.isSome && !swHold s.cfg.package && swWait s.cfg.package && s.glb.next.isNone

/-- Whole seconds since entry to CONFIG. -/
def secondsInConfig (s : State) : Nat := match s.glb.configFrom with
  | some t => ((s.tb.now - t) / stepsPerSec).toNat
  | none => 0

/-- Time lock, declared before this boundary, ends the wait (R365). -/
def lockCheck (due : Bool) (s : State) : State :=
  if waitsForLock s ∧ due then
    tally 0x0D07 [0, item (secondsInConfig s)] { s with glb := { s.glb with next := some .protecting } }
  else s

/-- Zones are evaluated no more (R218, R297, R365): drivers released, gates and commands false, the token given up. -/
def enterConfig (s : State) : State :=
  let s := releaseWires s
  tokenByState { s with
    wires := s.wires.mapVals (fun _ w => { w with gate := false, cmd := false, alone := false })
    zones := s.zones.mapVals (fun _ z => { z with toggling := false, tripCmd := false })
    results := []
    lanes := { s.lanes with delivered := [], compared := false, mismatch := false }
    logic := { s.logic with cycle := none }
    glb := { s.glb with configFrom := some s.tb.now } }

/-- GLB_STATE takes the value decided for boundary C_k (R27, R365, R353). -/
def applyState (k : Nat) (s : State) : State :=
  match s.glb.next with
  | none => s
  | some new =>
    let old := s.glb.gstate
    let s := { s with glb := { s.glb with next := none } }
    if old = new then s
    else
      let kept := retainedImage s
      let s := postEvent 0x0E02 (BitVec.ofNat 64 (new.code + 256 * old.code + 4294967296 * (k % 4294967296)))
        { s with glb := { s.glb with gstate := new, configFrom := none } }
      if protecting s = false then enterConfig s
      else if old = .config then logicStart 4 kept false s
      else s

/-- Every enabled zone of a list that is not DEGRADED, those of the lane rules and of the logic program, and the state
machine, at C_k (R31 step 6, R34, R206, R288, R365): a zone marked now keeps the engine from leaving DEGRADED. -/
def markZones (k : Nat) (zs : List Nat) (s : State) : State :=
  let fresh (zs : List Nat) (s : State) : List Nat :=
    zs.filter (fun z => (enabledZones s).contains z && !(zoneOf s z).degraded)
  let s := degradeAll k 0 (fresh zs s) s
  let s := degradeAll k 2 (fresh s.lanes.marks s) s
  let s := if s.lanes.markAll then degradeEvery k s else s
  let s := { s with lanes := { s.lanes with marks := [], markAll := false } }
  if s.glb.gstate = .degraded ∧ s.glb.next = some .protecting ∧ (enabledZones s).any (fun z => (zoneOf s z).degraded) then
    { s with glb := { s.glb with next := none } }
  else s

end Sys2Proof.Machine
end

