-- ==== Sys2Proof/Machine/Regrid.lean ====
section
/-!
DEFINITION. The timebase step at a boundary (01_sheaf.md R36, R95, R109, R122, R202, R211, R243): the grid moves, buffered
sheaves are discarded, windows restart, stored instants keep their physical place.
-/
namespace Sys2Proof.Machine

/-- A sheaf or sub-sample number moved by d, not below 0. -/
def movedBy (d : Int) (n : Nat) : Nat := ((n : Int) + d).toNat

/-- An instant that may be absent, moved by d. -/
def later (d : Time) (o : Option Time) : Option Time := o.map (fun t => t + d)

/-- Two instants that bound an interval, moved. -/
def laterPair (d : Time) (p : Time × Time) : Time × Time := (p.1 + d, p.2 + d)

def moveConversion (d : Time) (c : Conversion) : Conversion := { c with aperture := c.aperture + d }
/-- Stored instants of conversion and calibration. Tenon goes on: its raw sub-samples up to the boundary keep their place before
those of the new timescale (R211). -/
def moveSampling (j : Nat) (n : Int) (d : Time) (x : Sampling) : Sampling :=
  { x with
    hist := [], boundFrom := []
    raw := x.raw.mapVals (fun _ l => (l.filter (fun p => decide (p.1 < 3 * (j + 1)) && decide (0 ≤ (p.1 : Int) + 3 * n))).map
      (fun p => (movedBy (3 * n) p.1, p.2)))
    slices := x.slices.mapVals (fun _ c => { c with
      calAt := c.calAt + d, convs := c.convs.map (moveConversion d), last := c.last.map (moveConversion d) })
    groups := x.groups.mapVals (fun _ g => { g with stoppedAt := later d g.stoppedAt })
    channels := x.channels.mapVals (fun _ c => { c with
      lastConv := c.lastConv.map (moveConversion d), gaps := c.gaps.map (laterPair d) }) }

/-- A sampled-value frame. -/
def isSvFrame (f : Frame) : Bool := match f.body with
  | .sv _ => true
  | _ => false

/-- A frame that waits in a port keeps its physical arrival, a sampled-value frame its arrival on the old timescale, by which
R70 knows it. -/
def moveFrame (d : Time) (f : Frame) : Frame :=
  if isSvFrame f then f else { f with tArr := f.tArr + d, tSfd := f.tSfd + d }

/-- Stored instants of ingest; the count-jump check is off for the first frame of every stream (R70). -/
def moveStream (d : Time) (x : Stream) : Stream :=
  { x with lastArr := later d x.lastArr, since := x.since + d, afterStep := true }
def moveIngest (d : Time) (x : Ingest) : Ingest :=
  { x with
    ports := x.ports.mapVals (fun _ p => { p with
      waiting := p.waiting.map (moveFrame d), lanDown := p.lanDown.map (fun c => (c.1, c.2.1, c.2.2 + d)) })
    oldFrames := ((x.ports.flatMap (fun p => p.2.waiting)).filter isSvFrame).map (fun f =>
      (f, d + ((x.oldFrames.find? (fun p => p.1 == f)).map (fun p => p.2)).getD 0))
    streams := x.streams.mapVals (fun _ c => moveStream d c)
    streamsNew := x.streamsNew.mapVals (fun _ c => moveStream d c)
    subs := x.subs.mapVals (fun _ c => { c with
      accepted := c.accepted.map (fun a => (a.1 + d, a.2)), visible := c.visible + d
      before := c.before.map (fun v => (v.1 + d, v.2)) })
    pubs := x.pubs.mapVals (fun _ c => { c with next := later d c.next })
    nodes := x.nodes.map (fun n => { n with
      seenA := later d n.seenA, seenB := later d n.seenB, last := n.last + d, since := n.since + d }) }

/-- The timebase after the step (R95): θ history restarts, I is kept, TB_STATE stays. -/
def moveTimebase (d : Time) (x : Timebase) : Timebase :=
  { x with
    now := x.now + d, step := none, outliers := [], lockRun := 0
    lastMeas := later d x.lastMeas, lastFed := later d x.lastFed, ppsSecFrom := later d x.ppsSecFrom
    lastPps := later d x.lastPps, lastPtp := later d x.lastPtp, ppsFall := later d x.ppsFall
    ports := x.ports.mapVals (fun _ p => { p with
      announce := p.announce.map (fun a => { a with stamp := a.stamp + d }), lastExchange := later d p.lastExchange, reqAt := later d p.reqAt, sync := p.sync.map (fun q => (q.1, q.2.1 + stepUnits d, q.2.2))
      withinPps := 0 }) }

/-- A remote terminal after the step: decoded sets leave, remote minus local time moves with the local grid (R169). -/
def moveTerm (d : Time) (t : LdfTerm) : LdfTerm :=
  { t with
    sets := [], lastIn := later d t.lastIn, ingress := t.ingress + stepsNs d, undo := none, measAt := t.measAt.map (fun p => (p.1, p.2 + stepsNs d))
    suspectSince := later d t.suspectSince, holdoff := later d t.holdoff
    lost := later d t.lost, theta := if t.mode = .timed then t.theta else t.theta - stepsNs d }
def moveLdf (d : Time) (x : Ldf) : Ldf :=
  { x with
    terms := x.terms.mapVals (fun _ t => moveTerm d t)
    own := [], gather := [], sentN := [], forceKey := true, aligned := none, stalled := 0
    launches := x.launches.map (fun l => (l.1, l.2.1, l.2.2 + d)), since := x.since + d }

/-- A zone's estimators restart on samples from sheaf k' on (R122): f_t holds its last value. -/
def moveZone (k' : Nat) (z : Zone) : Zone := { z with refs := [], fraws := [], fzs := [], v1s := [], estAt := none, fzQ := 1, estFrom := 3 * k' }

/-- An instance is frozen until its windows are full again (R122); a voltage-loss run keeps its length (R130). -/
def moveInst (n : Int) (i : Inst) : Inst :=
  { i with
    frozen := i.wasOn
    lossFrom := i.lossFrom.map (movedBy n), v1Seen := i.v1Seen.map (movedBy n)
    memory := i.memory.map (fun m => (movedBy n m.1, m.2)) }

/-- Tenon goes on with the next sub-sample of the new timescale (R211). n: sheaves. -/
def moveTenon (n : Int) (t : TenonZone) : TenonZone :=
  { t with
    lastHold := t.lastHold.map (movedBy (3 * n)), lastBs := t.lastBs.map (movedBy (3 * n)), lastBsop := t.lastBsop.map (movedBy n) }

/-- Binary inputs and pairs go on likewise (R222, R223). -/
def moveBi (n : Int) (b : Bi) : Bi :=
  { b with
    pairs := b.pairs.mapVals (fun _ p => { p with
      disagreeSince := p.disagreeSince.map (movedBy (3 * n)), agreeSince := p.agreeSince.map (movedBy (3 * n)), was := none })
    log := b.log.map (fun e => (movedBy (3 * n) e.1, e.2)) }

/-- The tests of lanes fall on the sheaves that come next (R286). -/
def moveLanes (n : Int) (x : Lanes) : Lanes :=
  { x with
    suspects := x.suspects.map (fun p => { p with sheaf := movedBy n p.sheaf, decideAt := movedBy n p.decideAt })
    recheck := x.recheck.map (fun p => (p.1, movedBy n p.2))
    lastMismatch := x.lastMismatch.mapVals (fun _ j => movedBy n j)
    delivered := [], compared := false, mismatch := false }

/-- A role swap under way goes on at the next commits (R301). -/
def moveSwap (d : Time) (n : Int) : Swap → Swap
  | .idle => .idle
  | .due t b => .due (t + d) b
  | .marked t b j => .marked (t + d) b j
  | .acked t b j => .acked (t + d) b j
  | .released t b r => .released (t + d) b (movedBy n r)
  | .handed t b r => .handed (t + d) b (movedBy n r)

/-- A change that waits for a boundary (R30): a package names its sheaf, and one whose sheaf a forward step leaps over is applied at
C_k' (DESIGN CHOICE, log 72); the others keep their distance, on a cycle's start where they need one. -/
def moveChange (n : Int) (period k' : Nat) (p : Pending) : Pending :=
  let up (j : Nat) : Nat := period * ceilDiv j period
  match p.change with
  | .package _ _ => p
  | .snapsets _ => { p with j := movedBy n p.j }
  | .group _ _ => { p with j := movedBy n p.j }
  | .manual _ => { p with j := movedBy n p.j }
  | .param _ _ => { p with j := up (movedBy n p.j) }
  | .force _ _ => { p with j := up (movedBy n p.j) }
  | .unforce _ => { p with j := up (movedBy n p.j) }
  | .restartLogic _ => { p with j := up (movedBy n p.j) }
  | .unforced _ => { p with j := up k' + period - 1 }

/-- Commands that wait for their turn count from the sheaf of their acceptance (R338). -/
def moveInflight (n : Int) (e : Inflight) : Inflight :=
  match e.stage with
  | .awaitOrder g => { e with stage := .awaitOrder (movedBy n g) }
  | .awaitBoundary j => { e with stage := .awaitBoundary (movedBy n j) }
  | _ => e
def moveView (n : Int) (x : ViewState) : ViewState := { x with inflight := x.inflight.map (moveInflight n) }

/-- Instants kept for supplies, restarts and waits. -/
def movePower (d : Time) (p : Power) : Power :=
  { p with
    lastHaltedRestart := later d p.lastHaltedRestart, vanaDip := later d p.vanaDip, vanaPast := p.vanaPast.map (laterPair d)
    restarts := p.restarts.map (fun t => t + d) }

/-- The step of d at boundary C_j, with k' the first sheaf evaluated afterwards (R36). -/
def regridTo (j : Nat) (d : Time) (k' : Nat) (s : State) : State :=
  let n : Int := (k' : Int) - j - 1
  let s := count 145 1 (tally 0x0104 [item j, item k', item (stepsNs d)] s)
  let s := shiftLaunches d (thresherRestart (3 * j + 2) 6 (3 * k') s)
  { s with
    glb := { s.glb with cur := k', frozen := false, configFrom := later d s.glb.configFrom }
    pf0 := moveView n s.pf0
    pf1 := moveView n s.pf1
    cfg := { s.cfg with changes := s.cfg.changes.map (moveChange n (periodOf s) k'), armedFrom := k' }
    samp := { moveSampling j n d s.samp with fixes := s.samp.fixes.map (fun f => { f with d := movedBy n f.d }) }
    ing := moveIngest d s.ing
    tb := moveTimebase d s.tb
    ldf := s.ldf.mapVals (fun _ x => moveLdf d x)
    zones := s.zones.mapVals (fun _ z => moveZone k' z)
    insts := s.insts.mapVals (fun _ i => moveInst n i)
    tenon := s.tenon.mapVals (fun _ t => moveTenon n t)
    results := []
    logic := { s.logic with cycle := none, imaged := false, missed := [], holdCycle := false }
    wires := s.wires.mapVals (fun _ w => { w with lastGate := w.lastGate.map (movedBy n) })
    bi := moveBi n s.bi
    lanes := moveLanes n s.lanes
    pair := { s.pair with swap := moveSwap d n s.pair.swap, swapFrom := s.pair.swapFrom + d }
    bist := { s.bist with
      queue := s.bist.queue.map (fun r => { r with notBefore := movedBy n r.notBefore, startAt := r.startAt + d })
      scanEnd := s.bist.scanEnd.map (fun t => t + d) }
    power := movePower d s.power }

/-- A step decided before boundary C_j takes effect there (R36, R95); otherwise sheaf j + 1 is next. -/
def nextSheaf (j : Nat) (s : State) : State :=
  match s.tb.step with
  | some d => regridTo j d (firstSheafAfter (s.tb.now + d)) s
  | none => { s with glb := { s.glb with cur := j + 1, frozen := false } }

end Sys2Proof.Machine
end

