-- ==== Sys2Proof/Machine/Dump.lean ====
section
/-!
DEFINITION. The fatal-error dump (20_observation_dump.md R402 to R406, R374) and entry to HALTED (R35, R111, R365).
-/
namespace Sys2Proof.Machine

/-- Exactly n bytes: cut, or filled with 0. -/
def fixLen (n : Nat) (bs : List Byte) : List Byte := (bs ++ zeros n).take n

/-- The sections of a dump in order: type and bytes (R405). The register image is the model's; the content of the others is
the supervisor's own memory and status (Config.dumpSection, log 8). -/
def dumpSections (s : State) : List (Nat × List Byte) :=
  let own (t : Nat) : List Byte := Config.dumpSection t s.glb.free
  [(1, fixLen 4096 (own 1)), (2, fixLen 65536 (own 2)), (3, (own 3).take 2097152), (4, fixLen 65536 (own 4)),
    (5, wordBytes (snapshotWords s .pf0)), (6, (own 6).take 278528), (7, fixLen 262144 (own 7)),
    (8, fixLen 4096 (own 8))]

/-- The bytes of a section with the fill up to the next multiple of 4,096. -/
def paddedSection (bs : List Byte) : List Byte := fixLen (4096 * ceilDiv bs.length 4096) bs

/-- Section-table entries of sections placed from an offset on (R404). -/
def sectionTable : Nat → List (Nat × List Byte) → List Byte
  | _, [] => []
  | o, (t, bs) :: rest =>
    leBytes 2 t ++ zeros 2 ++ leBytes 4 o ++ leBytes 4 bs.length ++ leBytes 4 (crc32 bs).toNat ++
      sectionTable (o + 4096 * ceilDiv bs.length 4096) rest

/-- The header of a dump with VALID set (R404). fault: the four FAULT items. -/
def dumpHeader (s : State) (cause no : Nat) (fault : List Nat) (secs : List (Nat × List Byte)) (body : List Byte) :
    List Byte :=
  let head := [0x45#8, 0x56#8, 0x44#8, 0x4D#8] ++ leBytes 2 1 ++ leBytes 2 cause ++ leBytes 4 (4096 + body.length) ++
    leBytes 4 no ++ leBytes 8 s.glb.sheaf ++ leBytes 4 s.glb.opsec.toNat ++ leBytes 4 s.glb.pwrcyc.toNat ++
    timeBytes s.tb.now ++ leBytes 4 ((s.trust.slotVersion[s.trust.running]?).getD 0).toNat ++
    leBytes 1 s.trust.running ++ leBytes 1 s.glb.gstate.code ++ leBytes 2 secs.length ++
    (List.range 4).flatMap (fun i => leBytes 8 ((fault[i]?).getD 0)) ++ sectionTable 4096 secs
  fixLen 4032 head ++ sha384 body ++ zeros 12 ++ leBytes 4 0x56414C44

/-- A dump of the present state. -/
def dumpOf (s : State) (cause no : Nat) (fault : List Nat) : Dump :=
  let secs := dumpSections s
  let body := secs.flatMap (fun x => paddedSection x.2)
  ⟨cause, no, dumpHeader s cause no fault secs body ++ body⟩

/-- The supervisor runs: it is neither parked nor in a restart (R374). -/
def supervisorRuns (s : State) : Bool :=
  !s.power.parked && !s.power.inReset && (s.power.online || s.glb.gstate == .boot)

/-- The firmware begins a dump: VALID is cleared in both headers first (R406). -/
def startDump (cause : Nat) (fault : List Nat) (s : State) : State :=
  let d := dumpOf s cause (s.dumpNo + 1) fault
  { s with
    dumpBusy := some d, dumpDdr := none, dumpEmmc := if s.store.emmcFailed then s.dumpEmmc else none
    glb := { s.glb with free := s.glb.free + 1 } }

/-- The dump is written (R374, R406): with the eMMC out of service only the DDR copy, and no event. -/
def finishDump (s : State) : State :=
  match s.dumpBusy with
  | none => s
  | some d =>
    let s := { s with dumpDdr := some d, dumpBusy := none }
    if s.store.emmcFailed then s
    else
      postEvent 0x0E07 (BitVec.ofNat 64 d.bytes.length) (sticky 2 10 { s with dumpEmmc := some d, dumpNo := d.no })

/-- Supervisor restarts in the 600 s before now (R373, R379). -/
def recentRestarts (s : State) : List Time := s.power.restarts.filter (fun t => decide (s.tb.now ≤ t + 600 * stepsPerSec))

/-- Entry to HALTED, at once (R35, R111, R298, R365, R374): a dump where the supervisor ran in the state it leaves. cause: of
Config.supervisorCause; R365 lists no entry 0x0D05 for a self-test outcome (5). -/
def halt (cause dumpCause : Nat) (fault : List Nat) (s : State) : State :=
  let old := s.glb.gstate
  let runs := supervisorRuns s
  let s := releaseWires { s with glb := { s.glb with gstate := .halted, next := none, running := false, hlthArmed := false, configFrom := none } }
  let again := match s.power.lastHaltedRestart with
    | some t => decide (s.tb.now ≤ t + 10 * stepsPerSec)
    | none => false
  let s := tokenByState { s with
    results := []
    power := { s.power with haltedForGood := s.power.haltedForGood || again } }
  let s := if cause = 5 then s else tally 0x0D05 [Config.supervisorCause cause, item (recentRestarts s).length] s
  let s := if runs then startDump dumpCause fault s else s
  postEvent 0x0E02 (BitVec.ofNat 64 (4 + 256 * old.code + 4294967296 * (s.glb.sheaf % 4294967296))) s

/-- The states that a failure of the sheaf fabric ends (R365). -/
def haltable (s : State) : Bool :=
  !s.power.inReset && (s.glb.running || (s.power.powered && s.glb.gstate == .boot)) && s.glb.gstate != .halted && s.glb.gstate != .test

/-- The buffers did not flip: the host still sees the sheaf committed before (R25, R35, R332). -/
def unflip (s : State) : State :=
  match s.glb.flipFrom with
  | some g => { s with glb := { s.glb with sheaf := g, flipFrom := none }, zst := s.zstHidden, zstHidden := s.zst }
  | none => s

/-- The flip of the last commit is not complete by C_k + 20 µs (R35). -/
def flipFails (delayNs : Nat) (s : State) : State :=
  if haltable s ∧ s.glb.running then settle (halt 3 2 [s.glb.sheaf, delayNs] (unflip s)) else s

/-- COMMIT_FAILURE: a failure is one that stands 20 µs after the commit instant (R35). -/
def execCommitFailure (delayNs : Nat) (s : State) : Host.Outcome State Fault Refusal :=
  .next (if 20000 ≤ delayNs then flipFails delayNs s else s)
/-- TCXO_FAIL (R111). -/
def execTcxoFail (s : State) : Host.Outcome State Fault Refusal :=
  .next (if haltable s then settle (halt 4 3 [] s) else s)
/-- DUMP_COMPLETE. -/
def execDumpComplete (s : State) : Host.Outcome State Fault Refusal := .next (finishDump s)

end Sys2Proof.Machine
end

