-- ==== Sys2Proof/Machine/Commit.lean ====
section
/-!
DEFINITION. The sheaf pipeline (01_sheaf.md R20 to R35): the close deadline, the commit instant, the completion of its flip.
-/
namespace Sys2Proof.Machine

/-- The sheaf in the pipeline is frozen at its close deadline (R22): what came in is stored and published, what is missing
is marked, the hard-wired and line-differential work that needs the frozen set is done. -/
def closeSheaf (convs : List Conversion) (s : State) : State :=
  let k := s.glb.cur
  let s := advance (closeDeadlineOf (runningLpipe s) k) s
  let s := dovetailMissing k (markMissing k (dovetailPublish k (storeLocal k (gleanerMeasure k (addConversions k convs s)))))
  let s := ldfDeadline s
  let s := { s with lanes := { s.lanes with ldf := s.ldf } }
  let s := tenonEvaluate k s
  let s := if protecting s ∧ k ≠ s.glb.sheaf + 1 then gateHeld k s else s
  let s := traceMsg 0x10 (beBytes 4 (k % 4294967296) ++ traceTs s) s
  let s := trimBiLog k (trimHistories k s)
  { s with glb := { s.glb with frozen := true } }

/-- The results of the sheaf and the outputs of a cycle that ends become the committed state (R25, R33, R179, R180, R205,
R206). -/
def publishSheaf (k : Nat) (f : LaneFindings) (s : State) : State :=
  let s := applyResults f s
  let s := { s with bi := { s.bi with points := biPoints k s } }
  match s.logic.cycle with
  | none => s
  | some c =>
    let s := if c = k then imageCycle s else s
    if k + 1 = c + periodOf s then
      let r := endCycle k s
      if r.1 then { r.2 with lanes := { r.2.lanes with markAll := true } } else r.2
    else s

/-- GOOSE publication of commit k (R81, R82). -/
def publishGoose (k : Nat) (s : State) : State :=
  if s.pair.publishDue then publishAll k { s with pair := { s.pair with publishDue := false } } else publishBoundary k s

/-- Thresher takes sheaf k; the manual triggers due are fired and answered (R225, R241). -/
def runThresher (k : Nat) (s : State) : State :=
  let due := takeChanges (fun p => isManual p && decide (p.j ≤ k)) s
  let program (p : Pending) : Nat := match p.change with
    | .manual n => n
    | _ => 0
  let r := thresherSheaf k (due.1.map program) due.2
  due.1.foldl (fun s p =>
    let outcome := (FMap.get? r.1 (program p)).getD 3
    answerChange p (leBytes 8 (3 * k) ++ leBytes 1 outcome) s) r.2

/-- What Thresher counts and reports on sheaf k comes after the copies that C_k shows (R225, R273): the state without it, and
what shows it later. -/
def thresherLater (k : Nat) (s : State) : State × (State → State) :=
  let t := runThresher k { s with cnt := [], tally := { s.tally with queue := [] } }
  let put (s : State) (e : TallyEvent) : State :=
    if 1023 ≤ tallyWaiting s.tally then dropEvent s
    else { s with tally := { s.tally with queue := s.tally.queue ++ [e] } }
  ({ t with cnt := s.cnt, tally := { t.tally with queue := s.tally.queue } },
    fun x => t.tally.queue.foldl put (t.cnt.foldl (fun x c => count c.1 c.2 x) x))

/-- Positions of serving lanes that fail at C_k, with the lanes (R286 to R288). -/
def failingPositions (s : State) (f : LaneFindings) : List (Nat × Nat) :=
  f.stalled ++ s.lanes.retire.flatMap (fun r => (positionsOf s r.1).map (fun p => (p, r.1)))

/-- A lane under test is recalled for the first failing position, and that failure is not acted on here (R312). -/
def recallFor (k : Nat) (f : LaneFindings) (s : State) : LaneFindings × State :=
  match failingPositions s f with
  | (p, l) :: _ =>
    let r := recallLane k p s
    if r.1 then
      ({ f with stalled := f.stalled.filter (fun x => x.1 != p) },
        { r.2 with lanes := { r.2.lanes with retire := r.2.lanes.retire.filter (fun x => x.1 != l) } })
    else (f, s)
  | [] => (f, s)

/-- R31 step 1: lane reassignments and converter handovers. -/
def reassign (k : Nat) (katFailed : List Nat) (katSpare : Bool) (f : LaneFindings) (s : State) : State :=
  let r := recallFor k f s
  bistBoundary k (gleanerBoundary (applyFixes k (laneBoundary k katFailed katSpare r.1 r.2)))

/-- R31 steps 2 to 5: package, groups, parameters, forces, removals, logic restart. A zone's group source is read with the
declared inputs as committed at this boundary (R78, R182). -/
def applyChanges (k : Nat) (s : State) : State :=
  let s := applyKind k isPackage (applyPackage k) s
  let s := applyKind k isSnapsets (applySnapsets k) s
  let s := inputBoundary s.tb.now (applyKind k isGroup (applyGroup k) s)
  let s := (enabledZones s).foldl (fun s z => sourceGroup z s) s
  let s := applyKind k isParam (applyParam k) s
  let s := applyKind k isForce (applyForce k) s
  let s := applyKind k isUnforce (applyUnforce k) s
  applyKind k isRestart (applyRestart k) s

/-- R31 step 6: zones marked, the state machine (R34, R365). -/
def changeStates (k : Nat) (twice : List Nat) (lock : Bool) (s : State) : State :=
  let s := applyState k (lockCheck lock (markZones k twice s))
  { s with tb := { s.tb with armDue := false } }

/-- What ends a boundary: snapshots, Tally snapshots, the next sheaf and its logic cycle (R192, R273, R324). -/
def afterBoundary (k : Nat) (s : State) : State :=
  let s := fillSnapshots k (snapshotStart k .pf1 (snapshotStart k .pf0 s))
  let s := nextSheaf k (dropSummary (ringFlush s.tally.queue.length s))
  if protecting s ∧ s.logic.cycle.isNone ∧ s.glb.cur % periodOf s = 0 then latchCycle s.glb.cur s else s

/-- Commit k (R25 to R34): the flip shows sheaf k's results, then the boundary's changes are applied for sheaf k + 1. -/
def commitSheaf (inputs : IlkInputs) (katFailed : List Nat) (katSpare : Bool) (s : State) : State :=
  let k := s.glb.cur
  let s := advance (commitInstantOf (runningLpipe s) k) s
  let lock := waitsForLock s && s.tb.state == .locked
  let s := stickyCommit k (markMismatch k { s with
    glb := { s.glb with sheaf := k, hlthArmed := true, flipFrom := some s.glb.sheaf }, tb := { s.tb with shown := s.tb.state } })
  let s := if protecting s then ldfBoundary k s else s
  let (f, s) := laneCheck k s
  let twice := twiceOverran f s
  let s := publishSheaf k f s
  let s := if protecting s then gateAll k s else s
  let (s, later) := thresherLater k (publishGoose k s)
  let s := zstCommit k (endUnforce k s)
  let s := changeStates k twice lock (applyChanges k (reassign k katFailed katSpare f s))
  settle (later (afterBoundary k (pairBoundary k inputs s)))

/-- The flip is complete by C_k + 20 µs (R35): later than C_k + 2 µs it still stands. -/
def flipDone (delayNs : Nat) (s : State) : State :=
  let k := s.glb.sheaf
  let late := decide (2000 < delayNs)
  let s := advance (commitInstantOf (runningLpipe s) k + nsSteps delayNs) s
  let s := { s with glb := { s.glb with flipFrom := none } }
  let held := (enabledZones s).any (fun z => (zoneOf s z).held)
  let s := if late then sticky 0 5 (tally 0x0103 [item k, item delayNs] s) else s
  traceMsg 0x11 (beBytes 4 (k % 4294967296) ++ traceTs s ++ beBytes 1 (boolNat late + 2 * boolNat held)) s

/-- CLOSE_DEADLINE. -/
def execCloseDeadline (convs : List Conversion) (s : State) : Host.Outcome State Fault Refusal :=
  .next (if s.glb.running ∧ s.glb.frozen = false then closeSheaf convs s else s)
/-- COMMIT_INSTANT. -/
def execCommitInstant (inputs : IlkInputs) (katFailed : List Nat) (katSpare : Bool) (s : State) :
    Host.Outcome State Fault Refusal :=
  .next (if s.glb.running ∧ s.glb.frozen then together (commitSheaf inputs katFailed katSpare) s else s)
/-- FLIP_COMPLETE: one later than C_k + 20 µs is a failure of the sheaf fabric (R35). -/
def execFlipComplete (delayNs : Nat) (s : State) : Host.Outcome State Fault Refusal :=
  .next (if 20000 < delayNs then flipFails delayNs s else if s.glb.running then flipDone delayNs s else s)

end Sys2Proof.Machine
end

