-- ==== Sys2Proof/Machine/Start.lean ====
section
/-!
DEFINITION. Reset and the kinds of start (18_startup_power.md R365 to R372, R379): what the assertion of RST_N stops, what each
start keeps (R371), the boot ROM (R383, R384), the findings of a cold start (R313), the first boundary.
-/
namespace Sys2Proof.Machine

/-- A view after a reset of the engine: private registers at their reset values, those of the PCIe function too. -/
def resetView (x : ViewState) : ViewState :=
  { flrView x with
    tbSec := 0, tbNs := 0, tbFrac := 0, snpSeq := 0, snpSheaf := 0, d3hot := false, busMaster := false, ring := [] }

/-- The result of an UNFORCE that has taken effect (R199): the changes hold what is still to come of it. -/
def unforcedAt (cs : List Pending) (e : Inflight) : Option Nat :=
  (cs.find? (fun p => isUnforced p && p.hostSeq == e.hostSeq)).map (fun p => p.j)

/-- What a reset makes of a command in flight (R354, R360): a journal record that was being programmed is judged by the scan of the
start; INSTALL_FW and RUN_BIST go on after the start; an UNFORCE that has taken effect is done, since every start leaves the
points unforced; other boundary-applied commands, STAGE_SETTINGS and LOAD_PROGRAM are cancelled; reads and other commands run
again. A mirrored command waits for the token holder's completion; one that executes here under FLAGS.PARTNER is as the engine's
own. A command executed without a journal is gone. -/
def commandAtReset (cs : List Pending) (e : Inflight) : Option Inflight :=
  let cancelled := boundaryApplied e.opcode || e.opcode == 0x0201 || e.opcode == 0x0301
  match e.stage with
  | .journaling => some e
  | .decided _ _ _ => some e
  | .completing st cf r => some { e with stage := .decided st cf r }
  | .atPartner => some e
  | .testing => some e
  | _ =>
    if e.engineSeq = 0 then none
    else if e.remote ∧ partnerFlag e.flags = false then some { e with stage := .atPartner }
    else if e.opcode = 0x0901 then some { e with stage := .running }
    else if cancelled then
      match unforcedAt cs e with
      | some j => some { e with stage := .decided 0 0 (leBytes 8 j) }
      | none => some { e with stage := .decided 0x0109 0 [] }
    else some { e with stage := .rerun }

/-- A record that waits for the standby's word is whole in every mirror its set names: the scan accepts it (R360). -/
def acceptWaiting (s : State) : State :=
  match findInflight s .pf0 (fun e => e.stage == .awaitPartner && !e.remote) with
  | none => s
  | some e =>
    let q := s.store.engineSeq + 1
    let x := s.pf0
    { s with
      pf0 := { x with
        nextSeq := e.hostSeq + 1
        inflight := x.inflight.map (fun y => if sameCommand y e then { y with engineSeq := q } else y) }
      store := { s.store with engineSeq := q } }

/-- The journal scan of a start judges the record that was being programmed (R360): accepted where it is valid in every mirror of
its set, those in service when it was written; else it was never written and consumes no HOST_SEQ. -/
def judgeRecord (a b : Bool) (v : View) (s : State) : State :=
  match findInflight s v (fun e => e.stage == .journaling && !e.remote) with
  | none => s
  | some e =>
    let x := s.view v
    if anyMirror s ∧ (s.store.norA = false ∨ a) ∧ (s.store.norB = false ∨ b) then
      let q := s.store.engineSeq + 1
      let y := commandAtReset [] { e with engineSeq := q, stage := .running }
      { s.setView v { x with
          nextSeq := e.hostSeq + 1
          inflight := x.inflight.filterMap (fun z => if sameCommand z e then y else some z) } with
        store := { s.store with engineSeq := q } }
    else dropInflight v e s
def journalScan (f : StartFindings) (s : State) : State :=
  judgeRecord f.journalA f.journalB .pf1 (judgeRecord f.journalA f.journalB .pf0 s)

/-- What a completion that a reset kept from the host becomes at the start (R354): DONE where the state after the start
shows the effect. Forces are cleared by every start; groups, parameters and records by a cold one. -/
def effectShown (cold : Bool) (e : Inflight) : Inflight :=
  match e.stage with
  | .decided st _ _ =>
    let lost := e.opcode == 0x0303 || (cold && [0x0203, 0x0302, 0x0404].contains e.opcode.toNat)
    if st = 0 ∧ e.remote = false ∧ lost then { e with stage := .decided 0x0109 0 [] } else e
  | _ => e

/-- STATE_CHANGED where GLB_STATE takes another value outside a boundary (R353). -/
def stateEvent (new : GState) (s : State) : State :=
  if s.glb.gstate = new then s
  else postEvent 0x0E02
    (BitVec.ofNat 64 (new.code + 256 * s.glb.gstate.code + 4294967296 * (s.glb.sheaf % 4294967296))) s

/-- The assertion of RST_N, and loss of power (R372, R218, R298, R312, R371, R393). -/
def assertReset (s : State) : State :=
  let halted := s.glb.gstate == .halted
  let s := { s with power := { s.power with
    inReset := true, longHold := false, fromHalted := halted, online := false, booting := false, vid := 0xF } }
  let s := if s.power.powered then stateEvent .boot s else s
  let s := freeTested (bistAbort 5 (laneOutcome s.glb.sheaf s))
  let s := acceptWaiting s
  let cs := s.cfg.changes
  let view (x : ViewState) : ViewState := resetView { x with inflight := x.inflight.filterMap (commandAtReset cs) }
  let s := { s with
    pf0 := view s.pf0, pf1 := view s.pf1, bells := [], results := [], dumpBusy := none
    glb := { s.glb with gstate := .boot, next := none, running := false, frozen := false, hlthArmed := false, configFrom := none, flipFrom := none }
    cfg := { s.cfg with changes := [] }
    trust := { s.trust with activationDue := false }
    logic := { s.logic with cycle := none }
    store := { s.store with flush := none }
    power := { s.power with tap := if s.power.tap = 0x01 then 0x01 else 0xFF } }
  zeroSecrets (withRole (fun s =>
    loseToken { s with pair := { s.pair with inStep := false, agreeing := 0 } }) (releaseWires s))

/-- A self-test through a start (R312): an aborted run is looked at again; one that VCORE_LOW or TEMP_HIGH ended waits on for the
condition to have been clear for 1 s. -/
def afterStart (q : BistRun) : BistRun := { q with waiting := q.waiting && (q.abortCause == 2 || q.abortCause == 3) }

/-- The state that a cold start or cold restart keeps (R371): the journal, records, logs, firmware and settings on the
non-volatile stores, the dump slot, the outputs sent; power: the state of the die is lost too. -/
def coldState (power : Bool) (s : State) : State :=
  let r := State.reset
  let x := s.tb.config
  { r with
    pending := s.pending, pf0 := s.pf0, pf1 := s.pf1
    glb := { r.glb with
      lpipeSet := s.glb.lpipeSet, opsec := if power then s.store.opsecStored else s.glb.opsec
      pwrcyc := if power then s.glb.pwrcyc + 1 else s.glb.pwrcyc, free := s.glb.free }
    ing := { r.ing with ports := if power then [] else s.ing.ports.mapVals (fun _ p => { Port.init with link := p.link }) }
    tb := { r.tb with config := modAt (fun w => w &&& 0xFFFEFFFF#32) 8 x, clock := if power then 0 else s.tb.clock }
    dovetail := if power then [] else s.dovetail
    pair := { r.pair with c0 := s.pair.c0, c1 := s.pair.c1, seqAdoptDue := s.pair.seqAdoptDue }
    tally := { r.tally with nextSeq := s.tally.nextSeq, log := s.tally.log, single := s.tally.single, snapsets := s.tally.snapsets }
    granary := { s.granary with
      opened := [], closed := [], failures := 0, slow := false, walked := false, shrunk := none }
    bist := { r.bist with queue := s.bist.queue.map (fun q => { afterStart q with notBefore := 0 }) }
    dumpEmmc := s.dumpEmmc, dumpNo := s.dumpNo, trust := s.trust
    store := { s.store with retainedPending := [], pendingSheaf := 0, retainedAdvance := s.store.retainedAdvance }
    power := { s.power with
      fromHalted := false, lastHaltedRestart := none, haltedForGood := false, supplyOk := true
      vanaDip := none, vanaPast := [], pfail := !power && s.power.pfail, restarts := [], loadFailed := false
      failedBlocks := [], configDue := none, tap := if power then 0x01 else s.power.tap
      heldEvents := if power then [] else s.power.heldEvents }
    trace := if power then { s.trace with sec := none, run := 0, emptyAt := 0, lost := 0 } else s.trace
    sent := s.sent, hostMem := s.hostMem }

/-- An auto-reclose instance through a warm restart (R125): READY stays, every other state goes to LOCKOUT. Other
instances start afresh. -/
def warmInst (i : Inst) : Inst :=
  { Inst.init with reclose := match i.reclose with
    | .ready => .ready
    | _ => .lockout }

/-- A line-differential terminal through a warm restart (R176): TIMED goes on, ECHO_FROZEN restarts in ECHO with the ε of a
step. -/
def warmTerm (t : LdfTerm) : LdfTerm :=
  { LdfTerm.init with
    mode := match t.mode with
      | .timed => .timed
      | _ => .echo
    raised := t.mode == .frozen
    validRun := t.validRun, timeValid := t.timeValid, lastSheaf := t.lastSheaf }

/-- What a warm restart makes of the running state (R370, R371, R122, R125, R201, R211, R224, R243, R290). -/
def warmState (s : State) : State :=
  let r := State.reset
  let s := s.samp.fixes.foldl (fun s f => applyFix f s) { s with samp := { s.samp with fixes := [] } }
  let s := logicStart 0 s.logic.retained false s
  { s with
    samp := { s.samp with hist := [], raw := [], boundFrom := [] }
    ing := { r.ing with
      ports := s.ing.ports.mapVals (fun _ p => { Port.init with link := p.link })
      pubs := s.ing.pubs.mapVals (fun _ p => { p with last := none, next := none }) }
    ldf := s.ldf.mapVals (fun _ x => { Ldf.init with terms := x.terms.mapVals (fun _ t => warmTerm t), since := s.tb.now })
    zones := s.zones.mapVals (fun _ z => { Zone.init with group := z.group, lastTrip := z.lastTrip })
    tenon := [], results := []
    insts := s.insts.mapVals (fun _ i => warmInst i)
    logic := { s.logic with inBools := [], inWords := [], latBools := [], latWords := [], latForces := [] }
    wires := s.wires.mapVals (fun _ w => { Wire.init with lastGate := w.lastGate })
    bi := Bi.init
    lanes := { Lanes.init with states := s.lanes.states, positions := s.lanes.positions }
    pair := { Pair.init with
      c0 := s.pair.c0, c1 := s.pair.c1, seqAdoptDue := s.pair.seqAdoptDue, swapFrom := s.pair.swapFrom }
    bist := { s.bist with queue := s.bist.queue.map afterStart }
    power := { s.power with supplyOk := true } }

/-- The activation record with the highest SEQ in either mirror governs (R381); without one the fields stand as they are. -/
def governed (f : StartFindings) (s : State) : State :=
  let rs := (if f.norA then s.trust.recordsA else []) ++ (if f.norB then s.trust.recordsB else [])
  match rs.foldl (fun (m : Option ActRecord) r => if m.all (fun x => x.seq < r.seq) then some r else m) none with
  | none => s
  | some r => { s with trust := { s.trust with
      actSeq := r.seq, activeSlot := r.activeSlot, slotState := r.state, slotDigest := r.digest
      slotVersion := r.version, slotBg := r.bg } }

/-- The boot ROM chooses the slot to run (R383, R384): the active one, else the other where it is verified. The entry of a
start from the other slot; none where no slot passes. A slot passes where the checks of R383 find no fault in the image that the
model holds (a factory image it does not hold; log 7), and where its blocks can be read. -/
def bootSlot (f : StartFindings) (s : State) : Option (State → State) :=
  let a := s.trust.activeSlot
  let b := 1 - a
  let passes (n : Nat) : Bool := (f.slotPasses[n]?).getD false && (slotFault s n).isNone
  if passes a then some (fun s => { s with trust := { s.trust with running := a, fallback := false } })
  else if passes b ∧ (s.trust.slotState[b]?).getD 0 = 2 then
    some (fun s =>
      let s := recordSlot a 0 0 0 0 { s with trust := { s.trust with running := b, activeSlot := b, fallback := true } }
      sticky 3 3 (tally 0x0C01 [item a, item ((slotFault s a).getD ((f.slotFailedCheck[a]?).getD 0))] s))
  else none

/-- START and, where PFAIL_SEEN was set or a flush marker is present, POWER_FAIL (R379): the first commit and the duration are
filled in when they are known. -/
def startEntries (retained lostT lostR : Nat) (s : State) : State :=
  let l := s.power.latch
  let whole := field l 31 24 == 0xA5
  let s := tally 0x0D01 [item s.power.startKind, l.zeroExtend 64, item retained, 0, 0] s
  let m := s.store.flushMarker
  let s := if m.isSome ∨ (whole ∧ bit l 1) then
      match m with
      | some (k, ops, d, _, _) =>
        tally 0x0D02 [item k, ops.zeroExtend 64, item d, item (boolNat (decide (d ≤ 128))), item lostT, item lostR] s
      | none => tally 0x0D02 [0, 0, 0, 0, 0, 0] s
    else s
  { s with
    store := { s.store with flushMarker := none }
    power := { s.power with latch := if whole then l else 0xA5000000#32, startLatch := l, startRetained := retained } }

/-- The bits of the latch that STK3 shows are copied into it (R282). -/
def copyLatch (s : State) : State :=
  latchBits.foldl (fun s p => if bit s.power.latch p.2 then sticky 3 p.1 s else s) s

/-- The tamper entries of the last run (R394): one for each detector that fired. -/
def tamperEntry (s : State) : State :=
  let r := s.trust.tamperReport
  r.foldl (fun s x => tally 0x0C03 [item x.1, item (boolNat x.2)] s) { s with trust := { s.trust with tamperReport := [] } }

/-- The secrets are derived at a start (R380, R393), but for those that ZEROISE withholds (R394). -/
def deriveSecrets (s : State) : State :=
  let z := zeroised s
  { s with bist := { s.bist with
    settingsKey := ownerPackageWhole s, identityKey := !z, sessionKeys := !z, scanEnd := none } }

/-- Tally entries that a start lost (R278): the count and a summary without OPSEC and SHEAF. -/
def lostEntries (n : Nat) (s : State) : State :=
  if n = 0 then s
  else
    let det : List Quad := [item n, 0, 0, 0, 0]
    let set := snapsetFor s evDropSummary det
    let e : TallyEvent := ⟨evDropSummary, det, s.glb.opsec, s.glb.pwrcyc, set, [], false, 0, eventOffsets s set⟩
    let s := sticky 2 8 (count 183 n s)
    { s with tally := { s.tally with queue := s.tally.queue ++ [e] } }

/-- Records that a start lost (R266). -/
def lostRecords (n : Nat) (s : State) : State :=
  if n = 0 then s else sticky 2 11 (count 181 n (tally 0x0903 [0, 0, item n, 2] s))

/-- The Tally scan of a start (R277): entries that a mirror alone holds are copied to the other where it is in service again, and
the copies are flagged (log 32). -/
def copyEntries (f : StartFindings) (s : State) : State :=
  if ¬ (f.norA ∧ f.norB) then s
  else
    { s with tally := { s.tally with
      single := []
      log := s.tally.log.map (fun t => if s.tally.single.contains t.seq then { t with eflags := t.eflags ||| 2 } else t) } }

/-- The entry that was being written and stood whole in one mirror only is completed by the scan of the start (R277), with its
trace message (R396). -/
def completeEntries (seqs : List Nat) (s : State) : State :=
  match s.tally.queue with
  | e :: rest =>
    if e.filled ∧ seqs.contains s.tally.nextSeq.toNat then
      let n := s.tally.nextSeq
      let s := logEntry e n 2 { s with tally := { s.tally with queue := rest } }
      { s with tally := { s.tally with nextSeq := nextNumber s.tally.log n, single := s.tally.single.filter (fun x => x != n) } }
    else s
  | [] => s
def tallyScan (f : StartFindings) (s : State) : State := completeEntries f.tallyPartials (copyEntries f s)

/-- Target words of the blocks that a cold start tests and R309 names: lanes, slices, the eMMC controller. -/
def failedTargets (f : StartFindings) : List Word :=
  f.failedLanes.map (fun n => BitVec.ofNat 32 (256 * n)) ++ f.failedSlices.map (fun n => BitVec.ofNat 32 (256 * n + 1)) ++
    (if f.emmc then [] else [2#32])

/-- The entry of a failing test of a start, with measured values that the findings do not name (R314, log 70). -/
def failEntry (t : Word) (s : State) : State :=
  let (a, s) := takeFree s
  let (b, s) := takeFree s
  tally 0x0B02 [t.zeroExtend 64, 1, 1, a.zeroExtend 64, b.zeroExtend 64] s

/-- A cold-start test whose run aborted (R312, R313): the bit and an entry for each abort; no value was measured. -/
def abortEntry (x : ColdAbort) (s : State) : State :=
  let entry (n : Nat) (s : State) : State := sticky 3 5 (tally 0x0B03 [x.target.zeroExtend 64, 2, item n, 0, 0] s)
  if x.twice then entry 2 (entry 1 s) else entry 1 s

/-- What the self-test of a cold start does by target (R313): lanes, slices, stores; the other blocks are kept. -/
def applyFindings (f : StartFindings) (s : State) : State :=
  let s := { s with
    lanes := coldLanes f.failedLanes
    store := { s.store with norA := f.norA, norB := f.norB, emmcFailed := !f.emmc }
    granary := { s.granary with ddrBytes := f.ddrBytes, badSeals := f.badSeals }
    power := { s.power with failedBlocks := f.failedBlocks } }
  let s := (List.range 68).foldl (fun s n => coldCalibrate n ((f.calibration[n]?).getD idealPoints) s) s
  let s := f.failedLanes.foldl (fun s _ => sticky 0 2 s) s
  let s := f.failedSlices.foldl (fun s n => failSlice n 0 2 none s) s
  let s := if f.norA then s else sticky 2 5 s
  let s := if f.norB then s else sticky 2 6 s
  let s := if f.norA ∨ f.norB then s else postEvent 0x0E01 0 (sticky 2 7 s)
  let s := if f.emmc then s else sticky 2 4 s
  let s := (failedTargets f).foldl (fun s t => failEntry t s) (f.aborts.foldl (fun s x => abortEntry x s) s)
  let bad := !(f.failedLanes.isEmpty && f.failedSlices.isEmpty && f.failedBlocks.isEmpty && f.norA && f.norB && f.emmc)
  if bad then sticky 3 4 s else s

/-- The package and program of a copy, where it passes its checks (R369, R387), those of R390 from the requirement on (R391). -/
def loadCopy (bs : List Byte × List Byte) (s : State) : Option (Package × Option Loaded) :=
  let wrongBg := decide (leAt bs.1 6 2 ≠ runningBg s)
  let unsigned (kind : Nat) (b : List Byte) : Bool := s.trust.requireSigned && signatureFault s kind b
  if wrongBg ∨ unsigned 0 bs.1 then none
  else if bs.2.isEmpty then some (packageOf s bs.1, none)
  else if unsigned 1 bs.2 then none
  else (Config.parseProgram (bs.2.take (bodyLength bs.2))).map (fun q =>
    (packageOf s bs.1, some ⟨imageDigest bs.2, q, hasBlock bs.2⟩))

/-- The package and program in force after a cold start (R369), read after the mailbox is online (R368): those of the copy the
journal names, never of the other. -/
def loadConfig (s : State) : State :=
  match s.power.configDue, s.store.configInForce with
  | none, _ => s
  | some _, none => { s with power := { s.power with configDue := none } }
  | some (digestOk, kept), some n =>
    let copy := if s.store.emmcFailed ∨ digestOk = false then none
      else loadCopy ((s.store.configCopies[n]?).getD ([], [])) s
    match copy with
    | none =>
      tally 0x0D06 [item n, item (boolNat s.store.emmcFailed)]
        { s with power := { s.power with configDue := none, loadFailed := true } }
    | some (p, q) =>
      let s := { s with
        cfg := { s.cfg with package := some p }
        logic := { s.logic with program := q }
        power := { s.power with configDue := none } }
      let s := logicStart 1 kept true s
      let s := { s with logic := { s.logic with retained := retainedImage s } }
      let s := switchZones none { s with glb := { s.glb with lpipe := lpipeUnder s (some p) } }
      selectMaster s

/-- A block of a start that no other part replaces has failed, or a run and its rerun aborted (R313): HALTED, with its dump
(CAUSE 4, R402, R404). Row 4 is Thresher, Granary and Winnow. -/
def selfTestOutcome (f : StartFindings) (s : State) : State :=
  let stop (fault : List Nat) (s : State) : State := halt 5 4 fault { s with power := { s.power with booting := false } }
  match f.aborts.find? (fun x => x.twice) with
  | some x => stop [x.target.toNat, 2] s
  | none =>
    if f.failedBlocks.any (fun n => n != 4) then
      let (w, s) := takeFree s
      stop [w.toNat, 1] s
    else s

/-- The scan of sequencer and commit unit before a warm restart that follows HALTED (R304, R370). -/
def warmScan (f : StartFindings) (s : State) : State :=
  if s.power.fromHalted = false then s
  else
    let s := f.aborts.foldl (fun s x => abortEntry x s) s
    selfTestOutcome f (if f.failedBlocks.any (fun n => n != 4) then sticky 3 4 s else s)

/-- A warm restart after HALTED: a second HALTED within 10 s of such a restart stays (R370). -/
def haltedStart (s : State) : State :=
  if s.power.haltedForGood then
    let s := stateEvent .halted s
    { s with glb := { s.glb with gstate := .halted }, power := { s.power with booting := false } }
  else if s.power.fromHalted then { s with power := { s.power with lastHaltedRestart := some s.tb.now } }
  else s

/-- The start goes on with a slot that passes; without one the engine stays in BOOT (R365, R384). -/
def withSlot (f : StartFindings) (go : (State → State) → State → State) (s : State) : State :=
  let s := { s with power := { s.power with inReset := false, parked := false, testEn := false, longHold := false } }
  let s := governed f s
  match bootSlot f s with
  | none => { s with power := { s.power with parked := true } }
  | some report => go report { s with power := { s.power with booting := true } }

/-- A cold start (power) or cold restart (R367, R368, R371): the retained points come from the log, or start at their initial
values. -/
def coldStart (power : Bool) (f : StartFindings) (s : State) : State :=
  let marker := s.store.flushMarker
  let s := tallyScan f s
  let lostT := if power then (marker.map (fun m => m.2.2.2.1 - s.tally.nextSeq.toNat)).getD 0 else s.tally.queue.length
  let forced := if power then 0 else s.logic.forces.length
  let lostR := if power then (marker.map (fun m => m.2.2.2.2 - s.granary.nextNo)).getD 0 else unaccepted s
  let s := coldState power s
  let s := { s with
    pf0 := { s.pf0 with inflight := s.pf0.inflight.map (effectShown true), slots := if power then [] else s.pf0.slots }
    pf1 := { s.pf1 with inflight := s.pf1.inflight.map (effectShown true), slots := if power then [] else s.pf1.slots }
    power := { s.power with startKind := if power then 0 else 1, powered := true } }
  let readable := power && (f.norA || f.norB)
  let kept := if readable then s.store.retainedImage else []
  let s := { s with power := { s.power with configDue := some (f.configDigestOk, kept) } }
  withSlot f (fun report s =>
    let s := startEntries (if readable then s.store.retainedSheaf else 0) lostT lostR (journalScan f s)
    let s := copyLatch s
    let s := if forced = 0 then s else tally 0x0702 [item forced, 1] s
    let s := applyFindings f (tamperEntry (report s))
    selfTestOutcome f (deriveSecrets (lostRecords lostR (lostEntries lostT s)))) s

/-- An image of another behaviour generation starts with no package in force (R387). -/
def dropPackage (s : State) : State :=
  { s with
    cfg := { s.cfg with package := none }, logic := { s.logic with program := none }
    zones := [], insts := [], ldf := [], glb := { s.glb with lpipe := 0 } }

/-- The copy in DDR fails its digest at a warm restart (R370): the configuration area is read under R369. -/
def rereadConfig (f : StartFindings) (s : State) : State :=
  if f.ddrDigestOk ∨ s.cfg.package.isNone then s
  else
    let n := s.store.configInForce.getD 0
    match (if s.store.emmcFailed ∨ f.configDigestOk = false then none
      else loadCopy ((s.store.configCopies[n]?).getD ([], [])) s) with
    | none =>
      tally 0x0D06 [item n, item (boolNat s.store.emmcFailed)]
        (let s := dropPackage s
        { s with power := { s.power with loadFailed := true } })
    | some (p, q) => { s with cfg := { s.cfg with package := some p }, logic := { s.logic with program := q } }

/-- A warm restart (R367, R370, R371): DEGRADED zones are admitted again and the package is partitioned anew (R34, R290). -/
def warmStart (f : StartFindings) (s : State) : State :=
  let bg := runningBg s
  let s := { s with
    pf0 := { s.pf0 with inflight := s.pf0.inflight.map (effectShown false) }
    pf1 := { s.pf1 with inflight := s.pf1.inflight.map (effectShown false) }
    power := { s.power with
      startKind := 2, configDue := s.power.configDue.map (fun c => (f.configDigestOk, c.2)) } }
  withSlot f (fun report s =>
    let m := s.store.flushMarker
    let s := tallyScan f (journalScan f s)
    let lostT := (m.map (fun m => m.2.2.2.1 - s.tally.nextSeq.toNat)).getD 0
    let lostR := (m.map (fun m => m.2.2.2.2 - s.granary.nextNo)).getD 0
    let s := copyLatch (startEntries (if s.logic.program.isSome then s.store.pendingSheaf else 0) lostT lostR s)
    let s := tamperEntry (report s)
    let s := thresherRestart (3 * s.glb.sheaf + 2) 7 0 s
    let s := warmState { s with granary := { s.granary with walked := false, badSeals := f.badSeals } }
    let s := if runningBg s = bg then rereadConfig f s else dropPackage s
    haltedStart (warmScan f (deriveSecrets (repartition s)))) s

/-- Release with TEST_EN high, at a power-up too (R365, R393, R401). -/
def enterTest (s : State) : State :=
  let s := if s.power.longHold then coldState false s else s
  let s := { s with
    glb := { s.glb with gstate := .test }
    power := { s.power with
      inReset := false, longHold := false, testEn := true, parked := false, latch := setBit s.power.latch 2 } }
  zeroSecrets (sticky 3 13 (tokenByState (releaseWires s)))

/-- RST_N is released (R367, R372). -/
def releaseReset (testEn : Bool) (f : StartFindings) (s : State) : State :=
  if testEn then enterTest s
  else if s.power.longHold then coldStart false f s
  else warmStart f s

/-- START of this start, the newest, takes the sheaf of the first commit and the duration (R379). -/
def fillLast (f : TallyEvent → TallyEvent) (c : TallyEvent → Bool) : List TallyEvent → List TallyEvent
  | [] => []
  | e :: rest => if c e ∧ rest.all (fun x => !c x) then f e :: rest else e :: fillLast f c rest
def fillStart (sheaf ms : Nat) (s : State) : State :=
  let q := fillLast (fun e => { e with detail := e.detail.take 3 ++ [item sheaf, item ms] })
    (fun e => e.event == 0x0D01 && !e.filled) s.tally.queue
  { s with tally := { s.tally with queue := q } }

/-- The state the first boundary leads to (R365). -/
def firstState (s : State) : GState :=
  if s.cfg.package.isNone ∨ s.power.loadFailed ∨ swHold s.cfg.package ∨ swWait s.cfg.package then .config
  else .protecting

/-- The start sequence is complete and sheaf k is the first to be committed (R365, R368, R370): the package of a cold start comes
into force, windows, the ring and the streams' time without a frame begin there, inputs at their first raw sample (R222), pairs as R224 states; VID leaves its start code (R414, R415). -/
def beginSheaves (k ms : Nat) (levels : List Nat) (s : State) : State :=
  let (w, s) := takeFree (fillStart k ms (loadConfig s))
  let s := { s with
    glb := { s.glb with cur := k, frozen := false, running := true, next := some (firstState s) }
    zones := s.zones.mapVals (fun _ z => { z with estFrom := 3 * k })
    thr := { s.thr with ringFrom := 3 * k, heldFrom := 3 * k }
    ing := { s.ing with streams := (svEntries s.cfg.package).map (fun e =>
      (e.1, { Stream.init with since := if k = 0 then 0 else sheafEnd (k - 1) })) }
    bi := { Bi.init with debounced := (List.range 128).filterMap (fun n =>
      if levels.contains n != biInvert (biWord s.cfg.package n) then some (n, true) else none) }
    power := { s.power with booting := false, vid := BitVec.ofNat 4 (w.toNat % 15) } }
  (List.range 64).foldl (fun s p => pairChange p (3 * k) s) s

/-- POWER_UP. -/
def execPowerUp (f : StartFindings) (s : State) : Host.Outcome State Fault Refusal :=
  .next (if f.testEn then
      (let s := coldState true (assertReset s)
      enterTest { s with power := { s.power with powered := true } })
    else coldStart true f (assertReset s))
/-- BOOT_COMPLETE. -/
def execBootComplete (sheaf startMs : Nat) (levels : List Nat) (s : State) : Host.Outcome State Fault Refusal :=
  .next (if s.power.booting then beginSheaves sheaf startMs levels s else s)
/-- RST_N_ASSERT. -/
def execRstNAssert (s : State) : Host.Outcome State Fault Refusal :=
  .next (if s.power.powered ∧ s.power.inReset = false then assertReset s else s)
/-- RESET_LONG_HOLD (R372). -/
def execResetLongHold (s : State) : Host.Outcome State Fault Refusal :=
  .next (if s.power.inReset then
    { s with power := { s.power with longHold := true, latch := setBit s.power.latch 0 } } else s)
/-- RST_N_RELEASE. -/
def execRstNRelease (testEn : Bool) (f : StartFindings) (s : State) : Host.Outcome State Fault Refusal :=
  .next (if s.power.powered ∧ s.power.inReset then releaseReset testEn f s else s)
/-- ACTIVATION_WARM_RESTART (R387). -/
def execActivationWarmRestart (f : StartFindings) (s : State) : Host.Outcome State Fault Refusal :=
  .next (if s.trust.activationDue ∧ s.power.inReset = false ∧ s.glb.gstate ≠ .test then
    warmStart f (assertReset { s with trust := { s.trust with activationDue := false } }) else s)

end Sys2Proof.Machine
end

