-- ==== Sys2Proof/Machine/Power.lean ====
section
/-!
DEFINITION. Supervisor restarts (18_startup_power.md R373, R374), power fail (R375), supplies, VID and temperature
(21_pins_electrical.md R413 to R416, R427), the wait for lock (R365), tamper (R394), the TAP (R400, R401), the backup latch
(R378).
-/
namespace Sys2Proof.Machine

/-- A supervisor runs that may restart. -/
def mayRestart (s : State) : Bool :=
  s.power.powered && !s.power.parked && !s.power.inReset && s.glb.gstate != .test

/-- The supervisor restarts (R373): the mailbox goes offline, session keys are zeroed (R393), the fifth restart within 600 s
parks it, and so does a running slot that fails its verification (R384; log 67). cause: of Config.supervisorCause. -/
def restartSupervisor (cause : Nat) (s : State) : State :=
  let recent := s.tb.now :: recentRestarts s
  let s := setOnline false { s with
    power := { s.power with restarts := recent }
    bist := { s.bist with sessionKeys := false } }
  let detail : List Quad := [Config.supervisorCause cause, item recent.length]
  let s := sticky 3 1 (count 187 1 (tally 0x0D03 detail s))
  if 5 ≤ recent.length ∨ (slotFault s s.trust.running).isSome then tally 0x0D04 detail { s with power := { s.power with parked := true } } else s

/-- A fatal error: the dump first, then the restart (R374, R402). -/
def fatalError (x : FaultItems) (t : Time) (s : State) : State :=
  let s := startDump 1 [x.code.toNat, x.pc.toNat, x.addr.toNat, x.status.toNat] (advance t s)
  restartSupervisor 1 (sticky 3 0 s)

/-- A restart without a dump abandons a dump in progress (R374, R402). -/
def plainRestart (cause : Nat) (t : Time) (s : State) : State :=
  restartSupervisor cause { advance t s with dumpBusy := none }

/-- PFAIL_N is asserted (R375, R378, R312): the retained writer closes its pending set and the flush begins, unless the
retained log has not been read yet. -/
def powerFails (s : State) : State :=
  if s.power.powered = false ∨ s.power.pfail then s
  else
    let unread := s.glb.gstate == .boot && !s.power.online && (s.power.booting || s.power.parked)
    let flush := if unread ∨ s.power.inReset then none
      else some (s.store.pendingSheaf, s.glb.opsec, s.store.retainedPending)
    let s := { s with
      power := { s.power with pfail := true, pfailAt := s.tb.now, lastEntry := true, lastSeal := true, latch := setBit s.power.latch 1 }
      store := { s.store with flush := flush } }
    bistAbort 1 (sticky 3 10 s)

/-- Outcomes decided while the journal began no valid mark are journaled and posted (R360). -/
def postDecided (v : View) (s : State) : State :=
  (s.view v).inflight.foldl (fun s e => match e.stage with
    | .decided st cf r => complete v e st cf r s
    | _ => s) s

/-- PFAIL_N is released with the supplies in range: the writers resume (R375). -/
def powerReturns (s : State) : State :=
  if s.power.pfail = false then s
  else
    let s := { s with
      power := { s.power with pfail := false }, store := { s.store with flush := none, flushMarker := none } }
    settle (if s.power.online then postDecided .pf1 (postDecided .pf0 s) else s)

/-- VCORE or VIO33 leaves its range (R413). -/
def supplyLeaves (s : State) : State := releaseWires { s with power := { s.power with supplyOk := false } }

/-- A condition of R416 or R427 sets its bit and entry, and aborts a self-test (R312). -/
def vcoreSag (mv : Nat) (s : State) : State :=
  if s.power.powered = false then s
  else bistAbort 2 (sticky 3 12 (tally 0x0D08 [0, item mv] { s with power := { s.power with vcoreLow := true } }))
def overheats (highest : Int) (s : State) : State :=
  if s.power.powered = false then s
  else bistAbort 3 (sticky 3 11 (tally 0x0D08 [1, item highest] { s with power := { s.power with tempHigh := true } }))

/-- A scan test runs (R415). -/
def scanRuns (s : State) : Bool :=
  match s.bist.queue with
  | r :: _ => r.started
  | [] => false

/-- The VCORE code is raised, lowered or held (R415). Slacks in 0.1 µs, the junction in 0.1 °C. -/
def vidStep (slack100ms slack10s : Nat) (junction : Int) (s : State) : State :=
  let v := s.power.vid.toNat
  let set (n : Nat) : State := { s with power := { s.power with vid := BitVec.ofNat 4 n } }
  if s.power.inReset ∨ v = 15 ∨ s.power.pfail ∨ scanRuns s then s
  else if slack100ms < 300 then set (min 14 (v + 1))
  else if 600 < slack10s ∧ junction < 1000 then set (v - 1)
  else s

/-- The wait in CONFIG for time lock ends (R365, R366). LOCK_WAIT_S 0 waits without limit. -/
def lockWaitEnds (seconds : Nat) (s : State) : State :=
  let limit := swSeconds s.cfg.package
  let go (why : Quad) : State :=
    tally 0x0D07 [why, item seconds] { s with glb := { s.glb with next := some .protecting } }
  if waitsForLock s = false then s
  else if s.tb.state = .locked then go 0
  else if limit ≠ 0 ∧ limit ≤ seconds then go 1
  else s

/-- A tamper detector fires (R394): it is powered from the backup domain. -/
def tamper (light : Bool) (s : State) : State :=
  let z := s.trust.zeroiseOnTamper
  let l := setBit s.power.latch 3
  let s := { s with
    power := { s.power with latch := if z then setBit l 4 else l }
    trust := { s.trust with tamperReport := s.trust.tamperReport ++ [(if light then 0 else 1, z)] } }
  if z then { s with bist := { s.bist with identityKey := false, sessionKeys := false } } else s

/-- The instruction that a TAP code selects (R400, R401). -/
def tapEffect (test : Bool) (code : Byte) : Byte :=
  if code = 0x01 ∨ (test ∧ (code = 0x00 ∨ code = 0x02)) then code else 0xFF

/-- IDCODE (R400). -/
def idcode : Word := BitVec.ofNat 32 (Config.silicon % 16 * 268435456 + 0x0160 * 4096 + 0x535 * 2 + 1)

/-- VBAK and VIO are both absent: the latch loses its bits and CHECK (R378). What it then holds is open, but CHECK does not
read 0xA5. -/
def latchLost (s : State) : State :=
  let (w, s) := takeFree s
  { s with power := { s.power with latch := if field w 31 24 = 0xA5 then w &&& 0x00FFFFFF#32 else w } }

/-- WATCHDOG_EXPIRY. -/
def execWatchdogExpiry (t : Time) (s : State) : Host.Outcome State Fault Refusal :=
  .next (if mayRestart s then plainRestart 0 t s else s)
/-- SUPERVISOR_FATAL_ERROR. -/
def execSupervisorFatalError (items : FaultItems) (t : Time) (s : State) : Host.Outcome State Fault Refusal :=
  .next (if mayRestart s then fatalError items t s else s)
/-- SUPERVISOR_MEMORY_ERROR. -/
def execSupervisorMemoryError (t : Time) (s : State) : Host.Outcome State Fault Refusal :=
  .next (if mayRestart s then plainRestart 2 t s else s)
/-- PFAIL_N_ASSERT. -/
def execPfailNAssert (s : State) : Host.Outcome State Fault Refusal := .next (powerFails s)
/-- PFAIL_N_RELEASE. -/
def execPfailNRelease (s : State) : Host.Outcome State Fault Refusal := .next (powerReturns s)
/-- SUPPLY_OUT_OF_RANGE. -/
def execSupplyOutOfRange (s : State) : Host.Outcome State Fault Refusal := .next (supplyLeaves s)
/-- VCORE_LOW. -/
def execVcoreLow (lowestMv : Nat) (s : State) : Host.Outcome State Fault Refusal := .next (vcoreSag lowestMv s)
/-- TEMP_HIGH. -/
def execTempHigh (highest : Int) (s : State) : Host.Outcome State Fault Refusal := .next (overheats highest s)
/-- VID_STEP. -/
def execVidStep (slack100ms slack10s : Nat) (junction : Int) (s : State) : Host.Outcome State Fault Refusal :=
  .next (vidStep slack100ms slack10s junction s)
/-- LOCK_WAIT_EXPIRY. -/
def execLockWaitExpiry (seconds : Nat) (s : State) : Host.Outcome State Fault Refusal := .next (lockWaitEnds seconds s)
/-- TAMPER_DETECT. -/
def execTamperDetect (light : Bool) (s : State) : Host.Outcome State Fault Refusal := .next (tamper light s)
/-- TAP_INSTRUCTION. -/
def execTapInstruction (code : Byte) (s : State) : Host.Outcome State Fault Refusal :=
  .next { s with power := { s.power with tap := tapEffect (s.glb.gstate == .test) code } }
/-- BACKUP_LATCH_POWER_LOSS. -/
def execBackupLatchPowerLoss (s : State) : Host.Outcome State Fault Refusal := .next (latchLost s)

end Sys2Proof.Machine
end

