-- ==== Sys2Proof/Machine/Dispatch.lean ====
section
/-!
DEFINITION. exec: the meaning of each command, one arm for each constructor of Instr.
-/
namespace Sys2Proof.Machine

/-- The effect of a command on everything but the queue. -/
def exec (i : Instr) (s : State) : Host.Outcome State Fault Refusal :=
  match i with
  | .getInfo c => Sys2Proof.Machine.execGetInfo c s
  | .getCerts c => Sys2Proof.Machine.execGetCerts c s
  | .stageSettings c => Sys2Proof.Machine.execStageSettings c s
  | .commitAtSheaf c => Sys2Proof.Machine.execCommitAtSheaf c s
  | .selectGroup c => Sys2Proof.Machine.execSelectGroup c s
  | .setLpipe c => Sys2Proof.Machine.execSetLpipe c s
  | .loadProgram c => Sys2Proof.Machine.execLoadProgram c s
  | .paramWrite c => Sys2Proof.Machine.execParamWrite c s
  | .force c => Sys2Proof.Machine.execForce c s
  | .unforce c => Sys2Proof.Machine.execUnforce c s
  | .restartLogic c => Sys2Proof.Machine.execRestartLogic c s
  | .listRecords c => Sys2Proof.Machine.execListRecords c s
  | .fetchRecord c => Sys2Proof.Machine.execFetchRecord c s
  | .releaseRecord c => Sys2Proof.Machine.execReleaseRecord c s
  | .manualTrigger c => Sys2Proof.Machine.execManualTrigger c s
  | .fetchTally c => Sys2Proof.Machine.execFetchTally c s
  | .configSnapsets c => Sys2Proof.Machine.execConfigSnapsets c s
  | .timeConfig c => Sys2Proof.Machine.execTimeConfig c s
  | .timeStatus c => Sys2Proof.Machine.execTimeStatus c s
  | .pairConfig c => Sys2Proof.Machine.execPairConfig c s
  | .swapRoles c => Sys2Proof.Machine.execSwapRoles c s
  | .runBist c => Sys2Proof.Machine.execRunBist c s
  | .spotConvert c => Sys2Proof.Machine.execSpotConvert c s
  | .calStatus c => Sys2Proof.Machine.execCalStatus c s
  | .installFw c => Sys2Proof.Machine.execInstallFw c s
  | .activateFw c => Sys2Proof.Machine.execActivateFw c s
  | .attest c => Sys2Proof.Machine.execAttest c s
  | .setOwnerKey c => Sys2Proof.Machine.execSetOwnerKey c s
  | .requireSignedSettings c => Sys2Proof.Machine.execRequireSignedSettings c s
  | .fetchDump c => Sys2Proof.Machine.execFetchDump c s
  | .commandAcceptance view slot failA failB => Sys2Proof.Machine.execCommandAcceptance view slot failA failB s
  | .pairCommandMirror c opcode engineSeq boundary done => Sys2Proof.Machine.execPairCommandMirror c opcode engineSeq boundary done s
  | .pairAckTimeout slot => Sys2Proof.Machine.execPairAckTimeout slot s
  | .rlLowRead view offset => Sys2Proof.Machine.execRlLowRead view offset s
  | .tbNowNsRead view at' => Sys2Proof.Machine.execTbNowNsRead view at' s
  | .snapshotRequest view value => Sys2Proof.Machine.execSnapshotRequest view value s
  | .snapshotCopyComplete view => Sys2Proof.Machine.execSnapshotCopyComplete view s
  | .stickyW1cWrite view reg value => Sys2Proof.Machine.execStickyW1cWrite view reg value s
  | .mbxCplTailWrite view value => Sys2Proof.Machine.execMbxCplTailWrite view value s
  | .msixUnmask view vector => Sys2Proof.Machine.execMsixUnmask view vector s
  | .registerWrite view offset size value => Sys2Proof.Machine.execRegisterWrite view offset size value s
  | .functionLevelReset view => Sys2Proof.Machine.execFunctionLevelReset view s
  | .perstNAssert => Sys2Proof.Machine.execPerstNAssert s
  | .pcieLinkDown => Sys2Proof.Machine.execPcieLinkDown s
  | .d3hotEntry view => Sys2Proof.Machine.execD3hotEntry view s
  | .d0Return view => Sys2Proof.Machine.execD0Return view s
  | .busMasterEnableClear view => Sys2Proof.Machine.execBusMasterEnableClear view s
  | .closeDeadline convs => Sys2Proof.Machine.execCloseDeadline convs s
  | .laneEvaluationDone lane agrees => Sys2Proof.Machine.execLaneEvaluationDone lane agrees s
  | .commitInstant inputs katFailed katSpare => Sys2Proof.Machine.execCommitInstant inputs katFailed katSpare s
  | .flipComplete delayNs => Sys2Proof.Machine.execFlipComplete delayNs s
  | .commitFailure delayNs => Sys2Proof.Machine.execCommitFailure delayNs s
  | .tripWireStartStop wire edge => Sys2Proof.Machine.execTripWireStartStop wire edge s
  | .readbackWindowEnd wire edges => Sys2Proof.Machine.execReadbackWindowEnd wire edges s
  | .laneKnownAnswerTest lane endToken digest words => Sys2Proof.Machine.execLaneKnownAnswerTest lane endToken digest words s
  | .sliceStall slice at' => Sys2Proof.Machine.execSliceStall slice at' s
  | .gleanerCalibrationResult group t => Sys2Proof.Machine.execGleanerCalibrationResult group t s
  | .overlapCompare group t => Sys2Proof.Machine.execOverlapCompare group t s
  | .vanaDipStart at' => Sys2Proof.Machine.execVanaDipStart at' s
  | .vanaDipEnd at' => Sys2Proof.Machine.execVanaDipEnd at' s
  | .biDebounceChange n since m => Sys2Proof.Machine.execBiDebounceChange n since m s
  | .biPairDiscrepancy p m => Sys2Proof.Machine.execBiPairDiscrepancy p m s
  | .biPairRecovery p m => Sys2Proof.Machine.execBiPairRecovery p m s
  | .definiteTimeOperate zone slot => Sys2Proof.Machine.execDefiniteTimeOperate zone slot s
  | .resetDelayExpiry zone slot => Sys2Proof.Machine.execResetDelayExpiry zone slot s
  | .inverseTimeOperate zone slot => Sys2Proof.Machine.execInverseTimeOperate zone slot s
  | .autoRecloseTimerExpiry zone slot => Sys2Proof.Machine.execAutoRecloseTimerExpiry zone slot s
  | .logicTimerExpiry timer => Sys2Proof.Machine.execLogicTimerExpiry timer s
  | .thresherTimerExpiry program timer => Sys2Proof.Machine.execThresherTimerExpiry program timer s
  | .maskViolation program mask m => Sys2Proof.Machine.execMaskViolation program mask m s
  | .tenonSealInExpiry zone => Sys2Proof.Machine.execTenonSealInExpiry zone s
  | .backstopDelayExpiry zone => Sys2Proof.Machine.execBackstopDelayExpiry zone s
  | .portFrameRx f => Sys2Proof.Machine.execPortFrameRx f s
  | .svFrame f => Sys2Proof.Machine.execSvFrame f s
  | .svStreamLost stream => Sys2Proof.Machine.execSvStreamLost stream s
  | .gooseFrame f => Sys2Proof.Machine.execGooseFrame f s
  | .gooseTalExpiry entry => Sys2Proof.Machine.execGooseTalExpiry entry s
  | .gooseRetransmit block => Sys2Proof.Machine.execGooseRetransmit block s
  | .prpSupervisionTx port => Sys2Proof.Machine.execPrpSupervisionTx port s
  | .prpNodeExpiry port src at' => Sys2Proof.Machine.execPrpNodeExpiry port src at' s
  | .prpLanDown port src at' => Sys2Proof.Machine.execPrpLanDown port src at' s
  | .portLinkChange port up => Sys2Proof.Machine.execPortLinkChange port up s
  | .timedLaunch port achieved occupied => Sys2Proof.Machine.execTimedLaunch port achieved occupied s
  | .syncRx m => Sys2Proof.Machine.execSyncRx m s
  | .followUpRx m => Sys2Proof.Machine.execFollowUpRx m s
  | .announceRx a => Sys2Proof.Machine.execAnnounceRx a s
  | .pdelayReqRx m => Sys2Proof.Machine.execPdelayReqRx m s
  | .pdelayRespRx r => Sys2Proof.Machine.execPdelayRespRx r s
  | .pdelayReqTx port at' => Sys2Proof.Machine.execPdelayReqTx port at' s
  | .announceReceiptTimeout p => Sys2Proof.Machine.execAnnounceReceiptTimeout p s
  | .syncLoss at' => Sys2Proof.Machine.execSyncLoss at' s
  | .holdoverExpiry at' => Sys2Proof.Machine.execHoldoverExpiry at' s
  | .ppsInEdge stamp => Sys2Proof.Machine.execPpsInEdge stamp s
  | .ppsInLoss at' => Sys2Proof.Machine.execPpsInLoss at' s
  | .ppsOutPulse rising at' => Sys2Proof.Machine.execPpsOutPulse rising at' s
  | .tcxoFail => Sys2Proof.Machine.execTcxoFail s
  | .ldfFrameRx f => Sys2Proof.Machine.execLdfFrameRx f s
  | .ldfChannelLoss descriptor terminal at' => Sys2Proof.Machine.execLdfChannelLoss descriptor terminal at' s
  | .ldfHoldoffEnd descriptor at' => Sys2Proof.Machine.execLdfHoldoffEnd descriptor at' s
  | .ldfAlignTimeout descriptor => Sys2Proof.Machine.execLdfAlignTimeout descriptor s
  | .dovetailSampleRx port srcEngine srcSlot m value quality => Sys2Proof.Machine.execDovetailSampleRx port srcEngine srcSlot m value quality s
  | .crossTriggerRx port srcEngine program m => Sys2Proof.Machine.execCrossTriggerRx port srcEngine program m s
  | .epochCopyRx copy partner => Sys2Proof.Machine.execEpochCopyRx copy partner s
  | .swapNoticeRx boundary => Sys2Proof.Machine.execSwapNoticeRx boundary s
  | .dovetailLinkChange port up => Sys2Proof.Machine.execDovetailLinkChange port up s
  | .releaseClaim inputs => Sys2Proof.Machine.execReleaseClaim inputs s
  | .absenceClaim inputs => Sys2Proof.Machine.execAbsenceClaim inputs s
  | .ilkLineFault inputs => Sys2Proof.Machine.execIlkLineFault inputs s
  | .roleSwapDue => Sys2Proof.Machine.execRoleSwapDue s
  | .roleSwapFail inputs at' => Sys2Proof.Machine.execRoleSwapFail inputs at' s
  | .bistRunEnd v => Sys2Proof.Machine.execBistRunEnd v s
  | .bistRerun at' => Sys2Proof.Machine.execBistRerun at' s
  | .secretsRederived => Sys2Proof.Machine.execSecretsRederived s
  | .tallyEntryWritten failA failB => Sys2Proof.Machine.execTallyEntryWritten failA failB s
  | .retainedBatchWritten => Sys2Proof.Machine.execRetainedBatchWritten s
  | .recordPersisted readBackOk deviceError deviceStatus => Sys2Proof.Machine.execRecordPersisted readBackOk deviceError deviceStatus s
  | .granaryStoreRetry readBackOk deviceError deviceStatus => Sys2Proof.Machine.execGranaryStoreRetry readBackOk deviceError deviceStatus s
  | .granaryWalk => Sys2Proof.Machine.execGranaryWalk s
  | .ddrError correctable remaining hit => Sys2Proof.Machine.execDdrError correctable remaining hit s
  | .watchdogExpiry at' => Sys2Proof.Machine.execWatchdogExpiry at' s
  | .supervisorFatalError items at' => Sys2Proof.Machine.execSupervisorFatalError items at' s
  | .mailboxReturn => Sys2Proof.Machine.execMailboxReturn s
  | .dumpComplete => Sys2Proof.Machine.execDumpComplete s
  | .powerUp f => Sys2Proof.Machine.execPowerUp f s
  | .bootComplete sheaf startMs levels => Sys2Proof.Machine.execBootComplete sheaf startMs levels s
  | .rstNAssert => Sys2Proof.Machine.execRstNAssert s
  | .resetLongHold => Sys2Proof.Machine.execResetLongHold s
  | .rstNRelease testEn f => Sys2Proof.Machine.execRstNRelease testEn f s
  | .pfailNAssert => Sys2Proof.Machine.execPfailNAssert s
  | .flushMarkerVerified => Sys2Proof.Machine.execFlushMarkerVerified s
  | .pfailNRelease => Sys2Proof.Machine.execPfailNRelease s
  | .supplyOutOfRange => Sys2Proof.Machine.execSupplyOutOfRange s
  | .vcoreLow lowestMv => Sys2Proof.Machine.execVcoreLow lowestMv s
  | .tempHigh highest => Sys2Proof.Machine.execTempHigh highest s
  | .vidStep slack100ms slack10s junction => Sys2Proof.Machine.execVidStep slack100ms slack10s junction s
  | .lockWaitExpiry seconds => Sys2Proof.Machine.execLockWaitExpiry seconds s
  | .activationWarmRestart f => Sys2Proof.Machine.execActivationWarmRestart f s
  | .opsecTick => Sys2Proof.Machine.execOpsecTick s
  | .tamperDetect light => Sys2Proof.Machine.execTamperDetect light s
  | .tapInstruction code => Sys2Proof.Machine.execTapInstruction code s
  | .supervisorMemoryError at' => Sys2Proof.Machine.execSupervisorMemoryError at' s
  | .epochAcknowledgement ack => Sys2Proof.Machine.execEpochAcknowledgement ack s
  | .pairCommandAck slot done => Sys2Proof.Machine.execPairCommandAck slot done s
  | .badOpcodeDoorbell c opcode => Sys2Proof.Machine.execBadOpcodeDoorbell c opcode s
  | .commandExecutionEnd view ended => Sys2Proof.Machine.execCommandExecutionEnd view ended s
  | .busMasterEnableSet view => Sys2Proof.Machine.execBusMasterEnableSet view s
  | .perstNRelease => Sys2Proof.Machine.execPerstNRelease s
  | .installResumeTimeout => Sys2Proof.Machine.execInstallResumeTimeout s
  | .bistRerunTimeout => Sys2Proof.Machine.execBistRerunTimeout s
  | .backupLatchPowerLoss => Sys2Proof.Machine.execBackupLatchPowerLoss s

end Sys2Proof.Machine
end

