-- ==== Sys2Proof/Machine/Step.lean ====
section
/-!
DEFINITION. One step of the block: the command at the front of the queue takes effect on the state with the queue's rest;
on an empty queue the block idles.
-/
namespace Sys2Proof.Machine

/-- One step: exec of the front command; an empty queue idles (log 18). -/
def step (s : State) : Host.Outcome State Fault Refusal :=
  match s.pending with
  | [] => .next s
  | i :: rest => exec i { s with pending := rest }

/-- s with the command that a word spells put at the front of its queue; the table gives no row any bits, so no word
spells one and s stays as it is (log 19). -/
def State.withFetchWord (s : State) (nbits w : Nat) : State :=
  match Sys2Proof.decodeTableWord nbits w with
  | some i => { s with pending := i :: s.pending }
  | none => s

end Sys2Proof.Machine
end

