-- ==== Sys2Proof/Safety.lean ====
section
/-!
DEFINITION. What counts as a safe state and a safe run, in the terms that statements use: host memory in its canonical form,
no trip wire that toggles while its driver is off (R218), a completion ring within its bounds (R323), no step that stops;
and the conditions under which the mailbox serves a command, named once for the statements about commands.
-/
namespace Sys2Proof.Safety
open Sys2Proof.Machine

/-- Host memory is in its canonical form: addresses rise, no byte 0 is listed. -/
def memoryCanonical (s : State) : Prop := Memory.wf s.hostMem = true

/-- No trip wire toggles unless the drivers are enabled (R218, R413). -/
def wiresSafe (s : State) : Prop := ∀ n w, (n, w) ∈ s.wires → w.toggling = true → driving s = true

/-- HEAD − TAIL of a view's completion ring is 0 to 256 (R323). -/
def ringBounded (x : ViewState) : Prop := ringUsed x ≤ 256

/-- What every step keeps: host memory in its canonical form; no trip wire that toggles while its driver is off (R218); an
interlock token only in an engine that is paired and evaluates zones (R293, R297). -/
structure Invariant (s : State) : Prop where
  memory : memoryCanonical s
  wires : wiresSafe s
  token : s.pair.token = true → paired s = true ∧ protecting s = true

/-- A step answers a next state. -/
def goesOn (s : State) : Prop := ∃ t, step s = .next t

/-- A run of k steps from s answers a next state. -/
def runsOn (k : Nat) (s : State) : Prop := ∃ t, Host.Core.run Sys2Proof.core k s = .next t

/-- No doorbell waits and no PF0 command is in flight: the supervisor has nothing to do after an event. -/
def NothingWaits (s : State) : Prop := s.bells = [] ∧ s.pf0.inflight = []

/-- The state from which statements about one command of one engine start: the mailbox is online and serves the command at
once, the view's BAR is open, nothing else is in flight or waiting, the ring has room, a NOR mirror is in service, and the
engine is not paired. -/
structure MailboxReady (v : View) (slot : Nat) (s : State) : Prop where
  online : s.power.online = true
  noPfail : s.power.pfail = false
  linkUp : s.power.linkUp = true
  noReset : s.power.inReset = false
  d0 : (s.view v).d3hot = false
  serving : s.glb.gstate = .config ∨ s.glb.gstate = .protecting ∨ s.glb.gstate = .degraded
  mirror : anyMirror s = true
  slotOk : slot < slotCount v
  bells : s.bells = []
  idle0 : s.pf0.inflight = []
  idle1 : s.pf1.inflight = []
  held : (s.view v).held = []
  room : ringUsed (s.view v) < 256
  single : paired s = false

/-- The same, with command e just taken: its journal record is being programmed and it is alone in flight. -/
structure Journaling (v : View) (e : Inflight) (s : State) : Prop where
  online : s.power.online = true
  noPfail : s.power.pfail = false
  linkUp : s.power.linkUp = true
  noReset : s.power.inReset = false
  d0 : (s.view v).d3hot = false
  mirror : anyMirror s = true
  bells : s.bells = []
  flight : (s.view v).inflight = [e]
  alone : ∀ w, w ≠ v → (s.view w).inflight = []
  held : (s.view v).held = []
  room : ringUsed (s.view v) < 256
  single : paired s = false
  local' : e.remote = false
  plain : e.flags = 0
  fresh : e.engineSeq = 0
  notResumed : e.resumed = false
  stage : e.stage = .journaling

/-- The same, with command e running: it is alone in flight and its end is due. -/
structure Running (v : View) (e : Inflight) (s : State) : Prop where
  online : s.power.online = true
  noPfail : s.power.pfail = false
  linkUp : s.power.linkUp = true
  noReset : s.power.inReset = false
  d0 : (s.view v).d3hot = false
  bells : s.bells = []
  flight : (s.view v).inflight = [e]
  alone : ∀ w, w ≠ v → (s.view w).inflight = []
  held : (s.view v).held = []
  room : ringUsed (s.view v) < 256
  single : paired s = false
  local' : e.remote = false
  accepted : e.engineSeq ≠ 0
  notResumed : e.resumed = false
  busMaster : (s.view v).busMaster = true
  stage : stageRuns e.stage = true

/-- A doorbell for this slot is taken at once, whatever is in flight: the mailbox is online, the BAR open, no other doorbell
waits, nothing is being journaled, no command's turn has come, the slot is the host's, the ring has room. -/
structure BellReady (v : View) (slot : Nat) (s : State) : Prop where
  online : s.power.online = true
  noPfail : s.power.pfail = false
  linkUp : s.power.linkUp = true
  noReset : s.power.inReset = false
  d0 : (s.view v).d3hot = false
  serving : s.glb.gstate ≠ .boot ∧ s.glb.gstate ≠ .test
  slotOk : slot < slotCount v
  bells : s.bells = []
  owner : engineOwns s v slot = false
  quiet : journalBusy s = false
  noTurn : readyCommand s .pf0 = none
  held : (s.view v).held = []
  room : ringUsed (s.view v) < 256

/-- The doorbells that name a host command: each with its opcode and the payload offset of its descriptor, first
half and second half of R342. -/
def hostCommands1 (c : Submit) : List (Instr × Half × Option Nat) :=
  [(.getInfo c, 0x0101, none), (.getCerts c, 0x0102, some 0), (.stageSettings c, 0x0201, some 0),
    (.commitAtSheaf c, 0x0202, none), (.selectGroup c, 0x0203, none), (.setLpipe c, 0x0204, none),
    (.loadProgram c, 0x0301, some 0), (.paramWrite c, 0x0302, none), (.force c, 0x0303, none),
    (.unforce c, 0x0304, none), (.restartLogic c, 0x0305, none), (.listRecords c, 0x0401, some 16),
    (.fetchRecord c, 0x0402, some 16), (.releaseRecord c, 0x0403, none), (.manualTrigger c, 0x0404, none)]
def hostCommands2 (c : Submit) : List (Instr × Half × Option Nat) :=
  [(.fetchTally c, 0x0501, some 16), (.configSnapsets c, 0x0502, some 0), (.timeConfig c, 0x0601, some 0),
    (.timeStatus c, 0x0602, some 0), (.pairConfig c, 0x0701, none), (.swapRoles c, 0x0702, none),
    (.runBist c, 0x0801, none), (.spotConvert c, 0x0802, none), (.calStatus c, 0x0803, some 0),
    (.installFw c, 0x0901, some 0), (.activateFw c, 0x0902, none), (.attest c, 0x0A01, some 68),
    (.setOwnerKey c, 0x0A02, some 0), (.requireSignedSettings c, 0x0A03, none), (.fetchDump c, 0x0B01, some 16)]
def hostCommands (c : Submit) : List (Instr × Half × Option Nat) := hostCommands1 c ++ hostCommands2 c

/-- The slot as the host has written it (R330, R333). -/
def writtenSlot (c : Submit) (opcode : Half) (old : Slot) : Slot :=
  { old with
    opcode := opcode, flags := c.flags, hostSeq := c.hostSeq, len := c.len
    payload := c.payload.take 224 ++ (slice old.payload 0 224).drop (c.payload.take 224).length }

/-- Host memory after the host has filled the buffer of its descriptor (R339). -/
def writtenMem (c : Submit) (descAt : Option Nat) (m : List Host.Cell) : List Host.Cell :=
  match descAt with
  | some o => memWrite m (leAt c.payload o 8) c.buffer
  | none => m

/-- A completion of slot n with ENGINE_SEQ q and result r has been posted to view v between s and u (R340): the ring entry at
HEAD, HEAD + 1, the slot's header and result. -/
def posted (v : View) (n : Nat) (h : Quad) (status cflags : Half) (q : Quad) (r : List Byte) (s u : State) : Prop :=
  FMap.get? (u.view v).ring ((s.view v).cplHead.toNat % 256) = some ⟨h, status, n, 0, cflags, q.truncate 16⟩ ∧
    (u.view v).cplHead = (s.view v).cplHead + 1 ∧
    (slotOf (u.view v) n).status = status ∧ (slotOf (u.view v) n).cflags = cflags ∧ (slotOf (u.view v) n).engineSeq = q ∧
    (slotOf (u.view v) n).payload.take r.length = r

/-- What accepting command e does to the journal (R336, R337): N moves on, ENGINE_SEQ is the next. -/
def acceptedBy (v : View) (e : Inflight) (s u : State) : Prop :=
  (u.view v).nextSeq = e.hostSeq + 1 ∧ u.store.engineSeq = s.store.engineSeq + 1

/-- Commands of a view that concern its private state alone (R316, R318, R319, R321, R323, R324). -/
def privateTo (v : View) : Instr → Bool
  | .rlLowRead w _ => decide (w = v)
  | .tbNowNsRead w _ => decide (w = v)
  | .snapshotRequest w _ => decide (w = v)
  | .snapshotCopyComplete w => decide (w = v)
  | .mbxCplTailWrite w _ => decide (w = v)
  | .msixUnmask w _ => decide (w = v)
  | .functionLevelReset w => decide (w = v)
  | .d3hotEntry w => decide (w = v)
  | .d0Return w => decide (w = v)
  | .busMasterEnableClear w => decide (w = v)
  | .busMasterEnableSet w => decide (w = v)
  | _ => false

/-- Everything but the two views is the same. -/
def sameButViews (s t : State) : Prop := t = { s with pf0 := t.pf0, pf1 := t.pf1 }

/-- The protection state is the same: engine state, settings, samples, ingest, timebase, zones, elements, logic, wires,
inputs, acquisition, lanes. -/
def sameProtection (s t : State) : Prop :=
  t.glb = s.glb ∧ t.cfg = s.cfg ∧ t.samp = s.samp ∧ t.ing = s.ing ∧ t.tb = s.tb ∧ t.ldf = s.ldf ∧ t.zones = s.zones ∧
    t.tenon = s.tenon ∧ t.insts = s.insts ∧ t.results = s.results ∧ t.logic = s.logic ∧ t.wires = s.wires ∧ t.bi = s.bi ∧
    t.thr = s.thr ∧ t.lanes = s.lanes

/-- The records and stores are the same: Tally, Granary, trust, NOR and eMMC, dumps. -/
def sameRecords (s t : State) : Prop :=
  t.tally = s.tally ∧ t.granary = s.granary ∧ t.trust = s.trust ∧ t.store = s.store ∧ t.dumpDdr = s.dumpDdr ∧
    t.dumpEmmc = s.dumpEmmc

/-- Accepting command e completes it at once: the journal's bookkeeping, the completion posted and journaled, host memory as
given, and otherwise exactly the effect that led to state f; the other view is as before. -/
def completesAs (v : View) (e : Inflight) (status cflags : Half) (r : List Byte) (mem : List Host.Cell) (f s : State) : Prop :=
  ∃ u, exec (.commandAcceptance v e.slot false false) s = .next u ∧ acceptedBy v e s u ∧
    posted v e.slot e.hostSeq status cflags (s.store.engineSeq + 1) r s u ∧ (u.view v).inflight = [] ∧
    (∃ c ∈ (u.view v).completed, c.hostSeq = e.hostSeq ∧ c.opcode = e.opcode ∧ c.status = status ∧ c.result = r) ∧
    (∀ w, w ≠ v → u.view w = s.view w) ∧
    u = { f with
      pf0 := u.pf0, pf1 := u.pf1, trace := u.trace, hostMem := mem
      store := { f.store with engineSeq := s.store.engineSeq + 1 } }

/-- Accepting command e leaves it in flight at stage st: the journal's bookkeeping, no completion, and otherwise exactly the
effect that led to state f; the other view is as before. -/
def waitsAs (v : View) (e : Inflight) (st : Stage) (f s : State) : Prop :=
  ∃ u, exec (.commandAcceptance v e.slot false false) s = .next u ∧ acceptedBy v e s u ∧
    (u.view v).inflight = [{ e with engineSeq := s.store.engineSeq + 1, stage := st }] ∧
    (u.view v).cplHead = (s.view v).cplHead ∧ (u.view v).ring = (s.view v).ring ∧ (u.view v).slots = (s.view v).slots ∧
    (∀ w, w ≠ v → u.view w = s.view w) ∧
    u = { f with
      pf0 := u.pf0, pf1 := u.pf1, trace := u.trace, store := { f.store with engineSeq := s.store.engineSeq + 1 } }

/-- The end of running command e completes it: the completion posted and journaled, host memory as given, and otherwise
exactly the effect that led to state f; the other view is as before. -/
def endsAs (v : View) (e : Inflight) (status cflags : Half) (r : List Byte) (mem : List Host.Cell) (f s : State) : Prop :=
  ∃ u, exec (.commandExecutionEnd v ⟨e.slot, false, false⟩) s = .next u ∧
    posted v e.slot e.hostSeq status cflags e.engineSeq r s u ∧ (u.view v).inflight = [] ∧
    (u.view v).nextSeq = (s.view v).nextSeq ∧ (∀ w, w ≠ v → u.view w = s.view w) ∧
    u = { f with pf0 := u.pf0, pf1 := u.pf1, trace := u.trace, hostMem := mem }

/-- The state in which frame f is handled once its turn has come (R63): it has left its buffer, and the timebase reads its
arrival unless it arrived before the last timebase step. -/
def served (f : Frame) (s : State) : State :=
  let t := takeFrame f.port f s
  if (frameShift s f).isSome then t else advance f.tArr t

/-- The state with a change held for the boundary before sheaf j (R30). -/
def withChange (j : Nat) (v : View) (e : Inflight) (c : Change) (s : State) : State :=
  { s with cfg := { s.cfg with changes := s.cfg.changes ++ [⟨j, v, e.hostSeq, c⟩] } }

end Sys2Proof.Safety
end

