-- ==== Sys2Proof/Certificates/Slice0/Obligations.lean ====
section
/-!
DEFINITION. The statements for the provers. Each docstring names the rule or the section of spec/ that it formalises.
-/
open Sys2Proof Sys2Proof.Machine Sys2Proof.Safety

/-- A step is exec of the front command on the state with the queue's rest; the queue, and the idle step on an empty one, are
the model's own form (log 18). -/
def Obligations.StepRunsFrontCommand : Prop :=
  ∀ s : State, (∀ (c : Instr) (rest : List Instr), s.pending = c :: rest → step s = exec c { s with pending := rest }) ∧
    (s.pending = [] → step s = .next s)

/-- The reset column of the register tables of R322, R323, R324, R326, R327 and R329, as both views read it. -/
def Obligations.ResetRegisterValues : Prop :=
  ∀ v : View,
    let w := liveWord State.reset v
    (w 0x0 = 0x45560160#32 ∧ w 0x8 = 1#32 ∧ w 0xC = 0#32 ∧ w 0x10 = 0#32 ∧ w 0x18 = 0x76543210#32 ∧ w 0x1C = 0xBA98#32) ∧
      (w 0x14 = 0x30555555#32 ∧ w 0x20 = 0#32 ∧ w 0x24 = 0#32 ∧ w 0x28 = 0#32 ∧ w 0x2C = 0x60606060#32 ∧ w 0x30 = 0#32 ∧
        w 0x34 = 0#32 ∧ w 0x40 = 0#32) ∧
      (w 0x1004 = 0#32 ∧ w 0x1008 = 0#32 ∧ bit (w 0x100C) 0 = true ∧ field (w 0x100C) 23 16 = 0 ∧ w 0x1010 = 0#32) ∧
      (w 0x2000 = 0#32 ∧ w 0x2004 = 0#32 ∧ w 0x2008 = 0#32 ∧ w 0x200C = 0#32 ∧ w 0x2010 = 0#32) ∧
      (∀ n < 12, w (0x3000 + 4 * n) = 0#32) ∧ (∀ n < 512, w (0x4000 + 4 * n) = 0#32) ∧
      (w 0x5010 = 0#32 ∧ w 0x5024 = 0#32) ∧ State.reset.glb.gstate = .boot

/-- The reads of R321, each as the whole next state. -/
def Obligations.RlReadLatchesHighWord : Prop :=
  ∀ (v : View) (o : Nat) (s : State), barOpen s v = true → o ≠ 0x5000 →
    exec (.rlLowRead v o) s = .next (s.setView v
      (if isRlLow o then
        { s.view v with readData := liveWord s v o, holding := liveWord s v (o + 4), holdingOffset := some o }
      else if ∃ p, (s.view v).holdingOffset = some p ∧ o = p + 4 then { s.view v with readData := (s.view v).holding }
      else { s.view v with readData := liveWord s v o }))

/-- The pair of reads of R321: the high word belongs to the value of the low read, even where the counters, sheaf and
sticky record have changed between (t is any state that differs from the one after the reads outside view v). -/
def Obligations.RlPairReadsOneValue : Prop :=
  ∀ (v w : View) (o p : Nat) (s t : State), v ≠ w → isRlLow o = true → barOpen s v = true →
    ∃ a b, exec (.rlLowRead v o) s = .next a ∧ (a.view v).readData = liveWord s v o ∧
      exec (.rlLowRead w p) a = .next b ∧
      (t.view v = b.view v → t.power = b.power →
        ∃ c, exec (.rlLowRead v (o + 4)) t = .next c ∧ (c.view v).readData = liveWord s v (o + 4))

/-- The capture of R88. -/
def Obligations.TbNowCapture : Prop :=
  ∀ (v w : View) (t u : Time) (s : State), v ≠ w → barOpen s v = true → s.tb.now ≤ t → t ≤ u →
    ∃ a b, exec (.tbNowNsRead v t) s = .next a ∧ exec (.tbNowNsRead w u) a = .next b ∧
      (a.view v).readData = BitVec.ofNat 32 (nsOf t) ∧ a.view w = s.view w ∧ a.tb = (advance t s).tb ∧
      (liveWord b v 0x5004).toNat + 4294967296 * (liveWord b v 0x5008).toNat = twos 48 (secOf t) ∧
      liveWord b v 0x500C = BitVec.ofNat 32 (fracOf t) ∧ liveWord b v 0x5000 = BitVec.ofNat 32 (nsOf t)

/-- SNP of R324. -/
def Obligations.SnapshotRequestAndCopy : Prop :=
  ∀ (v : View) (w : Word) (k : Nat) (ws : List Word) (s : State),
    (barOpen s v = true →
      exec (.snapshotRequest v w) s =
        .next (s.setView v { s.view v with snpReq := (s.view v).snpReq || bit w 0, snpIrq := bit w 1 })) ∧
      ((s.view v).snpCopy = some (k, ws) →
        exec (.snapshotCopyComplete v) s =
          .next (s.setView v
            (let x := { s.view v with
              snpImage := ws, snpCopy := none, snpReq := false, snpSheaf := BitVec.ofNat 64 k
              snpSeq := (s.view v).snpSeq + 1 }
            if x.snpIrq then raiseIn 2 x else x)))

/-- W1C of R281 and R326. -/
def Obligations.StickyW1cIsPrivileged : Prop :=
  ∀ (n : Nat) (w : Word) (s : State),
    exec (.stickyW1cWrite .pf1 n w) s = .next s ∧
      (n < 4 → barOpen s .pf0 = true →
        let hit := w &&& regAt s.stk.regs n &&& ~~~regAt s.stk.clears n
        let t := { s with stk := { s.stk with clears := modAt (fun c => c ||| w) n s.stk.clears } }
        exec (.stickyW1cWrite .pf0 n w) s =
          .next (if hit = 0 then t else tally 0x0002 [item n, hit.zeroExtend 64] t))

/-- MBX_CPL_TAIL of R323: no entry is dropped, none is posted twice. -/
def Obligations.CplTailWriteBounds : Prop :=
  ∀ (v : View) (w : Word) (s : State), barOpen s v = true →
    (256 < ((s.view v).cplHead - w).toNat → exec (.mbxCplTailWrite v w) s = .next s) ∧
      (((s.view v).cplHead - w).toNat ≤ 256 →
        let x := s.view v
        let n := min x.held.length (256 - (x.cplHead - w).toNat)
        ∃ y, exec (.mbxCplTailWrite v w) s = .next (s.setView v y) ∧ y.cplTail = w ∧
          y.cplHead = x.cplHead + BitVec.ofNat 32 n ∧ y.held = x.held.drop n ∧
          (∀ i < n, FMap.get? y.ring ((x.cplHead.toNat + i) % 256) = x.held[i]?) ∧ (y.cplHead - w).toNat ≤ 256 ∧
          (n = 0 → y = { x with cplTail := w }))

/-- FLR, PERST_N and link down of R316. -/
def Obligations.PcieEventsAndProtection : Prop :=
  ∀ (v : View) (s : State),
    let cleared (x : ViewState) : ViewState :=
      { x with
        holding := 0, holdingOffset := none, snpReq := false, snpIrq := false, snpCopy := none, snpPage := 0, snpImage := []
        cplHead := 0, cplTail := 0, cplEn := false, statEn := false, stkIrqEn := [0, 0, 0, 0]
        msixMask := 0xFFFFFFFF#32, msixTable := [], msixPending := 0 }
    ((s.view v).held = [] → exec (.functionLevelReset v) s = .next (s.setView v (cleared (s.view v)))) ∧
      (∀ c ∈ [Instr.perstNAssert, Instr.pcieLinkDown], exec c s =
        .next { s with pf0 := cleared s.pf0, pf1 := cleared s.pf1, power := { s.power with linkUp := false } })

/-- The entries that wait at an FLR of R316: none is lost. -/
def Obligations.HeldEntriesPostedAfterFlr : Prop :=
  ∀ (v : View) (s : State), barOpen s v = true →
    let x := s.view v
    let n := min x.held.length 256
    ∃ y, exec (.functionLevelReset v) s = .next (s.setView v y) ∧ y.cplTail = 0 ∧ y.cplHead = BitVec.ofNat 32 n ∧
      y.held = x.held.drop n ∧ (∀ i < n, FMap.get? y.ring i = x.held[i]?) ∧ y.nextSeq = x.nextSeq ∧
      y.inflight = x.inflight ∧ y.slots = x.slots ∧ y.completed = x.completed

/-- D3hot, D0, Bus Master Enable, PERST_N release and MSI-X of R316 and R319. -/
def Obligations.PciePowerAndMessages : Prop :=
  ∀ (v : View) (n : Nat) (s : State),
    exec (.d3hotEntry v) s = .next (s.setView v { s.view v with d3hot := true }) ∧
      ((s.view v).held = [] → exec (.d0Return v) s = .next (s.setView v { s.view v with d3hot := false })) ∧
      exec (.busMasterEnableClear v) s = .next (s.setView v { s.view v with busMaster := false }) ∧
      exec (.busMasterEnableSet v) s = .next (s.setView v { s.view v with busMaster := true }) ∧
      (s.pf0.held = [] → s.pf1.held = [] →
        exec .perstNRelease s = .next { s with power := { s.power with linkUp := true } }) ∧
      (barOpen s v = true → n < 32 →
        exec (.msixUnmask v n) s = .next (s.setView v
          (if bit (s.view v).msixPending n then
            { s.view v with
              msixMask := clearBit (s.view v).msixMask n, msixPending := clearBit (s.view v).msixPending n
              messages := n :: (s.view v).messages }
          else { s.view v with msixMask := clearBit (s.view v).msixMask n })))

/-- REGISTER_WRITE of R317, R318 and R320. -/
def Obligations.RegisterWritesOfBar0 : Prop :=
  ∀ (v : View) (o n : Nat) (w : Word) (s : State),
    ((n ≠ 4 ∨ o % 4 ≠ 0) → exec (.registerWrite v o n w) s = .next s) ∧
      (barOpen s v = true →
        exec (.registerWrite v 0x1010 4 w) s = .next (s.setView v { s.view v with cplEn := bit w 0, statEn := bit w 1 }) ∧
          exec (.registerWrite v 0x2010 4 w) s = .next (s.setView v { s.view v with snpPage := w.truncate 2 }) ∧
          (∀ i < 4, exec (.registerWrite v (0x3020 + 4 * i) 4 w) s =
            .next (s.setView v { s.view v with stkIrqEn := modAt (fun _ => w) i (s.view v).stkIrqEn })) ∧
          (∀ i < 128, i % 4 ≠ 3 → ∃ t, exec (.registerWrite v (0x100000 + 4 * i) 4 w) s = .next t ∧
            liveWord t v (0x100000 + 4 * i) = w ∧
            t = s.setView v { s.view v with msixTable := (t.view v).msixTable }) ∧
          ((o < 0x1000 ∨ (0x1010 < o ∧ o < 0x2000) ∨ o = 0x1004 ∨ o = 0x100C ∨ (0x2000 < o ∧ o < 0x3000 ∧ o ≠ 0x2010) ∨
              (0x3010 ≤ o ∧ o < 0x3020) ∨ (0x3030 ≤ o ∧ o < 0x8000) ∨ (0xC000 ≤ o ∧ o < 0x100000)) →
            exec (.registerWrite v o 4 w) s = .next s)) ∧
      (∀ i < 4, exec (.registerWrite .pf1 (0x3000 + 4 * i) 4 w) s = .next s)

/-- The sentence at the head of 15_host_registers.md: nothing one view does to its private state is visible in the other. -/
def Obligations.ViewsKeepApart : Prop :=
  ∀ (v w : View) (c : Instr) (x : ViewState) (s : State), v ≠ w → privateTo v c = true →
    ∃ t, exec c s = .next t ∧ t.view w = s.view w ∧ sameButViews { s with tb := t.tb } t ∧
      exec c (s.setView w x) = .next (t.setView w x)

/-- Submission (R333) and the checks of R334 passed, for every host command. -/
def Obligations.DoorbellTakesCommand : Prop :=
  ∀ (c : Submit) (i : Instr) (op : Half) (o : Option Nat) (r : CmdSpec) (s : State), (i, op, o) ∈ hostCommands c →
    commandSpec op = some r → MailboxReady c.view c.slot s → c.len.toNat = r.len → c.flags = 0 →
    (c.view = .pf1 → r.both = true) → c.hostSeq = (s.view c.view).nextSeq →
    let x := s.view c.view
    let sl := writtenSlot c op (slotOf x c.slot)
    exec i s = .next ({ s with hostMem := writtenMem c o s.hostMem }.setView c.view
      { x with
        slots := FMap.set x.slots c.slot sl
        inflight := [⟨c.slot, op, 0, c.hostSeq, slice sl.payload 0 r.len, 0, .journaling, false, false⟩] })

/-- The failing checks of R334, in their order. -/
def Obligations.DoorbellChecksRefuse : Prop :=
  (∀ (v : View) (slot : Nat) (s : State), BellReady v slot s →
    let sl := slotOf (s.view v) slot
    let refused (status : Half) : Prop :=
      ∃ t, exec (.registerWrite v 0x1000 4 (BitVec.ofNat 32 slot)) s = .next t ∧
        posted v slot sl.hostSeq status 0 0 [] s t ∧ (t.view v).nextSeq = (s.view v).nextSeq ∧
        (t.view v).inflight = (s.view v).inflight ∧ (t.view v).completed = (s.view v).completed ∧
        (∀ w, w ≠ v → t.view w = s.view w) ∧ t = { s with pf0 := t.pf0, pf1 := t.pf1, trace := t.trace }
    (commandSpec sl.opcode = none → refused 0x0100) ∧
      (∀ r, commandSpec sl.opcode = some r →
        (permitted s v r sl.flags = false → refused 0x0103) ∧
          (permitted s v r sl.flags = true → sl.len.toNat ≠ r.len → refused 0x0101) ∧
          (permitted s v r sl.flags = true → sl.len.toNat = r.len → anyMirror s = false →
            sl.opcode ∉ [0x0101, 0x0602, 0x0803, 0x0501, 0x0B01] → refused 0x0107))) ∧
    (∀ (c : Submit) (op : Half) (s : State), MailboxReady c.view c.slot s → commandSpec op = none →
      ∃ t, exec (.badOpcodeDoorbell c op) s = .next t ∧
        posted c.view c.slot c.hostSeq 0x0100 0 0 [] s t ∧ (t.view c.view).nextSeq = (s.view c.view).nextSeq ∧
        (t.view c.view).inflight = [] ∧ (∀ w, w ≠ c.view → t.view w = s.view w) ∧
        t = { s with pf0 := t.pf0, pf1 := t.pf1, trace := t.trace })

/-- R335. The counting of an in-flight duplicate in CNT_MBX_REPLAY is the model's reading of R328. -/
def Obligations.HostSeqJudged : Prop :=
  (∀ v : View, (State.reset.view v).nextSeq = 1) ∧
    ∀ (v : View) (slot : Nat) (r : CmdSpec) (s : State), BellReady v slot s →
      let x := s.view v
      let sl := slotOf x slot
      let h := sl.hostSeq
      commandSpec sl.opcode = some r → permitted s v r sl.flags = true → sl.len.toNat = r.len → anyMirror s = true →
      1 ≤ x.nextSeq.toNat →
        ∃ t, exec (.registerWrite v 0x1000 4 (BitVec.ofNat 32 slot)) s = .next t ∧ (t.view v).nextSeq = x.nextSeq ∧
          (h = x.nextSeq → (t.view v).cplHead = x.cplHead ∧ (t.view v).inflight = x.inflight ++
            [⟨slot, sl.opcode, sl.flags, h, slice sl.payload 0 r.len, 0, .journaling, false, false⟩]) ∧
          (h ≠ x.nextSeq → (t.view v).inflight = x.inflight) ∧
          (h = 0 → (t.view v).inflight = x.inflight) ∧
          (x.nextSeq.toNat < h.toNat → posted v slot h 0x0102 0 0 [] s t) ∧
          (h.toNat + 64 < x.nextSeq.toNat → posted v slot h 0x0106 0 0 [] s t) ∧
          (x.nextSeq.toNat ≤ h.toNat + 64 → h.toNat < x.nextSeq.toNat →
            (∀ d, x.completed.find? (fun d => d.hostSeq == h) = some d →
              (d.opcode = sl.opcode → posted v slot h d.status (d.cflags ||| 1) d.engineSeq d.result s t ∧
                FMap.get t.cnt 0 184 = FMap.get s.cnt 0 184 + 1 ∧
                ((d.status.toNat / 256 ≠ 2) → t.stk = (sticky 2 9 s).stk)) ∧
                (d.opcode ≠ sl.opcode → posted v slot h 0x0105 0 0 [] s t)) ∧
              (x.completed.find? (fun d => d.hostSeq == h) = none →
                ∀ e, x.inflight.find? (fun e => e.hostSeq == h && e.engineSeq != 0) = some e →
                  (e.opcode = sl.opcode → posted v slot h 0x0001 1 e.engineSeq [] s t) ∧
                    (e.opcode ≠ sl.opcode → posted v slot h 0x0105 0 0 [] s t)))

/-- The reading commands of R342, accepted and completed. -/
def Obligations.ReadCommandsComplete : Prop :=
  ∀ (v : View) (e : Inflight) (s : State), Journaling v e s → s.glb.gstate ≠ .boot → s.glb.gstate ≠ .test →
    let bm := (s.view v).busMaster = true
    (e.opcode = 0x0101 → completesAs v e 0 0 (infoBytes s) s.hostMem s s) ∧
      (e.opcode = 0x0102 → bm → 8192 ≤ descLen e 0 →
        completesAs v e 0 0 (leBytes 4 certificateChain.flatten.length ++ leBytes 4 certificateChain.length)
          (memWrite s.hostMem (descAddr e 0) certificateChain.flatten) s s) ∧
      (e.opcode = 0x0602 → bm → 524 ≤ descLen e 0 →
        completesAs v e 0 0 (leBytes 4 524) (memWrite s.hostMem (descAddr e 0) (timeStatusBytes s)) s s) ∧
      (e.opcode = 0x0803 → bm → 3232 ≤ descLen e 0 →
        completesAs v e 0 0 (leBytes 4 3232) (memWrite s.hostMem (descAddr e 0) (calStatusBytes s)) s s) ∧
      (e.opcode = 0x0A01 → bm → 16 ≤ leAt e.payload 0 1 → leAt e.payload 0 1 ≤ 64 → 4096 ≤ descLen e 68 →
        zeroised s = false → s.bist.identityKey = true → s.bist.sessionKeys = true →
        completesAs v e 0 0 (leBytes 4 488)
          (memWrite s.hostMem (descAddr e 68) (quoteBody e s ++ identitySign (quoteBody e s))) s s) ∧
      (e.opcode = 0x0802 → s.glb.gstate ≠ .halted → leAt e.payload 0 1 ≤ 63 →
        completesAs v e 1 4 (spotResult s (leAt e.payload 0 1)) s.hostMem
          { s with cnt := FMap.set s.cnt 163 (FMap.get s.cnt 0 163 + 1) } s)

/-- The setting commands that take effect at acceptance. -/
def Obligations.SettingCommandsComplete : Prop :=
  ∀ (e : Inflight) (s : State), Journaling .pf0 e s →
    let running := s.glb.gstate = .config ∨ s.glb.gstate = .protecting ∨ s.glb.gstate = .degraded
    let n := leAt e.payload 0 2
    (e.opcode = 0x0204 → s.glb.gstate = .config → 240 ≤ n → n ≤ 3200 →
      completesAs .pf0 e 0 0 [] s.hostMem
        { s with glb := { s.glb with lpipeSet := n, lpipe := if s.cfg.package.isSome then n else s.glb.lpipe } } s) ∧
      (e.opcode = 0x0601 → running → s.pf0.busMaster = true → descLen e 0 = 420 →
        let ws := (wordsAt (readBuffer e 0 s) 0 105).zipIdx.map (fun w => w.1 &&& tcMask w.2)
        timeConfigOk ws = true → (tcPpsValid ws = true → stepPermitted s = true) →
        (∃ u, exec (.commandAcceptance .pf0 e.slot false false) s = .next u ∧ acceptedBy .pf0 e s u ∧ u.tb.config = ws ∧
          (tcPpsValid ws = true → u.tb.ppsSecFrom = some s.tb.now)) ∧
          (s.tb.src = 0 →
            completesAs .pf0 e 0 0 [] s.hostMem { s with tb := (applyTimeConfig (wordsAt (readBuffer e 0 s) 0 105) s).2.tb } s)) ∧
      (e.opcode = 0x0701 → s.glb.gstate = .config → pairRecordOk (wordAt e.payload 0) (wordAt e.payload 4) = true →
        bit (wordAt e.payload 0) 0 = false →
        completesAs .pf0 e 0 0 [] s.hostMem
          { s with pair := { s.pair with
            c0 := wordAt e.payload 0, c1 := wordAt e.payload 4, inStep := false, agreeing := 0, copied := none
            adopt := none, seqAdoptDue := false, roleHeld := some (roleOf s) } } s) ∧
      (e.opcode = 0x0701 → s.glb.gstate = .config → pairRecordOk (wordAt e.payload 0) (wordAt e.payload 4) = true →
        bit (wordAt e.payload 0) 0 = true →
        ∃ u, exec (.commandAcceptance .pf0 e.slot false false) s = .next u ∧ acceptedBy .pf0 e s u ∧
          u.pair = { s.pair with
            c0 := wordAt e.payload 0, c1 := wordAt e.payload 4, inStep := false, agreeing := 0, copied := none
            adopt := none, seqAdoptDue := true, roleHeld := some (roleOf s) }) ∧
      (e.opcode = 0x0403 → running → s.granary.walked = true → emmcBusy s = false →
        s.granary.releasedThrough < leAt e.payload 0 8 → leAt e.payload 0 8 ≤ s.granary.lastNo →
        completesAs .pf0 e 0 0 (leBytes 8 (leAt e.payload 0 8)) s.hostMem (releaseThrough (leAt e.payload 0 8) s) s) ∧
      (e.opcode = 0x0902 → running →
        let m := leAt e.payload 0 1
        m ≤ 1 → m ≠ s.trust.running → s.trust.slotState[m]? = some 2 →
        digestBytes (slotDigestOf s m) = slice e.payload 4 48 → s.trust.slotBg[m]? = some (runningBg s) ∨ s.trust.slotBg[m]?.isSome = true ∧ s.glb.gstate = .config →
        completesAs .pf0 e 0 0 [] s.hostMem
          (writeRecord { s with trust := { s.trust with activeSlot := m, activationDue := s.glb.gstate == .config } }) s) ∧
      (e.opcode = 0x0A02 → s.glb.gstate = .config → s.pf0.busMaster = true → descLen e 0 = 512 → zeroised s = false →
        s.bist.identityKey = true → s.bist.sessionKeys = true → ownerFault s (readBuffer e 0 s) = none →
        completesAs .pf0 e 0 0 (sha384 (slice (readBuffer e 0 s) 12 97)) s.hostMem (applyOwner (readBuffer e 0 s) s) s) ∧
      (e.opcode = 0x0A03 → s.glb.gstate = .config → leAt e.payload 0 1 = 1 → ownerSet s = true →
        (∀ p, s.cfg.package = some p → p.signed = true) → (∀ p, s.logic.program = some p → p.signed = true) →
        completesAs .pf0 e 0 0 [] s.hostMem { s with trust := { s.trust with requireSigned := true } } s)

/-- The commands that a boundary applies (R27), at their acceptance. -/
def Obligations.BoundaryCommandsWait : Prop :=
  ∀ (e : Inflight) (s : State), Journaling .pf0 e s → s.cfg.changes = [] →
    let g := s.glb.sheaf
    let p := loadedPeriod s.logic.program
    let start := p * ceilDiv (g + 2) p
    let running := s.glb.gstate = .protecting ∨ s.glb.gstate = .degraded
    let at' (j : Nat) (c : Change) : Prop := waitsAs .pf0 e (.awaitBoundary j) (withChange j .pf0 e c s) s
    (e.opcode = 0x0203 → running → leAt e.payload 2 1 ≤ 7 →
      leAt e.payload 0 2 ∈ enabledZones s ∧ znGroupSrc (zoneWords s.cfg.package (leAt e.payload 0 2)) = 0 ∨
        leAt e.payload 0 2 = 0xFFFF →
      at' (g + 3) (.group (leAt e.payload 0 2) (leAt e.payload 2 1))) ∧
      (e.opcode = 0x0302 → running → 0 < p →
        (∃ l d, s.logic.program = some l ∧ l.program.params[leAt e.payload 0 2]? = some d ∧
          paramOk d (wordAt e.payload 4) = true) →
        at' start (.param (leAt e.payload 0 2) (wordAt e.payload 4))) ∧
      (e.opcode = 0x0303 → running → 0 < p → leAt e.payload 0 1 ≤ 1 → isGeneral (namedPoint e) = true →
        tripClassSoon s (namedPoint e) = false → (forcedKeys s).length < 256 →
        at' start (.force (namedPoint e) (wordAt e.payload 8))) ∧
      (e.opcode = 0x0304 → running → 0 < p → leAt e.payload 0 1 ≤ 1 →
        at' start (.unforce (if (namedPoint e).idx = 0xFFFFFFFF then none else some (namedPoint e)))) ∧
      (e.opcode = 0x0305 → running → 0 < p → leAt e.payload 0 1 ≤ 1 →
        at' start (.restartLogic (leAt e.payload 0 1 == 1))) ∧
      (e.opcode = 0x0404 → running → thresherWorks s = true → leAt e.payload 0 1 ≤ 7 →
        tgEnabled (tgWords s.cfg.package (leAt e.payload 0 1)) = true → at' (g + 3) (.manual (leAt e.payload 0 1))) ∧
      (e.opcode = 0x0502 → running ∨ s.glb.gstate = .config → s.pf0.busMaster = true → descLen e 0 = 8960 →
        let ws := wordsAt (readBuffer e 0 s) 0 2240
        (∀ n < 64, snapsetOk ((ws.drop (35 * n)).take 35) = true) → at' (g + 3) (.snapsets ws)) ∧
      (e.opcode = 0x0202 → running ∨ s.glb.gstate = .config →
        ∀ (q : Package) (j : Nat), s.cfg.staged = some q → digestBytes q.digest = slice e.payload 8 48 →
          (leAt e.payload 0 8 = j ∧ j ≠ 0 ∨ leAt e.payload 0 8 = 0 ∧ s.glb.gstate = .config ∧ j = g + 8) →
          g + 8 ≤ j → j ≤ g + 288000 →
          (s.logic.staged.isSome = true → j % p = 0 ∧ j % loadedPeriod s.logic.staged = 0) → commitFits s q = true →
          unionOk s.cfg.package q = true → membersDeclared q ((comingProgram s).map (fun l => l.program)) = none →
          packageTaintOk q ((comingProgram s).map (fun l => l.program)) (forcedThen s s.logic.staged.isSome) = true →
          waitsAs .pf0 e (.awaitBoundary j)
            (armSubscriptions j q (withChange j .pf0 e (.package j s.logic.staged.isSome) s)) s)

/-- The long-running commands at their acceptance. -/
def Obligations.LongCommandsRun : Prop :=
  ∀ (v : View) (e : Inflight) (s : State), Journaling v e s →
    let running := s.glb.gstate = .config ∨ s.glb.gstate = .protecting ∨ s.glb.gstate = .degraded
    let bm := (s.view v).busMaster = true
    let runs (f : State) : Prop := waitsAs v e .running f s
    (e.opcode = 0x0201 → running → bm → 32 ≤ descLen e 0 → descLen e 0 ≤ 16777216 → s.cfg.changes = [] →
      emmcBusy s = false → (s.trust.requireSigned = true → s.bist.settingsKey = true) → runs s) ∧
      (e.opcode = 0x0301 → running → bm → descLen e 0 ≤ 33554432 → s.cfg.changes = [] → emmcBusy s = false → runs s) ∧
      (e.opcode = 0x0401 → running ∨ s.glb.gstate = .halted → bm → 1 ≤ leAt e.payload 8 4 → leAt e.payload 8 4 ≤ 65536 →
        32 * leAt e.payload 8 4 ≤ descLen e 16 → s.granary.walked = true → emmcBusy s = false → runs s) ∧
      (e.opcode = 0x0402 → running ∨ s.glb.gstate = .halted → bm → leAt e.payload 8 8 % 4096 = 0 →
        descLen e 16 % 4096 = 0 → s.granary.walked = true → emmcBusy s = false → runs s) ∧
      (e.opcode = 0x0501 → running ∨ s.glb.gstate = .halted → bm → 1 ≤ leAt e.payload 8 4 → leAt e.payload 8 4 ≤ 16384 →
        leAt e.payload 12 1 ≤ 1 → 256 * leAt e.payload 8 4 + 16384 * leAt e.payload 12 1 ≤ descLen e 16 → runs s) ∧
      (e.opcode = 0x0B01 → running ∨ s.glb.gstate = .halted → bm → leAt e.payload 0 1 = 0 → leAt e.payload 8 8 % 4 = 0 →
        s.dumpBusy = none → (∀ d, s.dumpDdr = some d → leAt e.payload 8 8 < d.bytes.length) →
        waitsAs v e (.fetching (s.dumpDdr.map (fun d => d.no))) s s) ∧
      (e.opcode = 0x0901 → running → bm → 65536 ≤ descLen e 0 → descLen e 0 ≤ 8388608 → descLen e 0 % 65536 = 0 →
        s.trust.install = none → s.trust.activeSlot = s.trust.running → s.trust.running ≤ 1 →
        match headerFault (readBuffer e 0 s) (descLen e 0) with
        | some st => completesAs v e st 0 [] s.hostMem
            (if st = 0x0500 then sticky 3 3 s else if st.toNat / 256 = 2 then sticky 0 6 s else s) s
        | none => runs
            (let n := 1 - s.trust.running
            let t := recordSlot n 1 0 0 0 s
            { t with trust := { t.trust with
              install := some 0, installResumed := false
              slotImage := modAt (fun _ => readBuffer e 0 s) n t.trust.slotImage } })) ∧
      (e.opcode = 0x0801 → running → s.bist.queue = [] →
        let r : BistRun := ⟨e.hostSeq, wordAt e.payload 0, 0, 0, false, 0, s.glb.sheaf + 2, BistValues.none, false, 0⟩
        (bistClass r = 0 ∧ bistIndex r ≤ 12 ∨ bistClass r = 1 ∧ bistIndex r ≤ 67) → bistRefused s r = false →
        waitsAs v e .testing { s with bist := { s.bist with queue := [r] } } s) ∧
      (e.opcode = 0x0702 → v = .pf0 → s.glb.gstate = .protecting ∨ s.glb.gstate = .degraded →
        completesAs v e 0x0103 0 [] s.hostMem s s)

/-- COMMAND_EXECUTION_END for each long-running command; the verdicts are the checks of R347 to R352 and R383. -/
def Obligations.LongCommandsEnd : Prop :=
  ∀ (v : View) (e : Inflight) (s : State), Running v e s →
    (e.opcode = 0x0201 → stageWaits s = false →
      let bs := readBuffer e 0 s
      let p := packageOf s bs
      let r := stageVerdict s bs p
      endsAs v e r.1 0 (digestBytes p.digest ++ leBytes 4 r.2) s.hostMem
        (if r.1 = 0 then
          writeCopy (fun c => (bs, c.2)) { s with cfg := { s.cfg with staged := some p, stagedBytes := bs } }
        else if r.1.toNat / 256 = 2 then sticky 0 6 s else s) s) ∧
      (e.opcode = 0x0301 → emmcBusy s = false →
        let bs := readBuffer e 0 s
        let r := loadVerdict s bs
        let t := match r.2.2 with
          | some l => writeCopy (fun c => (c.1, bs))
              { s with logic := { s.logic with staged := some l }, cfg := { s.cfg with programBytes := bs } }
          | none => s
        endsAs v e r.1 0 (digestBytes (imageDigest bs) ++ leBytes 4 r.2.1) s.hostMem
          (if r.1.toNat / 256 = 2 then sticky 0 6 t else t) s) ∧
      (e.opcode = 0x0401 → s.granary.walked = true → emmcBusy s = false →
        let all := s.granary.stored.filter
          (fun r => decide (s.granary.releasedThrough < r.no) && decide (leAt e.payload 0 8 ≤ r.no))
        let out := all.take (leAt e.payload 8 4)
        endsAs v e 0 (if out.length < all.length then 8 else 0)
          (leBytes 4 out.length ++ zeros 4 ++ leBytes 8 s.granary.lastNo ++ leBytes 8 s.granary.releasedThrough)
          (memWrite s.hostMem (descAddr e 16) (out.flatMap listEntry)) s s) ∧
      (e.opcode = 0x0402 → emmcBusy s = false →
        ∀ r, s.granary.stored.find?
            (fun r => r.no == leAt e.payload 0 8 && decide (s.granary.releasedThrough < r.no)) = some r →
          let rest := (r.body ++ r.sealBytes).drop (leAt e.payload 8 8)
          let out := rest.take (descLen e 16)
          endsAs v e 0 (if out.length < rest.length then 8 else 0) (leBytes 8 (r.body.length + 4096) ++ leBytes 4 out.length)
            (memWrite s.hostMem (descAddr e 16) out) s s) ∧
      (e.opcode = 0x0501 →
        let all := s.tally.log.reverse.filter (fun t => decide (leAt e.payload 0 8 ≤ t.seq.toNat))
        let out := all.take (leAt e.payload 8 4)
        let ring := if leAt e.payload 12 1 = 1 then s.tally.ring.reverse else []
        let oldest := (s.tally.log.getLast?.map (fun t => t.seq)).getD s.tally.nextSeq
        endsAs v e 0 (if out.length < all.length then 8 else 0)
          (leBytes 4 out.length ++ leBytes 4 ring.length ++ leBytes 8 s.tally.nextSeq.toNat ++ leBytes 8 oldest.toNat)
          (memWrite s.hostMem (descAddr e 16) ((out ++ ring).flatMap tallyBytes)) s s) ∧
      (e.opcode = 0x0B01 → s.dumpBusy = none → ∀ d, leAt e.payload 0 1 = 0 → s.dumpDdr = some d →
        e.stage = .running ∨ e.stage = .fetching (some d.no) →
        let rest := d.bytes.drop (leAt e.payload 8 8)
        let out := rest.take (descLen e 16)
        endsAs v e 0 (if out.length < rest.length then 8 else 0) (leBytes 8 d.bytes.length ++ leBytes 4 out.length)
          (memWrite s.hostMem (descAddr e 16) out) s s) ∧
      (e.opcode = 0x0B01 → ∀ no, e.stage = .fetching no → leAt e.payload 0 1 = 0 →
        s.dumpBusy.isSome = true ∨ no ≠ s.dumpDdr.map (fun d => d.no) →
        endsAs v e 0x0301 0 (leBytes 4 50) s.hostMem s s) ∧
      (e.opcode = 0x0901 → s.trust.installResumed = false →
        let bs := readBuffer e 0 s
        let n := 1 - s.trust.running
        let d := digestOf (bs.take (bs.length - 256))
        let res := digestBytes d ++ leBytes 1 n ++ zeros 3 ++ leBytes 4 (bs.length / 65536)
        let t := { s with trust := { s.trust with install := none, installResumed := false } }
        (imageSigned s bs = true →
          endsAs v e 0 0 res s.hostMem
            (let u := recordSlot n 2 d (wordAt bs 8) (leAt bs 6 2) t
            { u with trust := { u.trust with
              slotImage := modAt (fun _ => bs) n u.trust.slotImage
              slotCosigned := modAt (fun _ => leAt bs (bs.length - 160) 1 == 1) n u.trust.slotCosigned } }) s) ∧
          (imageSigned s bs = false → endsAs v e 0x0500 0 res s.hostMem (sticky 3 3 (recordSlot n 0 0 0 0 t)) s))

/-- The close deadline of R22. -/
def Obligations.CloseDeadlineFreezes : Prop :=
  ∀ (convs : List Conversion) (s : State),
    (s.glb.running = true → s.glb.frozen = false →
      ∃ t, exec (.closeDeadline convs) s = .next t ∧ t.glb = { s.glb with frozen := true } ∧ t.cfg = s.cfg ∧
        (protecting s = false ∨ s.glb.cur = s.glb.sheaf + 1 → t.zones = s.zones ∧ t.wires = s.wires) ∧
        (∀ n, (wireOf t n).toggling = (wireOf s n).toggling ∧ (wireOf t n).level = (wireOf s n).level) ∧
        t.zst = s.zst ∧ t.insts = s.insts ∧ t.results = s.results ∧ t.logic = s.logic ∧
        t.pf0 = s.pf0 ∧ t.pf1 = s.pf1 ∧ t.store = s.store ∧ t.trust = s.trust ∧ t.granary = s.granary ∧
        t.hostMem = s.hostMem ∧ t.bells = s.bells) ∧
      (s.glb.running = false ∨ s.glb.frozen = true → exec (.closeDeadline convs) s = .next s)

/-- The flip of R25 as GLB_SHEAF (R14) and ZST (R331, R332) show it. -/
def Obligations.CommitPublishesSheaf : Prop :=
  ∀ (i : IlkInputs) (a : List Nat) (b : Bool) (s : State),
    (s.glb.running = true → s.glb.frozen = true → s.tb.step = none →
      ∃ t, exec (.commitInstant i a b) s = .next t ∧ t.glb.sheaf = s.glb.cur ∧ t.glb.cur = s.glb.cur + 1 ∧
        t.glb.frozen = false ∧ t.zstHidden = s.zst ∧
        ∀ z < 160, ∃ body : List Word, body.length = 12 ∧ FMap.get? t.zst z =
          some ([lo32 s.glb.cur, hi32 s.glb.cur] ++ body ++ [lo32 s.glb.cur, hi32 s.glb.cur])) ∧
      (s.glb.running = false ∨ s.glb.frozen = false → exec (.commitInstant i a b) s = .next s)

/-- The sticky record at a boundary (R281). -/
def Obligations.CommitAppliesStickyBits : Prop :=
  ∀ (i : IlkInputs) (a : List Nat) (b : Bool) (s : State), s.glb.running = true → s.glb.frozen = true →
    s.stk.regs.length = 4 → s.stk.sets.length = 4 → s.stk.clears.length = 4 →
    ∃ t, exec (.commitInstant i a b) s = .next t ∧
      ∀ r < 4, ∀ n < 32, bit (regAt t.stk.regs r) n =
        (bit (regAt s.stk.sets r) n || (decide (r = 0 ∧ n = 8) && !s.logic.forces.isEmpty) ||
          (decide (r = 0 ∧ n = 1) && mismatchFound s.glb.cur s) ||
          (bit (regAt s.stk.regs r) n && !bit (regAt s.stk.clears r) n))

/-- The flip of R25 and R35, with its message (R396). -/
def Obligations.FlipCompletesOrIsLate : Prop :=
  ∀ (d : Nat) (s : State), d ≤ 20000 →
    (s.glb.running = true →
      let k := s.glb.sheaf
      let n := advance (commitInstantOf (runningLpipe s) k + nsSteps d) s
      let a := { n with glb := { n.glb with flipFrom := none } }
      let m := if 2000 < d then sticky 0 5 (tally 0x0103 [item k, item d] a) else a
      exec (.flipComplete d) s = .next (traceMsg 0x11 (beBytes 4 (k % 4294967296) ++ traceTs m ++
        beBytes 1 ((if 2000 < d then 1 else 0) + if ∃ z ∈ enabledZones s, (zoneOf s z).held = true then 2 else 0)) m)) ∧
      (s.glb.running = false → exec (.flipComplete d) s = .next s)

/-- HALTED of R35, R111 and R365. -/
def Obligations.FabricFailureHalts : Prop :=
  ∀ (d : Nat) (s : State), s.bells = [] → s.pf0.inflight = [] → s.pf1.inflight = [] → s.power.inReset = false →
    (∀ c, (c = .commitFailure d ∧ 20000 ≤ d ∧ s.glb.running = true ∨ c = .flipComplete d ∧ 20000 < d ∧ s.glb.running = true ∨
        c = .tcxoFail ∧ (s.glb.running = true ∨ s.power.powered = true ∧ s.glb.gstate = .boot)) →
      s.glb.gstate ≠ .halted → s.glb.gstate ≠ .test →
      ∃ t, exec c s = .next t ∧ t.glb.gstate = .halted ∧ t.glb.running = false ∧ t.results = [] ∧
        (∀ n w, (n, w) ∈ t.wires → w.toggling = false ∧ w.level = false) ∧ t.cfg = s.cfg ∧ t.zones = s.zones ∧
        t.insts = s.insts ∧ t.logic = s.logic ∧ t.samp = s.samp ∧ t.hostMem = s.hostMem ∧
        t.glb.sheaf = (if c = .tcxoFail then s.glb.sheaf else s.glb.flipFrom.getD s.glb.sheaf)) ∧
      (d < 20000 → exec (.commitFailure d) s = .next s) ∧
      (∀ c ∈ [Instr.commitFailure d, Instr.tcxoFail], s.glb.gstate = .halted ∨ s.glb.gstate = .test → exec c s = .next s)

/-- Lane results of R23 and R285; the slack in the trace message is a free value. -/
def Obligations.LaneDelivers : Prop :=
  ∀ (n : Nat) (agrees : Bool) (s : State), s.glb.running = true → s.glb.frozen = true → protecting s = true →
    (∀ x ∈ s.lanes.suspects, x.lane ≠ n) →
    (∀ p, laneState s n = .serving → positionOf s n = some p →
      let a := (takeFree s).2
      ∃ t, exec (.laneEvaluationDone n agrees) s = .next t ∧
        t = { a with
          trace := t.trace, lanes := { s.lanes with delivered := n :: s.lanes.delivered }
          results := ((positionsOf a n).flatMap (zonesAt a)).foldl
            (fun m z => FMap.set m z (evalZone a z s.glb.cur)) s.results }) ∧
      (laneState s n = .spare → s.lanes.suspects = [] → comparing s = true →
        ∃ t, exec (.laneEvaluationDone n agrees) s = .next t ∧
          t = { s with
            trace := t.trace, glb := { s.glb with free := s.glb.free + 1 }
            lanes := { s.lanes with compared := true, mismatch := !agrees } })

/-- The periodic known-answer test of R287 and R307. -/
def Obligations.KnownAnswerTestOutcome : Prop :=
  ∀ (n : Nat) (tok : Word) (d : Quad) (w : Nat) (s : State), s.glb.running = true → s.glb.frozen = false →
    s.glb.sheaf % 4800 = 360 * n →
    let pass := w = 2112 ∧ (d, tok) = Config.katExpected ((s.trust.slotDigest[s.trust.running]?).getD 0) Config.silicon
    let r := sticky 0 4 (tally 0x0B04 [item n, item s.glb.sheaf, d, item w] s)
    (pass → exec (.laneKnownAnswerTest n tok d w) s = .next s) ∧
      (¬ pass →
        (∀ p, laneState s n = .serving → positionOf s n = some p → (spareLane s).isSome = true →
          (∀ x ∈ s.lanes.suspects, x.lane ≠ n) →
          exec (.laneKnownAnswerTest n tok d w) s =
            .next { r with lanes := { s.lanes with
              suspects := s.lanes.suspects ++ [⟨n, p, s.glb.sheaf, s.glb.cur, true, false⟩] } }) ∧
          (∀ p, laneState s n = .serving → positionOf s n = some p → spareLane s = none →
            exec (.laneKnownAnswerTest n tok d w) s =
              .next { r with lanes := { s.lanes with retire := s.lanes.retire ++ [(n, 0)] } }) ∧
          (laneState s n = .spare →
            exec (.laneKnownAnswerTest n tok d w) s =
              .next { sticky 0 3 r with lanes := { s.lanes with retire := s.lanes.retire ++ [(n, 0)] } }))

/-- The wires of R217, R218 and their readback R220. -/
def Obligations.TripWireFollowsGate : Prop :=
  ∀ (n e : Nat) (t : Time) (s : State),
    let x := wireOf s n
    let a := advance t s
    exec (.tripWireStartStop n t) s = .next
        (if t ≠ timeAtClock s.tb s.tb.edge then s
        else if driving s = false then a
        else if x.gate && !x.toggling then
          { a with wires := FMap.set s.wires n { x with toggling := true, level := true, edge := s.tb.edge } }
        else if !x.gate && x.toggling then
          { a with wires := FMap.set s.wires n { x with toggling := false, level := false, edge := 0 } }
        else a) ∧
      (let w := wireWord s.cfg.package n
      let exp : Quad := if x.gate then 1 else 0
      let pass := if x.gate then 9 ≤ e else e = 0
      (wrReadback w = false ∨ driving s = false → exec (.readbackWindowEnd n e) s = .next s) ∧
        (wrReadback w = true → driving s = true →
          (pass → exec (.readbackWindowEnd n e) s = .next
            (let r := { s with wires := FMap.set s.wires n { x with failing := 0, fault := false } }
            if x.fault then tally 0x0803 [item n, 1, exp, item e] r else r)) ∧
            (¬ pass → x.failing = 1 → x.fault = false → exec (.readbackWindowEnd n e) s = .next
              (sticky 0 11 (count 161 1 (tally 0x0803 [item n, 0, exp, item e]
                { s with wires := FMap.set s.wires n { x with failing := 2, fault := true } })))) ∧
            (¬ pass → (x.failing ≠ 1 ∨ x.fault = true) → exec (.readbackWindowEnd n e) s = .next
              { s with wires := FMap.set s.wires n { x with failing := x.failing + 1 } })))

/-- Tenon's seal-in (R211) and backstop delay (R214). -/
def Obligations.TenonTimers : Prop :=
  ∀ (z : Nat) (s : State),
    let t := tenonOf s z
    let ws := tenonWords s.cfg.package z
    let m := 3 * lastEvaluated s + 2
    exec (.tenonSealInExpiry z) s = .next
        (if ∃ h, t.lastHold = some h ∧ m < h + 2880 then s
        else { s with tenon := FMap.set s.tenon z { t with rel := false } }) ∧
      exec (.backstopDelayExpiry z) s = .next
        (if tnBsEn ws = true ∧ bsCount ws + 1 ≤ t.bsSheaves then
          { s with tenon := FMap.set s.tenon z { t with bsop := true, lastBsop := some (lastEvaluated s) } }
        else s)

/-- The ends of self-tests of R305 to R313 and the secrets of R308 and R393. -/
def Obligations.SelfTestEnds : Prop :=
  (∀ (v : BistValues) (r : BistRun) (rest : List BistRun) (s : State), s.bist.queue = r :: rest → r.started = true →
    s.bist.decided = none → bistClass r = 0 →
    let pass := (v.misr, v.patterns, v.endToken) = expectedOf s r.target
    let r' := { r with values := v, runs := r.runs + 1 }
    ∃ t, exec (.bistRunEnd v) s = .next t ∧ t.bist.decided = some (r', decide pass) ∧ t.bist.queue = r' :: rest ∧
      t.lanes = s.lanes ∧
      (tallyWaiting s.tally < 1023 → (pass → t.stk = s.stk) ∧ (¬ pass → t.stk = (sticky 3 4 s).stk) ∧
        ∃ e, t.tally.queue = s.tally.queue ++ [e] ∧
          e.event = (if pass then 0x0B01 else 0x0B02) ∧ e.detail[0]? = some (r.target.zeroExtend 64)) ∧
      t.pf0 = s.pf0 ∧ t.pf1 = s.pf1 ∧ t.hostMem = s.hostMem ∧ sameProtection { s with lanes := t.lanes } t) ∧
    (∀ (t : Time) (r : BistRun) (rest : List BistRun) (s : State), s.bist.queue = r :: rest → r.waiting = true →
      (r.abortCause = 2 ∨ r.abortCause = 3) → bistClass r = 0 → r.started = false → bistRefused s r = false →
      let a := advance t s
      exec (.bistRerun t) s = .next { a with
        power := { s.power with vcoreLow := false, tempHigh := false }
        bist := { s.bist with queue := { r with waiting := false, notBefore := s.glb.sheaf + 1 } :: rest } }) ∧
    (∀ (r : BistRun) (s : State), s.bist.queue = [r] → r.runs = 1 → r.started = false →
      ∃ t, exec .bistRerunTimeout s = .next t ∧ t.bist.queue = [] ∧ t.lanes = s.lanes ∧ sameProtection s t) ∧
    (∀ s : State, s.bist.queue = [] → s.glb.gstate ≠ .test → s.power.inReset = false →
      exec .secretsRederived s = .next { s with bist := { s.bist with
        settingsKey := ownerPackageWhole s, identityKey := !zeroised s, sessionKeys := !zeroised s, scanEnd := none } })

/-- The completion of a dump (R374, R406). -/
def Obligations.DumpIsCompleted : Prop :=
  ∀ (d : Dump) (s : State), s.dumpBusy = some d →
    let a := { s with dumpDdr := some d, dumpBusy := none }
    exec .dumpComplete s = .next
      (if s.store.emmcFailed then a
      else postEvent 0x0E07 (BitVec.ofNat 64 d.bytes.length) (sticky 2 10 { a with dumpEmmc := some d, dumpNo := d.no }))

/-- The converter events of R51, R52, R55 and R426. -/
def Obligations.ConverterEvents : Prop :=
  (∀ (n : Nat) (t : Time) (s : State), n < 68 → s.glb.running = true → (sliceOf s n).failed = false →
    scanning s n t = false → (∀ f ∈ s.samp.fixes, n ∉ f.failed) → tallyWaiting s.tally < 1023 →
    ∃ u, exec (.sliceStall n t) s = .next u ∧ (∃ f, u.samp.fixes = s.samp.fixes ++ [f] ∧ f.d = sheafOf t) ∧
      u.stk = (sticky 1 (if n < 64 then 0 else 2) s).stk ∧
      (∃ e, u.tally.queue = s.tally.queue ++ [e] ∧ e.event = if n < 64 then 0x0201 else 0x0202) ∧
      u.glb = s.glb ∧ u.zones = s.zones ∧ u.wires = s.wires ∧ u.pf0 = s.pf0 ∧ u.pf1 = s.pf1 ∧ u.hostMem = s.hostMem) ∧
    (∀ (g : Nat) (t : Time) (s : State),
      let a := advance t s
      let x := groupOf s g
      let v := x.overlap
      let n := slotSubject g x
      let agrees := 0 < v.n ∧ v.sumD.natAbs ≤ 16 * 64 * v.n ∧ v.sumD2 ≤ v.n * 2048 * 2048
      x.running = true → x.started = true →
        (x.slotSheaf = 63 → x.standIn = false →
          exec (.overlapCompare g t) s = .next
            (if agrees then a
            else tally 0x0204 [item n, item 0, f64OfRatio v.sumD (v.n * 64), f64OfSqrt v.sumD2 (v.n * 64 * 64)] a)) ∧
          (x.slotSheaf = 2399 → x.standIn = true → agrees →
            exec (.overlapCompare g t) s = .next
              (setGroup g { x with fit := some (fitTransfer v (sliceOf s (64 + g)).gain) } a))) ∧
    (∀ (g : Nat) (t : Time) (s : State),
      let a := advance t s
      let x := groupOf s g
      let m := x.points
      let n := slotSlice g x
      x.running = true → x.standIn = true → x.inserted = none → x.slotSheaf = 2336 →
        (∀ c, calCoefficients m = some c → calInRange m = true →
          let r := checkReading m c
          let uv := roundHalfAway r.1 r.2
          let w := groupWords s.cfg.package g
          let decl : Int := (field (wAt w 1) 21 0 : Nat)
          let b := setSlice n { sliceOf s n with
            offset := c.1, gain := c.2, calCount := s.samp.gleaner, calAt := a.tb.now
            check := if bit (wAt w 0) 0 then uv else (sliceOf s n).check } a
          exec (.gleanerCalibrationResult g t) s = .next
            (if bit (wAt w 0) 0 ∧ decl * r.2 < 1000 * (r.1 - decl * r.2).natAbs then
              sticky 1 1 (tally 0x0203 [item n, item uv, item decl] b)
            else b)) ∧
          (calInRange m = false →
            exec (.gleanerCalibrationResult g t) s = .next (failSlice n s.glb.cur 1 none (sticky 1 1 a)))) ∧
    (∀ (t : Time) (s : State), s.power.vanaDip = none →
      let a := { advance t s with power := { s.power with vanaDip := some t } }
      exec (.vanaDipStart t) s = .next (tally 0x0205 [0, item (sheafOf t), 0] a)) ∧
    (∀ (a t : Time) (s : State), s.power.vanaDip = some a →
      exec (.vanaDipEnd t) s = .next (tally 0x0205 [1, item (sheafOf t), item (stepsNs (t - a))]
        { advance t s with
          power := { s.power with vanaDip := none, vanaPast := (a, t) :: s.power.vanaPast } }))

/-- The binary inputs of R222 and R223. -/
def Obligations.BinaryInputDebounce : Prop :=
  (∀ (n since m : Nat) (s : State),
    let d := biDebounce (biWord s.cfg.package n)
    (m < since + d - 1 ∨ (∃ l, biLast s n = some l ∧ since ≤ l) → exec (.biDebounceChange n since m) s = .next s) ∧
      (since + d - 1 ≤ m → (∀ l, biLast s n = some l → l < since) → prEnabled (pairWord s.cfg.package (n / 2)) = false →
        let v := !debounced s n
        exec (.biDebounceChange n since m) s = .next { s with bi := { s.bi with
          debounced := FMap.set s.bi.debounced n v, log := (since + d - 1, n, v) :: s.bi.log } })) ∧
    (∀ (p m d : Nat) (s : State), prEnabled (pairWord s.cfg.package p) = true → (biPairOf s p).fault = false →
      (biPairOf s p).disagreeSince = some d →
      let at' := d + pairLimit (pairWord s.cfg.package p)
      exec (.biPairDiscrepancy p m) s = .next
        (if at' ≤ m then sticky 0 12 (count 162 1 (tally 0x0804 [item p, 0, item at']
          { s with bi := { s.bi with
            pairs := FMap.set s.bi.pairs p { biPairOf s p with fault := true }, log := (at', 256 + p, true) :: s.bi.log } }))
        else s)) ∧
    (∀ (p m a : Nat) (s : State), prEnabled (pairWord s.cfg.package p) = true → (biPairOf s p).fault = true →
      (biPairOf s p).agreeSince = some a →
      let d := max (biDebounce (biWord s.cfg.package (2 * p))) (biDebounce (biWord s.cfg.package (2 * p + 1)))
      (m + 1 < a + d → exec (.biPairRecovery p m) s = .next s) ∧
        (a + d ≤ m + 1 → ∃ t, exec (.biPairRecovery p m) s = .next t ∧ (biPairOf t p).fault = false ∧
          (biPairOf t p).value = debounced s (2 * p) ∧ (biPairOf t p).agreed = true ∧ t.bi.debounced = s.bi.debounced ∧
          (∀ q, q ≠ p → biPairOf t q = biPairOf s q) ∧ sameProtection { s with bi := t.bi } t ∧ t.hostMem = s.hostMem))

/-- The element timers of R126, R140, R147 and R151, on the instance that the sheaf in the pipeline evaluates. -/
def Obligations.ElementTimersOperate : Prop :=
  ∀ (z k : Nat) (s : State),
    let n := 32 * z + k
    let i := liveInst s n
    let type := (liveSettings s z k).1
    let set := (liveSettings s z k).2
    let only (x : Inst) : State := setLiveInst n x s
    let closed := truth (boolPoint s (set 11).toNat).value
    (type ≠ 0x09 → ∀ d, delayOf type set = some d →
      exec (.definiteTimeOperate z k) s = .next
        (if i.wasOn = true ∧ i.r = 0 ∧ sheavesOfMs d + 1 ≤ i.c then
          only { i with op := true, bools := modAt (fun p => { p with value := 1 }) 1 i.bools } else s)) ∧
      (exec (.inverseTimeOperate z k) s = .next
        (if 1 ≤ type ∧ type ≤ 3 ∧ set 2 ≠ 0 ∧ F32.eq i.s F32.one = true ∧ sheavesOfMs (set 5).toNat + 1 ≤ i.run then
          only { i with op := true, bools := modAt (fun p => { p with value := 1 }) 1 i.bools } else s)) ∧
      (¬ (1 ≤ type ∧ type ≤ 3) → exec (.resetDelayExpiry z k) s = .next (if 0 < i.r then only { i with c := 0 } else s)) ∧
      (type = 0x0E →
        ∃ t, exec (.autoRecloseTimerExpiry z k) s = .next t ∧ (∀ m, m ≠ n → liveInst t m = liveInst s m) ∧
          t = { s with results := t.results, insts := t.insts } ∧
          (set 13 = 0xFFFFFFFF → set 11 ≠ 0xFFFFFFFF → i.prevInit = true →
            (i.reclose = .waitOpen → closed = true → (liveInst t n).reclose =
              if reached i.ticks (sheavesOfMs (set 7).toNat) then .lockout else .waitOpen) ∧
              (i.reclose = .closing → closed = false → (liveInst t n).reclose =
                if reached i.ticks (sheavesOfMs (set 8).toNat) then .lockout else .closing) ∧
              (i.reclose = .dead → set 12 = 0xFFFFFFFF → (liveInst t n).reclose =
                if reached i.ticks (deadSheaves set i.shots) then .closing else .dead) ∧
              (i.reclose = .reclaim ∨ i.reclose = .lockout →
                if reached i.ticks (sheavesOfMs (100 * (set 6).toNat)) then
                  (liveInst t n).reclose = .ready ∧ (liveInst t n).shots = 0
                else (liveInst t n).reclose = i.reclose ∧ (liveInst t n).shots = i.shots)) ∧
          (i.reclose = .ready ∨ i.reclose = .disabled → (liveInst t n).reclose = i.reclose))

/-- The timers of R183 and R231 and the masks of R233. -/
def Obligations.ProgramTimersExpire : Prop :=
  (∀ (n : Nat) (s : State), s.logic.program = none → exec (.logicTimerExpiry n) s = .next s) ∧
    (∀ (n ms : Nat) (l : Loaded) (s : State), s.logic.program = some l →
      l.program.steps.findSome? (logicTimerStep n) = some (.ton n ms) →
      let x := FMap.get s.logic.timers LTimer.init n
      let t := { s with logic := { s.logic with timers := FMap.set s.logic.timers n { x with q := true } } }
      exec (.logicTimerExpiry n) s = .next
          (if x.prev = true ∧ presetCycles ms (periodOf s) ≤ x.count then t else s)) ∧
    (∀ (p n : Nat) (s : State),
      let ws := tgWords s.cfg.package p
      let t := trigOf s p
      exec (.thresherTimerExpiry p n) s = .next
        (if tgEnabled ws = true ∧ timerExpired ws t n = true then
          setTrig p (if n = 0 then { t with tm0 := some (field (wAt ws (3 + n)) 23 0) }
            else { t with tm1 := some (field (wAt ws (3 + n)) 23 0) }) s
        else s)) ∧
    (∀ (p i m : Nat) (s : State),
      let ws := tgWords s.cfg.package p
      let t := trigOf s p
      (m ≠ 3 * s.glb.sheaf + 2 ∨ t.stepped = some m ∨ tgEnabled ws = false ∨ inViolation s ws i m ((t.masks[i]?).getD 0) = false →
        exec (.maskViolation p i m) s = .next s) ∧
        (m = 3 * s.glb.sheaf + 2 → t.stepped ≠ some m → tgEnabled ws = true → inViolation s ws i m ((t.masks[i]?).getD 0) = true →
          mkAction ws i = 1 → (mkStates ws i).testBit t.state = true → stopTrig t ≠ t →
          exec (.maskViolation p i m) s = .next
            (setTrig p { t with state := 0, k0 := 0, k1 := 0, tm0 := none, tm1 := none } (count 177 1 s))))

/-- Reception of R61 to R63. -/
def Obligations.PortAcceptsFrames : Prop :=
  ∀ (f : Frame) (s : State),
    let a := advance f.tArr s
    let g := tenonExtract f (count f.port 1 a)
    (portOn s f.port = false ∨ (portOf s f.port).link = false →
      exec (.portFrameRx f) s = .next a) ∧
      (portOn s f.port = true → (portOf s f.port).link = true →
        (framePasses f = false → exec (.portFrameRx f) s = .next (count (32 + f.port) 1 a)) ∧
          (framePasses f = true → frameClass g f = none →
            exec (.portFrameRx f) s = .next (if ldfStray g f then count 168 1 g else g)) ∧
          (∀ c, framePasses f = true → frameClass g f = some c →
            (classShare c < ((portOf a f.port).used[c]?).getD 0 + f.len →
              exec (.portFrameRx f) s = .next (count (64 + f.port) 1 g)) ∧
              (((portOf a f.port).used[c]?).getD 0 + f.len ≤ classShare c → prpPair s.cfg.package f.port = none →
                (endsHere f = true → exec (.portFrameRx f) s = .next g) ∧
                  (endsHere f = false → exec (.portFrameRx f) s = .next { g with ing := { g.ing with
                    ports := FMap.set g.ing.ports f.port { portOf g f.port with
                      used := modAt (fun u => u + f.len) c (portOf g f.port).used
                      waiting := (portOf g f.port).waiting ++ [f] } } }))))

/-- Streams and subscriptions of R66 to R78. -/
def Obligations.StreamsFollowTheirFrames : Prop :=
  (∀ (f : Frame) (s : State), nextServed s ≠ some (f.port, f) →
    exec (.svFrame f) s = .next s ∧ exec (.gooseFrame f) s = .next s) ∧
  (∀ (f : Frame) (asdus : List Asdu) (s : State), f.body = .sv asdus → nextServed s = some (f.port, f) →
    (armedPackage s = none → (∀ e ∈ svEntries s.cfg.package, svMatches s.cfg.package f asdus e.2 = false) →
      exec (.svFrame f) s = .next (served f s)) ∧
      (∀ i ws, (i, ws) ∈ svEntries s.cfg.package → (∀ e ∈ svEntries s.cfg.package, e.1 = i → e.2 = ws) →
        svMatches s.cfg.package f asdus ws = true → svCheck ws asdus = 0 → (streamOf s false i).prev = none →
        ∃ t, exec (.svFrame f) s = .next t ∧ (streamOf t false i).lastArr = some (f.tArr + (frameShift s f).getD 0) ∧
          (streamOf t false i).lost = false ∧ (streamOf t false i).confRev = none ∧ t.glb = s.glb ∧ t.zones = s.zones ∧
          t.wires = s.wires ∧ t.cfg = s.cfg ∧ t.pf0 = s.pf0 ∧ t.pf1 = s.pf1 ∧ t.hostMem = s.hostMem)) ∧
    (∀ (i : Nat) (s : State),
      let ws := recOr s.cfg.package secSv i []
      let x := streamOf s false i
      let due := (svLoss ws : Int) * 4000000 ≤ (s.tb.now - x.lastArr.getD x.since) * 3
      exec (.svStreamLost i) s = .next
        (if svEnabled ws = true ∧ x.lost = false ∧ due then
          sticky 1 13 (sticky 1 3 (tally 0x0307 [1, item i, item (svStation ws)]
            (tally 0x0302 [item i, item (svStation ws), item (sheafOf s.tb.now)]
              (setStream false i { x with lost := true, prev := none } s))))
        else s)) ∧
    (∀ (f : Frame) (g : GooseMsg) (s : State), f.body = .goose g → nextServed s = some (f.port, f) →
      let a := served f s
      (g.simulation = true → exec (.gooseFrame f) s = .next a) ∧
        (∀ i ws, g.simulation = false → gsEntries s.cfg.package = [(i, ws)] → gsMatches s.cfg.package f g ws = true →
          gsShapeOk ws g = true → g.ndsCom = false → g.confRev = gsConfRev ws →
          ∃ t, exec (.gooseFrame f) s = .next t ∧ (subOf t i).accepted = some (f.tArr, g.talMs) ∧
            (subOf t i).ndsCom = false ∧ (subOf t i).stale = false ∧ (g.stNum, g.sqNum) ∈ (subOf t i).seen ∧
            t = { a with ing := t.ing })) ∧
    (∀ (i : Nat) (t : Time) (tal : Nat) (s : State), (subOf s i).accepted = some (t, tal) →
      exec (.gooseTalExpiry i) s = .next
        (if gsEnabled (recOr s.cfg.package secGooseSub i []) = true ∧ (subOf s i).stale = false ∧ msSteps tal < s.tb.now - t then
          sticky 1 13 (tally 0x0307 [0, item i, item (gsStation (recOr s.cfg.package secGooseSub i []))]
            (setSub i { subOf s i with stale := true } s))
        else s))

/-- PRP pairs and links of R73 to R75; that 0x0306 concerns ports outside a pair only is the model's reading (log 28). -/
def Obligations.PrpPairsAndLinks : Prop :=
  (∀ (n lo : Nat) (s : State), prpPair s.cfg.package n = some lo →
    let hi := portPartner (portWords s.cfg.package lo)
    let q := (portOf s lo).prpSeq
    let a := supervisionLaunch lo q 0xA
    let b := supervisionLaunch hi q 0xB
    let free (m : Nat) (e : Launch) : Prop :=
      mayTransmit s m = true ∧ (portOf s m).untimed = [] ∧ untimedFits m e s.tb.now s = true
    lo ≠ hi → free lo a → free hi b →
    ∃ t, exec (.prpSupervisionTx n) s = .next t ∧ (portOf t lo).prpSeq = (q + 1) % 65536 ∧
      t.sent = ⟨hi, .prpSupervision, s.tb.now, egressUnits s hi s.tb.now, b.head, b.data, b.trailer⟩ ::
        ⟨lo, .prpSupervision, s.tb.now, egressUnits s lo s.tb.now, a.head, a.data, a.trailer⟩ :: s.sent ∧
      t = { s with ing := t.ing, cnt := t.cnt, sent := t.sent }) ∧
    (∀ (n lo : Nat) (src : Mac) (t : Time) (x : PrpNode) (s : State), prpPair s.cfg.package n = some lo →
      nodeOf s lo src = some x →
      let a := advance t s
      exec (.prpNodeExpiry n src t) s = .next
        (if msSteps 400 ≤ t - x.last then
          { a with ing := { s.ing with nodes := s.ing.nodes.filter (fun y => !(y.pair == lo && y.src == src)) } } else a)) ∧
    (∀ (n lo : Nat) (src : Mac) (t : Time) (x : PrpNode) (s : State), prpPair s.cfg.package n = some lo →
      nodeOf s lo src = some x → (portOf s lo).lanDown = none →
      let a := advance t s
      let silent (o : Option Time) : Prop := msSteps 2000 ≤ t - o.getD x.since
      exec (.prpLanDown n src t) s = .next
        (if ¬ (silent x.seenA ↔ silent x.seenB) then
          sticky 1 6 (tally 0x0305 [item lo, 0, 1, src.zeroExtend 64]
            (setPort lo { portOf s lo with lanDown := some (1, src, a.tb.now) } a))
        else a)) ∧
    (∀ (n : Nat) (up : Bool) (s : State),
      ((portOf s n).link = up → exec (.portLinkChange n up) s = .next s) ∧
        ((portOf s n).link ≠ up → ptpActive s n = false →
          let a := setPort n { portOf s n with link := up, untimed := if up then (portOf s n).untimed else [] } s
          (prpPair s.cfg.package n = none →
            exec (.portLinkChange n up) s = .next (tally 0x0306 [item n, if up then 1 else 0] a)) ∧
            (∀ lo, prpPair s.cfg.package n = some lo → up = false →
              exec (.portLinkChange n up) s = .next (sticky 1 6 (tally 0x0305 [item lo, 0, 0, 0]
                (setPort lo { portOf a lo with lanDown := some (0, 0, s.tb.now) } a)))) ∧
            (∀ lo, prpPair s.cfg.package n = some lo → up = true → exec (.portLinkChange n up) s = .next a)))

/-- Timed launch of R106 and R107 and GOOSE retransmission of R81. -/
def Obligations.LaunchesLeaveInOrder : Prop :=
  (∀ (n : Nat) (t : Time) (occ : Bool) (e : Launch) (rest : List Launch) (s : State), (portOf s n).queue = e :: rest →
    let a := setPort n { portOf s n with queue := rest } (advance t s)
    let off := egressUnits s n t - stepUnits (e.instant.getD 0)
    let due := e.late = true ∨ (occ = true ∧ 0 ≤ off) ∨ off.natAbs ≤ 655360
    (¬ due → exec (.timedLaunch n t occ) s = .next s) ∧
      (due → mayTransmit s n = false → exec (.timedLaunch n t occ) s = .next a) ∧
      (due → (portOf s n).untimed = [] → mayLaunch s e.kind = false → exec (.timedLaunch n t occ) s = .next a) ∧
      (due → mayTransmit s n = true → (portOf s n).untimed = [] → mayLaunch s e.kind = true →
        ∃ u, exec (.timedLaunch n t occ) s = .next u ∧
          u.sent = ⟨n, e.kind, t, egressUnits s n t, e.head, e.data, e.trailer⟩ :: s.sent ∧
          (portOf u n).queue = rest ∧ u = { a with cnt := u.cnt, sent := u.sent, ldf := u.ldf } ∧
          ((∀ d p, e.kind ≠ .ldf d p) → u.ldf = s.ldf) ∧
          (n < 32 → FMap.get u.cnt 0 (96 + n) = FMap.get s.cnt 0 (96 + n) + 1 ∧
            FMap.get u.cnt 0 146 = FMap.get s.cnt 0 146 + (if occ = true ∧ e.late = false then 1 else 0)))) ∧
    (∀ (n : Nat) (t : Time) (vals : List (Word × Half)) (s : State), (pubOf s n).next = some t → (pubOf s n).last = some vals →
      gpEnabled (gpWords s.cfg.package n) = true →
      exec (.gooseRetransmit n) s = .next (queueGoose n (gpWords s.cfg.package n) t
        (min (2 * (pubOf s n).interval) (gpT0 (gpWords s.cfg.package n))) vals
        { pubOf s n with sqNum := nextNum (pubOf s n).sqNum } (advance t s)))

/-- PTP of R97 to R100. -/
def Obligations.PtpMessages : Prop :=
  (∀ (f : Frame) (t : Time) (s : State), nextServed s = some (f.port, f) → f.body = .ptp true →
    servePtp f.port t s = some (advance t (served f s))) ∧
    (∀ (m : PtpMsg) (s : State), servePtp m.port m.stamp s = none →
      ∀ c ∈ [Instr.syncRx m, .followUpRx m, .pdelayReqRx m], exec c s = .next s) ∧
    (∀ (m : PtpMsg) (a s : State), servePtp m.port m.stamp s = some a →
      (fromMaster a m.port m.domain m.srcIdentity = false →
        exec (.syncRx m) s = .next a ∧ exec (.followUpRx m) s = .next a) ∧
        (fromMaster a m.port m.domain m.srcIdentity = true →
          (m.twoStep = true → exec (.syncRx m) s = .next (setPtp m.port { ptpOf a m.port with
            logSync := clampInt m.logInterval (-4) 0
            sync := some (m.seqId, ingressUnits a m.port m.stamp, m.correction) }
            (setPtp m.port { ptpOf a m.port with logSync := clampInt m.logInterval (-4) 0 } a))) ∧
            ((∀ q, (ptpOf a m.port).sync = some q → q.1 ≠ m.seqId) → exec (.followUpRx m) s = .next a) ∧
            (∀ t2 c, (ptpOf a m.port).sync = some (m.seqId, t2, c) → ∃ t, exec (.followUpRx m) s = .next t ∧
              (ptpOf t m.port).lastOffset = syncOffset a m.port t2 m.origin (c + m.correction) ∧
              (ptpOf t m.port).sync = none ∧ t.cfg = s.cfg ∧ t.zones = s.zones ∧ t.wires = s.wires ∧ t.samp = s.samp)) ∧
        (ptpActive a m.port = false ∨ mayTransmit a m.port = false → exec (.pdelayReqRx m) s = .next a) ∧
        (ptpActive a m.port = true → mayTransmit a m.port = true → (portOf a m.port).untimed = [] →
          let e := ptpLaunch a m.port (.pdelayResp m.seqId) 3 m.seqId m.srcIdentity (ingressUnits a m.port m.stamp)
          let x := egressUnits a m.port a.tb.now
          let g := ptpLaunch a m.port (.pdelayFollow m.seqId) 10 m.seqId m.srcIdentity x
          let u := a.tb.now + frameTime a m.port e
          ((portOf a m.port).queue = [] → ∃ t, exec (.pdelayReqRx m) s = .next t ∧
            t.sent = ⟨m.port, .pdelayFollow m.seqId, u, egressUnits a m.port u, g.head, g.data, none⟩ ::
              ⟨m.port, .pdelayResp m.seqId, a.tb.now, x, e.head, e.data, none⟩ :: s.sent ∧
            t = { a with cnt := t.cnt, sent := t.sent, ing := t.ing }) ∧
            (untimedFits m.port e a.tb.now a = false → exec (.pdelayReqRx m) s =
              .next (setPort m.port { portOf a m.port with untimed := [e] } a)))) ∧
    (∀ (r : PdelayResp) (s : State),
      (servePtp r.port r.t4 s = none → exec (.pdelayRespRx r) s = .next s) ∧
        (∀ a, servePtp r.port r.t4 s = some a →
          let d := roundHalfAway ((ingressUnits a r.port r.t4 - egressUnits a r.port r.t1) - (r.t3 - r.t2) - r.correction) 2
          (ptpActive a r.port = false ∨ r.valid = false → exec (.pdelayRespRx r) s = .next a) ∧
            (ptpActive a r.port = true → r.valid = true →
              exec (.pdelayRespRx r) s = .next (setPtp r.port { ptpOf a r.port with
                delays := d :: (ptpOf a r.port).delays.take 7, lastExchange := some r.t4
                exchanges := (ptpOf a r.port).exchanges + 1 } a)))) ∧
    (∀ (n : Nat) (t : Time) (s : State),
      let e := ptpLaunch s n .pdelayReq 2 (ptpOf s n).reqSeq 0 0
      (ptpActive s n = false ∨ mayTransmit s n = false ∨ pdelayDue s n t = false →
          exec (.pdelayReqTx n t) s = .next (advance t s)) ∧
        (ptpActive s n = true → mayTransmit s n = true → pdelayDue s n t = true →
          ∃ u, exec (.pdelayReqTx n t) s = .next u ∧
            u.sent = ⟨n, .pdelayReq, t, egressUnits s n t, e.head, e.data, none⟩ :: s.sent ∧
            (ptpOf u n).reqSeq = ((ptpOf s n).reqSeq + 1) % 65536 ∧ (ptpOf u n).reqAt = some t ∧ u.cfg = s.cfg ∧ u.ing = s.ing)) ∧
    (∀ (a : Announce) (s : State),
      (servePtp a.port a.stamp s = none → exec (.announceRx a) s = .next s) ∧
        (∀ b, servePtp a.port a.stamp s = some b →
          (ptpActive b a.port = false ∨ a.domain ≠ tcDomain s.tb.config → exec (.announceRx a) s = .next b) ∧
            (ptpActive b a.port = true → a.domain = tcDomain s.tb.config → (ptpOf s a.port).announce = none →
              ∃ t, exec (.announceRx a) s = .next t ∧ (ptpOf t a.port).announce = some a ∧ t.cfg = s.cfg ∧
                t.zones = s.zones))) ∧
    (∀ (n : Nat) (t : Time) (s : State),
      ((ptpOf s n).announce = none → exec (.announceReceiptTimeout ⟨n, t⟩) s = .next (advance t s)) ∧
        (∀ a, (ptpOf s n).announce = some a →
          (t - a.stamp < 3 * logSteps a.logInterval →
            exec (.announceReceiptTimeout ⟨n, t⟩) s = .next (advance t s)) ∧
            (3 * logSteps a.logInterval ≤ t - a.stamp →
              ∃ u, exec (.announceReceiptTimeout ⟨n, t⟩) s = .next u ∧ (ptpOf u n).announce = none ∧
                u.cfg = s.cfg ∧ u.zones = s.zones ∧ u.wires = s.wires)))

/-- The sources of R96 and R99 to R105. -/
def Obligations.TimeSources : Prop :=
  (∀ (t : Time) (r : Bool) (s : State),
    ∀ c ∈ [Instr.syncLoss t, .holdoverExpiry t, .ppsInEdge t, .ppsInLoss t, .ppsOutPulse r t],
      ∃ u, exec c s = .next u ∧ sameProtection { s with tb := u.tb } u ∧ u.hostMem = s.hostMem) ∧
    (∀ (t : Time) (s : State),
      let a := advance t s
      let limit := 3 * logSteps ((s.tb.slave.map (fun n => (ptpOf s n).logSync)).getD 0)
      (s.tb.lastPtp = none → exec (.syncLoss t) s = .next a) ∧
        (∀ u, s.tb.lastPtp = some u →
          (s.tb.src ≠ 1 ∨ t - u < limit → exec (.syncLoss t) s = .next a) ∧
            (s.tb.src = 1 → limit ≤ t - u →
              ∃ v, exec (.syncLoss t) s = .next v ∧ v.tb.now = a.tb.now ∧ v.cfg = s.cfg ∧ v.zones = s.zones ∧
                v.wires = s.wires ∧ v.tb.src = (if tcSource s.tb.config = 3 ∧ ppsValidAt a t = true then 2 else 0)))) ∧
    (∀ (t : Time) (s : State),
      let a := advance t s
      let e := holdoverEstimate a t
      let past := s.tb.state = .holdover ∧ ((tcHoLimit s.tb.config * 1000 : Nat) : Int) * e.2 < e.1
      (¬ past → exec (.holdoverExpiry t) s = .next a) ∧
        (past → ∃ v, exec (.holdoverExpiry t) s = .next v ∧ v.tb.state = .unlocked ∧ v.tb.src = 0 ∧ v.cfg = s.cfg ∧
          v.zones = s.zones ∧ v.wires = s.wires)) ∧
    (∀ (t : Time) (s : State),
      let e := t - nsSteps (tcPpsDelay s.tb.config)
      let near : Int := (2 * e + stepsPerSec) / (2 * stepsPerSec)
      let th := e - near * stepsPerSec
      ((stepsPerSec : Int) ≤ 2 * th.natAbs → exec (.ppsInEdge t) s = .next (advance t s)) ∧
        (2 * (th.natAbs : Int) < stepsPerSec → ∃ v, exec (.ppsInEdge t) s = .next v ∧ v.tb.lastPps = some t ∧
          v.tb.ppsTheta = stepUnits th ∧ v.cfg = s.cfg ∧ v.zones = s.zones ∧ v.wires = s.wires)) ∧
    (∀ (t : Time) (s : State),
      let a := advance t s
      (s.tb.lastPps = none → exec (.ppsInLoss t) s = .next a) ∧
        (∀ u, s.tb.lastPps = some u →
          (t - u < 3 * stepsPerSec → exec (.ppsInLoss t) s = .next a) ∧
            (3 * stepsPerSec ≤ t - u → s.tb.src ≠ 2 →
              exec (.ppsInLoss t) s = .next { a with tb := { a.tb with lastPps := none } }) ∧
            (3 * stepsPerSec ≤ t - u → s.tb.src = 2 →
              ∃ v, exec (.ppsInLoss t) s = .next v ∧ v.tb.lastPps = none ∧ v.tb.src = 0 ∧ v.cfg = s.cfg))) ∧
    (∀ (t : Time) (s : State),
      let a := advance t s
      let off := (5 * t + 32 * (tcPpsAdv s.tb.config : Int)) % 32000000000
      let on := tcPpsMode s.tb.config = 2 ∨ tcPpsMode s.tb.config = 1 ∧ timeValid a = true
      exec (.ppsOutPulse true t) s = .next
          (if on ∧ (off ≤ 32 ∨ 32000000000 - off ≤ 32) then
            { a with tb := { a.tb with ppsOut := true, ppsFall := some (t + msSteps 100) } }
          else a) ∧
        (s.tb.ppsFall = none → exec (.ppsOutPulse false t) s = .next a) ∧
        (∀ u, s.tb.ppsFall = some u → exec (.ppsOutPulse false t) s = .next
          (if (t - u).natAbs ≤ 6 then { a with tb := { a.tb with ppsOut := false, ppsFall := none } } else a)))
/-- Claims of R299, line faults of R300 and takeovers of R303, while no command is in flight and no doorbell waits. -/
def Obligations.ClaimsFollowTheInterlock : Prop :=
  (∀ (i : IlkInputs) (s : State), NothingWaits s → paired s = true → protecting s = true → s.glb.running = true →
      s.glb.frozen = false →
      let k := s.glb.sheaf
      let c := ilkClasses s k i
      let kept (t : State) : Prop := t.cfg = s.cfg ∧ t.zones = s.zones ∧ t.wires = s.wires ∧ t.glb = s.glb ∧ t.samp = s.samp ∧
        t.store = s.store ∧ t.trust = s.trust ∧ t.hostMem = s.hostMem ∧ t.bells = [] ∧ t.pf0.inflight = []
      let swap := ∃ r, s.pair.notice = some r ∧ k = r + 1
      (s.pair.token = false →
        (bothRelease c = true → swap ∨ preferActs s = true ∨ 4800 ≤ s.pair.relRun →
          ∃ t, exec (.releaseClaim i) s = .next t ∧ t.pair.token = true ∧ t.pair.swapFrom = s.tb.now ∧ t.pair.notice = none ∧
            (s.pair.roleHeld = none → roleOf t = 1) ∧ kept t ∧ t.insts = s.insts ∧ t.logic = s.logic ∧ t.granary = s.granary) ∧
          (bothRelease c = false ∨ ¬ (swap ∨ preferActs s = true ∨ 4800 ≤ s.pair.relRun) →
            exec (.releaseClaim i) s = .next s) ∧
          (allAbsent c = true → 24 ≤ s.pair.absRun → ∃ t, exec (.absenceClaim i) s = .next t ∧ t.pair.token = true ∧
            t.pair.partnerLost = true ∧ t.pair.publishDue = true ∧ t.pair.inStep = false ∧ kept t ∧
            t.stk = (sticky 3 6 { s with stk := (tally 0x0A06 [item ((s.pair.copied.map (fun x => x.epoch)).getD 0), item k, 0] s).stk }).stk ∧
            (s.pair.copied = none → t.insts = s.insts ∧ t.logic = s.logic ∧ t.granary = s.granary ∧ t.ing = (dropGoose s).ing) ∧
            (∀ x, s.pair.copied = some x → t.granary.nextNo = x.nextRecord ∧ t.logic.params = toMap x.params ∧
              t.logic.forces = toMap x.forces))) ∧
        (s.pair.token = true → exec (.releaseClaim i) s = .next s ∧
          (allAbsent c = true → 24 ≤ s.pair.absRun → exec (.absenceClaim i) s = .next
            (if s.pair.partnerLost then s
            else sticky 3 6 (tally 0x0A06 [0, item k, 1]
              { s with pair := { s.pair with partnerLost := true, inStep := false, agreeing := 0 } })))) ∧
        (allAbsent c = false ∨ s.pair.absRun < 24 → exec (.absenceClaim i) s = .next s)) ∧
    (∀ (i : IlkInputs) (s : State), NothingWaits s → paired s = true → s.glb.running = true → s.glb.frozen = false →
      let c := ilkClasses s s.glb.sheaf i
      ((∀ n ∈ lineCauses s.pair c, n ∈ s.pair.faults) → exec (.ilkLineFault i) s = .next s) ∧
        (s.pair.token = true → bothClaim c = true → s.pair.faults = [] → lineCauses s.pair c = [0] →
          let r := sticky 3 7 (tally 0x0A03 [0, 1, 1, item c.2.2.code] { s with pair := { s.pair with faults := [0] } })
          (preferActs s = true → exec (.ilkLineFault i) s = .next r) ∧
            (preferActs s = false → ∃ t, exec (.ilkLineFault i) s = .next t ∧ t.pair.token = false ∧
              (∀ n w, (n, w) ∈ t.wires → w.toggling = false ∧ w.level = false) ∧ t.cfg = s.cfg ∧ t.zones = s.zones ∧
              t.stk = r.stk ∧ t.tally = r.tally ∧ t.glb = s.glb ∧ t.store = s.store)))

/-- Epochs of R296, R301 and R434. -/
def Obligations.EpochCopiesAreCompared : Prop :=
  ∀ (c : EpochCopy) (p : PartnerInfo) (e r : Nat) (s : State),
    (paired s = true → s.pair.token = false → s.pair.partner = some p →
      (∀ x, s.pair.copied = some x → x.epoch = c.epoch → exec (.epochCopyRx c p) s = .next s) ∧
      ((∀ x, s.pair.copied = some x → x.epoch ≠ c.epoch) →
      let b := { s with pair := { s.pair with partner := some p, partnerEpoch := c.epoch, copied := some c } }
      (s.pair.seqAdoptDue = false →
        ∀ own, s.pair.captures.find? (fun x => x.epoch == c.epoch) = some own → c.nextRecord = own.nextRecord →
          (epochDiff own c = 0 → exec (.epochCopyRx c p) s =
            .next { b with pair := { b.pair with agreeing := s.pair.agreeing + 1 } }) ∧
            (epochDiff own c ≠ 0 → exec (.epochCopyRx c p) s =
              .next (count 155 1 (tally 0x0A02 [item c.epoch, item (epochDiff own c)]
                { b with pair := { b.pair with agreeing := 0, adopt := some (c, epochDiff own c) } })))) ∧
        (s.pair.seqAdoptDue = true → ∃ t, exec (.epochCopyRx c p) s = .next t ∧ t.pf0.nextSeq = c.pf0NextSeq ∧
          t.pf0.completed = [] ∧ t.pair.seqAdoptDue = false ∧ t.cfg = s.cfg ∧
          t.zones = s.zones ∧ t.logic = s.logic ∧ t.wires = s.wires ∧ t.pf1 = s.pf1 ∧
          (∀ own, s.pair.captures.find? (fun x => x.epoch == c.epoch) = some own → t.granary.nextNo =
            if c.nextRecord = own.nextRecord then s.granary.nextNo
            else c.nextRecord + (s.granary.nextNo - own.nextRecord))))) ∧
      (paired s = false ∨ s.pair.token = true → exec (.epochCopyRx c p) s = .next s) ∧
      (paired s = true → s.pair.token = true → s.pair.partner = some p → (∃ x ∈ s.pair.captures, x.epoch = e) →
        ∀ sw, sw = s.pair.swap ∧ (∀ t b j, sw ≠ .marked t b j) ∨
            (∃ t b j, s.pair.swap = .marked t b j ∧ j / 48 = e ∧ sw = .acked t b j) →
          exec (.epochAcknowledgement ⟨e, p⟩) s = .next { s with pair := { s.pair with
            partnerEpoch := e, captures := [], agreeing := s.pair.agreeing + 1, swap := sw } }) ∧
      exec (.swapNoticeRx r) s =
        .next (if paired s = true ∧ s.pair.token = false then { s with pair := { s.pair with notice := some r } } else s)

/-- Swaps of R301 and R302. -/
def Obligations.RoleSwaps : Prop :=
  (∀ s : State, paired s = true → s.pair.token = true → s.pair.swap = .idle →
      exec .roleSwapDue s = .next
        (if s.pair.swapFrom + 3600 * swapHours s * stepsPerSec ≤ s.tb.now
        then { s with pair := { s.pair with swap := .due s.tb.now false } } else s)) ∧
    (∀ (i : IlkInputs) (t u : Time) (s : State), NothingWaits s → s.pair.swap = .due u false →
      let a := advance t s
      let next := a.tb.now + 3600 * stepsPerSec - 3600 * swapHours s * stepsPerSec
      exec (.roleSwapFail i t) s = .next
        (if u + 60 * stepsPerSec ≤ a.tb.now then
          sticky 3 8 (tally 0x0A05 [0, 0] { a with pair := { s.pair with swap := .idle, swapFrom := next } })
        else a)) ∧
    (∀ (i : IlkInputs) (t u : Time) (b : Bool) (r : Nat) (s : State), NothingWaits s → paired s = true →
      s.pair.swap = .handed u b r → s.pair.token = false → s.glb.running = true → s.glb.frozen = false →
      s.glb.sheaf = r + 2 → bothClaim (ilkClasses s s.glb.sheaf i) = false →
      ∃ f, exec (.roleSwapFail i t) s = .next f ∧ f.pair.swap = .idle ∧
        (f.pair.token = true ↔ bothRelease (ilkClasses s s.glb.sheaf i) = true ∧ protecting s = true) ∧
        f.cfg = s.cfg ∧ f.zones = s.zones ∧ f.wires = s.wires ∧ f.store = s.store ∧ f.glb = s.glb) ∧
    (∀ (e : Inflight) (s : State), s.bells = [] → s.pf0.inflight = [e] → e.stage = .awaitPartner → e.opcode = 0x0702 →
      e.remote = false → e.flags = 0 → e.engineSeq = 0 → s.power.online = true → paired s = true → s.pair.token = true →
      s.pair.inStep = true → s.pair.swap = .idle → protecting s = true →
      ∃ f, exec (.pairCommandAck e.slot none) s = .next f ∧ f.pair.swap = .due s.tb.now true ∧
        f.pf0.inflight = [{ e with engineSeq := s.store.engineSeq + 1, stage := .swapping }] ∧
        f.pf0.nextSeq = e.hostSeq + 1 ∧ f.store.engineSeq = s.store.engineSeq + 1 ∧ f.cfg = s.cfg ∧ f.zones = s.zones ∧
        f.pf1 = s.pf1 ∧ f.wires = s.wires)

/-- R294 and R337 on both engines. -/
def Obligations.PairCommandsReachBothEngines : Prop :=
  (∀ (c : Submit) (op : Half) (q : Quad) (g : Nat) (s : State), s.bells = [] → s.pf0.inflight = [] → paired s = true →
    s.power.online = true → s.power.pfail = false → s.pair.token = false →
    (anyMirror s = true → hasCompletion s .pf0 c.hostSeq = false → partnerFlag c.flags = false →
      ∀ r, commandSpec op = some r → r.mirrored = false →
      exec (.pairCommandMirror c op q g none) s = .next { s with
        hostMem := writtenMem c r.desc s.hostMem
        store := { s.store with engineSeq := if s.store.engineSeq < q then q else s.store.engineSeq }
        pf0 := { s.pf0 with
          nextSeq := c.hostSeq + 1
          inflight := [⟨c.slot, op, c.flags, c.hostSeq, slice c.payload 0 r.len, q, .atPartner, true, false⟩] } }) ∧
      (∀ d : PairDone, s.pf0.nextSeq.toNat ≤ c.hostSeq.toNat + 64 →
        ∃ t, exec (.pairCommandMirror c op q g (some d)) s = .next t ∧ t = { s with pf0 := { s.pf0 with
          completed := t.pf0.completed } } ∧
          t.pf0.completed.head? = some ⟨c.hostSeq, op, d.status, d.cflags, q, d.result⟩)) ∧
    (∀ (e : Inflight) (s : State), s.bells = [] → s.pf0.inflight = [e] → e.stage = .awaitPartner → e.opcode = 0x0404 →
      e.remote = false → e.flags = 0 → e.engineSeq = 0 → s.power.online = true → paired s = true → s.pair.token = true →
      protecting s = true → s.cfg.changes = [] → thresherWorks s = true → leAt e.payload 0 1 ≤ 7 →
      tgEnabled (tgWords s.cfg.package (leAt e.payload 0 1)) = true →
      let a := if s.pair.alone then s else tally 0x0A01 [e.hostSeq] s
      let j := s.glb.sheaf + 3
      ∃ t, exec (.pairAckTimeout e.slot) s = .next t ∧
        t = { withChange j .pf0 e (.manual (leAt e.payload 0 1)) a with
          pair := { s.pair with alone := true, inStep := false, agreeing := 0 }
          store := { s.store with engineSeq := s.store.engineSeq + 1 }, trace := t.trace, pf0 := t.pf0 } ∧
        t.pf0.nextSeq = e.hostSeq + 1 ∧
        t.pf0.inflight = [{ e with engineSeq := s.store.engineSeq + 1, stage := .awaitBoundary j }])
/-- Line-differential events of R164 to R177. -/
def Obligations.LineDifferentialChannel : Prop :=
  (∀ (f : Frame) (s : State), nextServed s ≠ some (f.port, f) → exec (.ldfFrameRx f) s = .next s) ∧
  (∀ (f : Frame) (m : LdfMsg) (s : State), f.body = .ldf m → nextServed s = some (f.port, f) →
    let a := served f s
    (f.etherType ≠ 0x88B5#16 ∨ (∀ e ∈ ldEntries s.cfg.package,
        ldfPath s.cfg.package e.2 f = none ∨ ldfAccepts a e.2 (ldfOf s e.1) f m = false) →
      exec (.ldfFrameRx f) s = .next (count 168 1 a)) ∧
      (∀ d ws p, f.etherType = 0x88B5#16 → ldEntries s.cfg.package = [(d, ws)] →
        ldfPath s.cfg.package ws f = some p → ldfAccepts a ws (ldfOf s d) f m = true →
        ∃ t, exec (.ldfFrameRx f) s = .next t ∧
          let x := termOf (ldfOf t d) m.term
          x.lastSeq = some m.frameSeq ∧ x.lastIn = some f.tArr ∧ x.timeValid = m.timeValid ∧
            (m.key = true → x.lastDecoded = some m.frameSeq ∧ x.lost = none) ∧
            FMap.get t.cnt 0 169 = FMap.get s.cnt 0 169 + (match (termOf (ldfOf s d) m.term).lastSeq with
              | some q => (seqDiff m.frameSeq q - 1).toNat
              | none => 0) ∧
            t.cfg = s.cfg ∧ t.zones = s.zones ∧ t.wires = s.wires ∧ t.pf0 = s.pf0 ∧ t.pf1 = s.pf1 ∧ t.samp = s.samp)) ∧
    (∀ (d r : Nat) (t : Time) (s : State),
      let a := advance t s
      let ws := ldfWords s.cfg.package d
      let x := ldfOf s d
      let m := termOf x r
      exec (.ldfChannelLoss d r t) s = .next
        (if m.lost = none ∧ ldEnabled ws = true ∧ r ∈ remotes ws ∧ msSteps (ldLossMs ws) ≤ t - m.lastIn.getD x.since then
          sticky 1 11 (tally 0x0604 [item d, item r, 0, 0]
            (setLdf d { setTerm r { m with
              lost := some t, rtts := [], dIns := [], dOuts := [], lastDecoded := none, refill := true } x with
              blocked := true } a))
        else a)) ∧
    (∀ (d : Nat) (t : Time) (s : State),
      let ws := ldfWords s.cfg.package d
      ∃ u, exec (.ldfHoldoffEnd d t) s = .next u ∧
        u = { advance t s with ldf := u.ldf } ∧
        (∀ r ∈ remotes ws, termOf (ldfOf u d) r =
          (match (termOf (ldfOf s d) r).holdoff with
            | some h => if h ≤ t ∧ settledEight ws (termOf (ldfOf s d) r).postStep = true then
                { termOf (ldfOf s d) r with holdoff := none, suspectSince := none, postStep := [] }
              else termOf (ldfOf s d) r
            | none => termOf (ldfOf s d) r)) ∧
        (ldfOf u d).blocked = (decide (8 ≤ (ldfOf s d).stalled) ||
          (remotes ws).any (fun r => termBlocks (termOf (ldfOf u d) r)))) ∧
    (∀ (d : Nat) (s : State), exec (.ldfAlignTimeout d) s = .next
      (if ldEnabled (ldfWords s.cfg.package d) = true ∧ 8 ≤ (ldfOf s d).stalled then
        setLdf d { ldfOf s d with blocked := true } s else s))

/-- Dovetail of R137, R230 and R282. -/
def Obligations.DovetailCarriesSamples : Prop :=
  ∀ (port src slot m : Nat) (v : Int) (q : Word) (s : State),
    (FMap.get s.dovetail false port = false ∨ acceptsSheaf s (m / 3) = false →
      exec (.dovetailSampleRx port src slot m v q) s = .next s) ∧
      (∀ e, FMap.get s.dovetail false port = true → acceptsSheaf s (m / 3) = true → armedPackage s = none →
        dvtMatches s.cfg.package port src slot = [e] →
        exec (.dovetailSampleRx port src slot m v q) s = .next
          (if dsRate e.2 = 1 ∧ m % 3 ≠ 0 ∨ storesFor s false (dsLocal e.2) (m / 3) = false then s
          else storeSample (dsLocal e.2) m ⟨v, q⟩ s)) ∧
      (FMap.get s.dovetail false port = false → exec (.crossTriggerRx port src slot m) s = .next s) ∧
      (FMap.get s.dovetail false port = true →
        (s.glb.running = false ∨ s.glb.cur ≤ m / 3 + 1 → exec (.crossTriggerRx port src slot m) s = .next
          { s with thr := { s.thr with cross := s.thr.cross ++ [⟨src, slot, m, m / 3 + 1⟩] } }) ∧
          (s.glb.running = true → m / 3 + 1 < s.glb.cur → exec (.crossTriggerRx port src slot m) s = .next
            (count 179 1 { s with thr := { s.thr with cross := s.thr.cross ++ [⟨src, slot, m, s.glb.cur⟩] } }))) ∧
      (∀ up : Bool,
        (FMap.get s.dovetail false port = up → exec (.dovetailLinkChange port up) s = .next s) ∧
          (FMap.get s.dovetail false port ≠ up →
            let a := { s with dovetail := FMap.set s.dovetail port up }
            (dvtConfigured s.cfg.package port = false → paired s = false →
              exec (.dovetailLinkChange port up) s = .next a) ∧
              (dvtConfigured s.cfg.package port = true →
                exec (.dovetailLinkChange port up) s = .next
                  (if up then tally 0x0A07 [item port, 1] a else sticky 3 14 (tally 0x0A07 [item port, 0] a)))))

/-- The Tally writer of R276 to R280. -/
def Obligations.TallyEntriesAreAccepted : Prop :=
  ∀ (e : TallyEvent) (rest : List TallyEvent) (s : State), s.glb.gstate ≠ .halted →
    (∀ a b, s.tally.queue = [] → exec (.tallyEntryWritten a b) s = .next s) ∧
      (s.tally.queue = e :: rest →
        (∀ a b, e.filled = false ∨ s.power.inReset = true ∨ (s.power.pfail = true ∧ s.power.lastEntry = false) →
          exec (.tallyEntryWritten a b) s = .next s) ∧
          (e.filled = true → s.power.inReset = false → s.power.pfail = false ∨ s.power.lastEntry = true →
            let n := s.tally.nextSeq
            let p := if s.power.pfail then { s.power with lastEntry := false } else s.power
            (anyMirror s = true → e.event ≠ evStoreFailover → (∀ t ∈ s.tally.log, t.seq ≠ n + 1) → s.tally.drops.count = 0 →
              ∃ t, exec (.tallyEntryWritten false false) s = .next t ∧ t = { s with
                power := p, trace := t.trace
                tally := { s.tally with
                  single := if s.store.norA && s.store.norB then s.tally.single else n :: s.tally.single
                  queue := rest, log := (insertEntry ⟨e, n, 0, 0⟩ s.tally.log).take tallyKept, nextSeq := n + 1 } }) ∧
              (s.store.norA = true → s.store.norB = true → s.glb.running = true → s.tally.drops.count = 0 →
                ∃ h, exec (.tallyEntryWritten true false) s = .next { s with
                  power := p
                  store := { s.store with norA := false }
                  stk := { s.stk with sets := modAt (fun w => setBit w 5) 2 s.stk.sets }
                  tally := { s.tally with queue := h :: e :: rest } } ∧
                  h.event = evStoreFailover ∧ h.detail = [0, n] ∧ h.filled = false) ∧
              (anyMirror s = false → rest = [] → s.tally.drops.count = 0 →
                ∃ t, exec (.tallyEntryWritten false false) s = .next t ∧ t.tally.queue = [] ∧ t.tally.log = s.tally.log ∧
                  t.tally.nextSeq = n ∧ t.tally.nextRing = s.tally.nextRing + 1 ∧
                  t.tally.ring = (⟨e, 0xFFFFFFFFFFFFFFFF, 4, BitVec.ofNat 32 s.tally.nextRing⟩ :: s.tally.ring).take 64 ∧
                  t = { s with power := p, tally := t.tally, cnt := t.cnt } ∧
                  (s.tally.ring.length < 64 → t.cnt = s.cnt))))

/-- The retained log of R375 and R376; that the log advances by 8 bytes a delta is the model's reading (log 48). -/
def Obligations.RetainedLogAndFlush : Prop :=
  ∀ s : State,
    let d := s.store.retainedPending
    let image := mergeRetained d s.store.retainedImage
    let adv := s.store.retainedAdvance + 8 * d.length
    (d = [] ∨ anyMirror s = false ∨ s.power.inReset = true ∨ s.power.pfail = true →
      exec .retainedBatchWritten s = .next s) ∧
      (d ≠ [] → anyMirror s = true → s.power.inReset = false → s.power.pfail = false →
        exec .retainedBatchWritten s = .next { s with store := { s.store with
          retainedImage := image, retainedSheaf := s.store.pendingSheaf, retainedPending := []
          retainedAdvance := if 524288 ≤ adv then 0 else adv
          retainedDigest := if 524288 ≤ adv then programDigest s else s.store.retainedDigest } }) ∧
      (∀ k ops (l : List (Nat × Word × Half)), s.store.flush = some (k, ops, l) → s.power.inReset = false →
        anyMirror s = true →
        let m := { s.store with
          opsecStored := ops, flush := none
          flushMarker := some (k, ops, l.length, s.tally.nextSeq.toNat + s.tally.queue.length,
            s.granary.nextNo + unaccepted s) }
        (128 < l.length → exec .flushMarkerVerified s = .next { s with store := m }) ∧
          (l.length ≤ 128 → exec .flushMarkerVerified s = .next { s with store := { m with
            retainedImage := mergeRetained l s.store.retainedImage, retainedSheaf := k
            retainedPending := s.store.retainedPending.filter (fun x => !l.contains x) } })) ∧
      (s.store.flush = none ∨ s.power.inReset = true ∨ anyMirror s = false → exec .flushMarkerVerified s = .next s)

/-- R377: the stored value stands for the copies in the NOR mirrors. -/
def Obligations.OperatingSeconds : Prop :=
  (∀ s : State, s.power.powered = true → s.power.inReset = false → anyMirror s = true →
    s.glb.opsec.toNat / 64 = s.store.opsecStored.toNat / 64 →
    ∃ t, exec .opsecTick s = .next t ∧ t.glb.opsec = s.glb.opsec + 1 ∧
      t.glb.opsec.toNat / 64 = t.store.opsecStored.toNat / 64 ∧
      (t.glb.opsec.toNat % 64 = 0 → t.store.opsecStored = t.glb.opsec) ∧
      t = { s with glb := { s.glb with opsec := t.glb.opsec }, store := { s.store with opsecStored := t.store.opsecStored } }) ∧
    (∀ s : State, s.power.powered = true → s.power.pfail = false → s.power.inReset = false → s.power.online = true →
      ∃ t, exec .pfailNAssert s = .next t ∧ t.store.flush = some (s.store.pendingSheaf, s.glb.opsec, s.store.retainedPending)) ∧
    (∀ (k : Nat) (ops : Word) (d : List (Nat × Word × Half)) (s : State), s.store.flush = some (k, ops, d) →
      s.power.inReset = false → anyMirror s = true →
      ∃ t, exec .flushMarkerVerified s = .next t ∧ t.store.opsecStored = ops) ∧
    (∀ (f : StartFindings) (s : State), ∃ t, exec (.powerUp f) s = .next t ∧ t.glb.opsec = s.store.opsecStored ∧
      t.glb.pwrcyc = s.glb.pwrcyc + 1 ∧ t.power.online = false) ∧
    (∀ (f : StartFindings) (s : State), s.power.powered = true → s.power.inReset = true → s.power.longHold = true →
      ∃ t, exec (.rstNRelease false f) s = .next t ∧ t.glb.opsec = s.glb.opsec ∧ t.glb.pwrcyc = s.glb.pwrcyc)

/-- R14; an instant is a whole number of steps of 156.25 ps, 6,400,000,000 to the second. -/
def Obligations.SheafNumbersOfInstants : Prop :=
  (∀ k : Nat, 2 * (3 * sheafEnd k - ((k : Int) + 1) * 4000000).natAbs ≤ 3) ∧
    (∀ t : Time, 0 ≤ t →
      t < sheafEnd (sheafOf t) ∧ (sheafOf t = 0 ∨ sheafEnd (sheafOf t - 1) ≤ t) ∧
        (∀ k : Nat, t < sheafEnd k → (k = 0 ∨ sheafEnd (k - 1) ≤ t) → k = sheafOf t) ∧
        ((sheafOf t : Int) = 3 * t / 4000000 ∨ ∃ k : Nat, 2 * (3 * t - ((k : Int) + 1) * 4000000).natAbs < 3) ∧
        10240 * (t - stepsPerSec * secOf t) = 65536 * nsOf t + fracOf t ∧ nsOf t < 1000000000 ∧ fracOf t < 65536) ∧
    (∀ (i : IlkInputs) (a : List Nat) (b : Bool) (s : State), s.glb.running = true → s.glb.frozen = true →
      ∃ t, exec (.commitInstant i a b) s = .next t ∧ t.glb.sheaf = s.glb.cur) ∧
    (∀ (v : View) (s : State), s.glb.sheaf < 18446744073709551616 →
      (liveWord s v 0x30).toNat + 4294967296 * (liveWord s v 0x34).toNat = s.glb.sheaf)

/-- The record writer of R260 to R262. -/
def Obligations.RecordsArePersisted : Prop :=
  (∀ (r : Rec) (rest : List Rec) (w : Word) (s : State), s.granary.closed = r :: rest → s.granary.walked = true →
    s.power.pfail = false ∨ s.power.lastSeal = true → s.power.inReset = false → emmcBusy s = false →
    logUsed s + (r.body.length + 4096) ≤ s.granary.capacity →
    let no := s.granary.nextNo
    let b := if s.power.pfail then { s with power := { s.power with lastSeal := false } } else s
    let done := { b with
      granary := { s.granary with
        closed := rest, lastNo := no, nextNo := no + 1, failures := 0, slow := false
        stored := s.granary.stored ++ [⟨no, r.triggerM, r.flags, r.cause, r.primary, r.body, sealOf s no r⟩] }
      store := { s.store with emmcFailed := s.store.emmcFailed && !s.granary.slow } }
    let failed := { b with granary := { s.granary with failures := s.granary.failures + 1 } }
    (s.granary.failures < 2 →
      exec (.recordPersisted true false w) s = .next (postEvent 0x0E04 (BitVec.ofNat 64 no) done) ∧
        (∀ b, exec (.granaryStoreRetry b false w) s = .next s) ∧
        exec (.recordPersisted false false w) s = .next
          (if s.granary.failures = 1 then sticky 2 3 (tally 0x0904 [item no, 0, w.zeroExtend 64] failed) else failed) ∧
        (s.granary.failures = 0 → s.granary.slow = false → exec (.recordPersisted true true w) s = .next
          (sticky 2 4 (tally 0x0904 [item no, 1, w.zeroExtend 64]
            { failed with
              granary := { failed.granary with slow := true }, store := { s.store with emmcFailed := true } })))) ∧
      (2 ≤ s.granary.failures → exec (.granaryStoreRetry true false w) s = .next
        (postEvent 0x0E04 (BitVec.ofNat 64 no) (tally 0x0904 [item no, 2, w.zeroExtend 64] done)))) ∧
    (∀ (a b : Bool) (w : Word) (s : State), s.power.pfail = true → s.power.lastSeal = false →
      exec (.recordPersisted a b w) s = .next s ∧ exec (.granaryStoreRetry a b w) s = .next s) ∧
    (∀ s : State, (s.granary.walked = true → exec .granaryWalk s = .next s) ∧
      (s.granary.walked = false →
        let found := walkFrom s (superInForce s).headNo s.granary.stored
        let last := max ((found.getLast?.map (fun r => r.no)).getD 0) s.granary.releasedThrough
        exec .granaryWalk s = .next { s with granary := { s.granary with
          walked := true, stored := found, lastNo := last, nextNo := last + 1, badSeals := [] } }) ∧
        (∃ n, walkFrom s (superInForce s).headNo s.granary.stored = s.granary.stored.take n ∧
          (∀ i < n, ∀ r, s.granary.stored[i]? = some r → sealGood s ((superInForce s).headNo + i) r = true) ∧
          (∀ r, s.granary.stored[n]? = some r → sealGood s ((superInForce s).headNo + n) r = false)))

/-- DDR errors of R249 and R282. -/
def Obligations.DdrErrorsLoseOnlyHitRecords : Prop :=
  ∀ (n : Nat) (hit : List Nat) (s : State),
    (∀ o h, exec (.ddrError true o h) s = .next (sticky 2 0 (count 185 1 s))) ∧
      (∃ t, exec (.ddrError false none hit) s = .next t ∧
        t.granary.opened = s.granary.opened.filter (fun r => !hit.contains r.openNo) ∧
        t.granary.closed = s.granary.closed.filter (fun r => !hit.contains r.openNo) ∧
        t.granary.shrunk = s.granary.shrunk ∧ t.granary.stored = s.granary.stored ∧ t.granary.nextNo = s.granary.nextNo ∧
        t.cfg = s.cfg ∧ t.zones = s.zones ∧ t.insts = s.insts ∧ t.logic = s.logic ∧ t.wires = s.wires ∧ t.pf0 = s.pf0 ∧
        t.pf1 = s.pf1 ∧ FMap.get t.cnt 0 186 = FMap.get s.cnt 0 186 + 1 ∧
        (s.glb.running = true → s.stk.sets.length = 4 → bit (regAt t.stk.sets 2) 1 = true)) ∧
      ∃ t, exec (.ddrError false (some n) hit) s = .next t ∧
        (∀ r ∈ t.granary.opened ++ t.granary.closed, r.openNo ∉ hit) ∧
        (∃ m, t.granary.shrunk = some m ∧ m ≤ n ∧ ∀ k, s.granary.shrunk = some k → m ≤ k) ∧
        t.granary.stored = s.granary.stored ∧ t.granary.nextNo = s.granary.nextNo ∧ t.cfg = s.cfg ∧ t.zones = s.zones ∧
        t.insts = s.insts ∧ t.logic = s.logic ∧ t.wires = s.wires ∧ t.pf0 = s.pf0 ∧ t.pf1 = s.pf1 ∧
        FMap.get t.cnt 0 186 = FMap.get s.cnt 0 186 + 1 ∧
        (s.glb.running = true → s.stk.sets.length = 4 → bit (regAt t.stk.sets 2) 1 = true)

/-- Supervisor restarts of R373 and R374 and the mailbox's return of R354. -/
def Obligations.SupervisorRestarts : Prop :=
  (∀ (i : FaultItems) (u : Time) (s : State),
    let a := advance u s
    (mayRestart s = false → ∀ c ∈ [Instr.watchdogExpiry u, .supervisorMemoryError u, .supervisorFatalError i u],
      exec c s = .next s) ∧
      (mayRestart s = true → ∀ c ∈ [Instr.watchdogExpiry u, .supervisorMemoryError u, .supervisorFatalError i u],
        ∃ t, exec c s = .next t ∧ t.power.online = false ∧ t.bist.sessionKeys = false ∧
          FMap.get t.cnt 0 187 = FMap.get s.cnt 0 187 + 1 ∧
          t.power.restarts = a.tb.now :: recentRestarts a ∧
          (t.power.parked = true ↔ 4 ≤ (recentRestarts a).length ∨ (slotFault s s.trust.running).isSome = true) ∧
          (s.glb.running = true → s.stk.sets.length = 4 → bit (regAt t.stk.sets 3) 1 = true) ∧
          (c = .supervisorFatalError i u → ∃ d, t.dumpBusy = some d ∧ d.cause = 1) ∧
          (c ≠ .supervisorFatalError i u → t.dumpBusy = none) ∧
          t.glb = { s.glb with free := t.glb.free } ∧ t.cfg = s.cfg ∧ t.samp = s.samp ∧ t.ing = s.ing ∧ t.tb = a.tb ∧
          t.zones = s.zones ∧ t.insts = s.insts ∧ t.logic = s.logic ∧ t.wires = s.wires ∧ t.granary = s.granary ∧
          t.store = s.store ∧ t.trust = s.trust ∧ t.pf0.inflight = s.pf0.inflight)) ∧
    (∀ s : State,
      (s.power.online = true ∨ s.power.parked = true → exec .mailboxReturn s = .next s) ∧
        (s.power.online = false → s.power.parked = false → s.power.inReset = false → s.glb.gstate ≠ .test →
          s.pf0.inflight = [] → s.pf1.inflight = [] → s.bells = [] → s.power.heldEvents = [] →
          exec .mailboxReturn s = .next (together (fun s =>
            postEvent 0x0E05 (BitVec.ofNat 64 (FMap.get s.cnt 0 187))
              (let t := setOnline true s
              if zeroised s = true ∨ chainShifts s = true ∨ s.bist.scanEnd.isSome = true then t
              else { t with bist := { s.bist with sessionKeys := true } })) s)))
/-- Starts of R365 to R371. -/
def Obligations.StartsKeepTheirState : Prop :=
  ∀ (f : StartFindings) (s : State),
    let g := (governed f s).trust
    let active := f.slotPasses[g.activeSlot]? = some true ∧ slotFault (governed f s) g.activeSlot = none
    let sameBg := (g.slotBg[g.activeSlot]?).getD 0 = runningBg s
    let warm (t : State) : Prop := t.glb.gstate = .boot ∧ t.power.booting = true ∧ t.power.inReset = false ∧
      t.power.startKind = 2 ∧ t.trust.running = g.activeSlot ∧
      (sameBg → f.ddrDigestOk = true ∨ s.cfg.package = none → t.cfg.package = s.cfg.package ∧ t.logic.program = s.logic.program) ∧
      (¬ sameBg → t.cfg.package = none ∧ t.logic.program = none) ∧ t.tb = s.tb ∧ t.glb.opsec = s.glb.opsec ∧ t.glb.pwrcyc = s.glb.pwrcyc ∧
      t.granary.stored = s.granary.stored ∧ t.hostMem = s.hostMem ∧ t.logic.forces = [] ∧
      (∀ n w, (n, w) ∈ t.wires → w.toggling = false)
    (∃ t, exec (.powerUp f) s = .next t ∧ t.power.inReset = false ∧ t.power.powered = true ∧ t.power.online = false ∧
      t.glb.running = false ∧ t.pair.token = false ∧ t.tb.now = 0 ∧
      t.logic.forces = [] ∧ (∀ n w, (n, w) ∈ t.wires → w.toggling = false) ∧ t.granary.stored = s.granary.stored ∧
      t.hostMem = s.hostMem ∧ t.cfg.package = none ∧
      (f.testEn = true → t.glb.gstate = .test ∧ t.bist.identityKey = false ∧ t.bist.settingsKey = false ∧
        t.bist.sessionKeys = false) ∧
      (f.testEn = false → (t.glb.gstate = .boot ∨ t.glb.gstate = .halted) ∧
        ((∀ n : Nat, f.slotPasses[n]? ≠ some true) → t.power.parked = true ∧ t.glb.gstate = .boot) ∧
        (active → t.power.parked = false ∧ t.trust.running = g.activeSlot))) ∧
      (s.power.powered = true → s.power.inReset = true → s.power.longHold = false → s.power.haltedForGood = false →
        s.power.fromHalted = false ∨ f.failedBlocks = [] ∧ f.aborts = [] →
        active → s.glb.gstate = .boot → ∃ t, exec (.rstNRelease false f) s = .next t ∧ warm t) ∧
      (s.trust.activationDue = true → s.power.inReset = false → s.power.haltedForGood = false → s.glb.gstate ≠ .halted →
        s.glb.gstate ≠ .test → active → ∃ t, exec (.activationWarmRestart f) s = .next t ∧ warm t ∧ t.trust.activationDue = false) ∧
      (s.power.powered = true → s.power.inReset = true → ∃ t, exec (.rstNRelease true f) s = .next t ∧
        t.glb.gstate = .test ∧ t.power.inReset = false ∧ t.bist.identityKey = false ∧ t.bist.settingsKey = false ∧
        t.bist.sessionKeys = false ∧ bit t.power.latch 2 = true) ∧
      (∀ (k ms : Nat) (levels : List Nat),
        let b := loadConfig s
        (s.power.booting = false → exec (.bootComplete k ms levels) s = .next s) ∧
          (s.power.configDue = none → b = s) ∧
          (∀ (ok : Bool) (kept : List (Nat × Word × Half)) (n : Nat), s.power.configDue = some (ok, kept) →
            s.store.configInForce = some n →
            let copy := if s.store.emmcFailed ∨ ok = false then none
              else loadCopy ((s.store.configCopies[n]?).getD ([], [])) s
            b.power.loadFailed = (copy.isNone || s.power.loadFailed) ∧ b.power.configDue = none ∧
              b.cfg.package = (match copy with
                | some (p, _) => some p
                | none => s.cfg.package) ∧
              b.logic.program = (match copy with
                | some (_, q) => q
                | none => s.logic.program)) ∧
          (s.power.booting = true → ∃ t, exec (.bootComplete k ms levels) s = .next t ∧
            t.glb = { b.glb with
              cur := k, frozen := false, running := true, next := some (firstState b), free := b.glb.free + 1 } ∧
            t.power = { b.power with booting := false, vid := t.power.vid } ∧ t.power.vid ≠ 0xF ∧ t.cfg = b.cfg ∧
            t.wires = s.wires ∧ t.insts = b.insts ∧ t.logic = b.logic ∧ t.store = s.store ∧ t.hostMem = s.hostMem))

/-- Lines of R372, R375 and R413 to R427. -/
def Obligations.ResetAndSupplyLines : Prop :=
  ∀ s : State,
    (s.power.powered = false ∨ s.power.inReset = true → exec .rstNAssert s = .next s) ∧
      (s.power.powered = true → s.power.inReset = false → ∃ t, exec .rstNAssert s = .next t ∧ t.power.inReset = true ∧
        t.power.longHold = false ∧ t.power.online = false ∧ t.power.vid = 0xF ∧ t.glb.gstate = .boot ∧
        t.glb.running = false ∧ t.pair.token = false ∧ t.bells = [] ∧ t.cfg.changes = [] ∧ t.bist.identityKey = false ∧
        t.bist.settingsKey = false ∧ t.bist.sessionKeys = false ∧ (∀ n w, (n, w) ∈ t.wires → w.toggling = false) ∧
        t.cfg.package = s.cfg.package ∧ t.granary = s.granary ∧ t.hostMem = s.hostMem ∧ t.tb = s.tb) ∧
      exec .resetLongHold s = .next (if s.power.inReset then
        { s with power := { s.power with longHold := true, latch := setBit s.power.latch 0 } } else s) ∧
      (s.power.powered = false ∨ s.power.pfail = true → exec .pfailNAssert s = .next s) ∧
      (s.power.powered = true → s.power.pfail = false → s.bist.queue = [] → exec .pfailNAssert s = .next
        (sticky 3 10 { s with
          power := { s.power with
            pfail := true, pfailAt := s.tb.now, lastEntry := true, lastSeal := true, latch := setBit s.power.latch 1 }
          store := { s.store with flush := (
            if s.glb.gstate == .boot && !s.power.online && (s.power.booting || s.power.parked) || s.power.inReset then none
            else some (s.store.pendingSheaf, s.glb.opsec, s.store.retainedPending)) } })) ∧
      (NothingWaits s → s.pf1.inflight = [] → exec .pfailNRelease s = .next
        (if s.power.pfail then { s with
          power := { s.power with pfail := false }, store := { s.store with flush := none, flushMarker := none } }
        else s)) ∧
      (∃ t, exec .supplyOutOfRange s = .next t ∧ driving t = false ∧
        (∀ n w, (n, w) ∈ t.wires → w.toggling = false ∧ w.level = false) ∧
        t = { s with power := { s.power with supplyOk := false }, wires := t.wires }) ∧
      (∀ (mv : Nat) (h : Int), s.power.powered = true → s.bist.queue = [] →
        exec (.vcoreLow mv) s = .next
          (sticky 3 12 (tally 0x0D08 [0, item mv] { s with power := { s.power with vcoreLow := true } })) ∧
          exec (.tempHigh h) s = .next
            (sticky 3 11 (tally 0x0D08 [1, item h] { s with power := { s.power with tempHigh := true } }))) ∧
      (∀ (a b : Nat) (j : Int), ∃ c, exec (.vidStep a b j) s = .next { s with power := { s.power with vid := c } } ∧
        (c.toNat ≤ s.power.vid.toNat + 1 ∧ s.power.vid.toNat ≤ c.toNat + 1) ∧
        (s.power.inReset = true ∨ s.power.vid = 0xF ∨ s.power.pfail = true ∨ scanRuns s = true → c = s.power.vid) ∧
        (s.power.inReset = false → s.power.vid ≠ 0xF → s.power.pfail = false → scanRuns s = false →
          (a < 300 → c.toNat = min 14 (s.power.vid.toNat + 1)) ∧
            (300 ≤ a → 600 < b → j < 1000 → c.toNat = s.power.vid.toNat - 1) ∧
            (300 ≤ a → b ≤ 600 ∨ 1000 ≤ j → c = s.power.vid))) ∧
      (∀ n : Nat,
        let why : Option Quad := if waitsForLock s = false then none
          else if s.tb.state = .locked then some 0
          else if swSeconds s.cfg.package ≠ 0 ∧ swSeconds s.cfg.package ≤ n then some 1 else none
        exec (.lockWaitExpiry n) s = .next (match why with
          | some w => tally 0x0D07 [w, item n] { s with glb := { s.glb with next := some .protecting } }
          | none => s))

/-- Events of R378, R386, R394, R400. -/
def Obligations.TrustEvents : Prop :=
  idcode = 0x10160A6B#32 ∧
    (∀ (light : Bool) (s : State),
      let l := setBit s.power.latch 3
      let report := { s.trust with tamperReport := s.trust.tamperReport ++ [(if light then 0 else 1, s.trust.zeroiseOnTamper)] }
      exec (.tamperDetect light) s = .next
        (if s.trust.zeroiseOnTamper then { s with
          power := { s.power with latch := setBit l 4 }, trust := report
          bist := { s.bist with identityKey := false, sessionKeys := false } }
        else { s with power := { s.power with latch := l }, trust := report })) ∧
    (∀ (code : Byte) (s : State), exec (.tapInstruction code) s = .next { s with power := { s.power with tap :=
      if code = 0x01 then 0x01
      else if s.glb.gstate = .test ∧ code = 0x00 then 0x00
      else if s.glb.gstate = .test ∧ code = 0x02 then 0x02 else 0xFF } }) ∧
    (∀ s : State, ∃ t, exec .backupLatchPowerLoss s = .next t ∧ field t.power.latch 31 24 ≠ 0xA5 ∧
      t = { s with glb := { s.glb with free := s.glb.free + 1 }, power := { s.power with latch := t.power.latch } }) ∧
    (∀ (e : Inflight) (s : State), s.bells = [] → s.pf0.inflight = [e] → e.opcode = 0x0901 → e.resumed = true →
      e.stage = .running → e.remote = false → e.engineSeq ≠ 0 → paired s = false → s.power.linkUp = true →
      s.pf0.d3hot = false → s.pf0.held = [] → ringUsed s.pf0 < 256 → s.pf0.busMaster = false → s.power.online = true →
      s.trust.installResumed = true →
      ∃ t, exec .installResumeTimeout s = .next t ∧ posted .pf0 e.slot e.hostSeq 0x0109 2 e.engineSeq [] s t ∧
        t.pf0.inflight = [] ∧ t.trust.install = none ∧ t.trust.installResumed = false ∧
        (∀ n, s.trust.slotState[otherSlot s]? = some n → t.trust.slotState[otherSlot s]? = some 0) ∧
        t = { s with pf0 := t.pf0, trust := t.trust, trace := t.trace })
/-- The invariant of StepKeepsInvariant at reset (R218, R293, R365). -/
def Obligations.ResetMeetsInvariant : Prop := Invariant State.reset

/-- The engine's safety invariant, kept by every command (R218, R293, R297, R365, R413). -/
def Obligations.StepKeepsInvariant : Prop :=
  ∀ s t : State, Invariant s → step s = .next t → Invariant t
end

