-- ==== Sys2Proof/Laws/Core.lean ====
section
/-!
SUPPORT. The core of a state: the parts that few commands change (waiting commands, host memory, trip wires, token, engine state,
commit numbers, ZST). Each operation of the model that leaves them alone has a lemma core_<operation> in CoreTime,
CoreZones or CoreEngine, so that no proof about them unfolds it.
-/
set_option linter.all false

namespace Sys2Proof.Machine

structure Core where
  pending : List Instr
  mem : List Host.Cell
  wires : FMap Wire
  token : Bool
  releasing : Bool
  c0 : Word
  gstate : GState
  running : Bool
  sheaf : Nat
  cur : Nat
  frozen : Bool
  supplyOk : Bool
  step : Option Int
  zst : FMap (List Word)
  zstHidden : FMap (List Word)

def core (s : State) : Core :=
  ⟨s.pending, s.hostMem, s.wires, s.pair.token, s.pair.releaseDriven, s.pair.c0, s.glb.gstate, s.glb.running,
      s.glb.sheaf, s.glb.cur, s.glb.frozen,
    s.power.supplyOk, s.tb.step, s.zst, s.zstHidden⟩

theorem core_parts (s : State) :
    s.pending = (core s).pending ∧ s.hostMem = (core s).mem ∧ s.wires = (core s).wires ∧ s.pair.token = (core s).token ∧
      s.pair.releaseDriven = (core s).releasing ∧ s.pair.c0 = (core s).c0 ∧ s.glb.gstate = (core s).gstate ∧ s.glb.running = (core s).running ∧
      s.glb.sheaf = (core s).sheaf ∧ s.glb.cur = (core s).cur ∧ s.glb.frozen = (core s).frozen ∧
      s.power.supplyOk = (core s).supplyOk ∧ s.tb.step = (core s).step ∧ s.zst = (core s).zst ∧
      s.zstHidden = (core s).zstHidden := by
  refine ⟨rfl, rfl, rfl, rfl, rfl, rfl, rfl, rfl, rfl, rfl, rfl, rfl, rfl, rfl, rfl⟩

theorem core_mk v_pending v_pf0 v_pf1 v_bells v_glb v_stk v_cnt v_cfg v_samp v_ing v_tb v_ldf v_dovetail v_zones
    v_tenon v_insts v_results v_logic v_wires v_bi v_thr v_lanes v_pair v_tally v_granary v_bist v_dumpDdr v_dumpEmmc
        v_dumpBusy v_zst v_zstHidden v_dumpNo v_trust v_store v_power v_trace v_sent v_hostMem :
    core (State.mk v_pending v_pf0 v_pf1 v_bells v_glb v_stk v_cnt v_cfg v_samp v_ing v_tb v_ldf v_dovetail v_zones
        v_tenon v_insts v_results v_logic v_wires v_bi v_thr v_lanes v_pair v_tally v_granary v_bist v_dumpDdr
            v_dumpEmmc v_dumpBusy v_zst v_zstHidden v_dumpNo v_trust v_store v_power v_trace v_sent v_hostMem) =
                ⟨v_pending, v_hostMem, v_wires, v_pair.token, v_pair.releaseDriven, v_pair.c0, v_glb.gstate, v_glb.running, v_glb.sheaf,
                    v_glb.cur, v_glb.frozen, v_power.supplyOk, v_tb.step, v_zst, v_zstHidden⟩ := rfl

theorem core_foldl {α : Type} (f : State → α → State) (h : ∀ s a, core (f s a) = core s) (l : List α) (s : State) :
    core (l.foldl f s) = core s := by
  induction l generalizing s with
  | nil => rfl
  | cons a l ih => exact (ih _).trans (h s a)

theorem core_view (v : View) (s : State) (x : ViewState) : core (s.setView v x) = core s := by cases v <;> rfl

theorem core_foldl_snd {α β : Type} (f : β × State → α → β × State) (h : ∀ b s a, core (f (b, s) a).2 = core s) (l :
    List α)
    (x : β × State) : core (l.foldl f x).2 = core x.2 := by
  induction l generalizing x with
  | nil => rfl
  | cons a l ih => exact (ih _).trans (h x.1 x.2 a)

theorem core_foldl_thd {α β γ : Type} (f : β × γ × State → α → β × γ × State)
    (h : ∀ b c s a, core (f (b, c, s) a).2.2 = core s) (l : List α) (x : β × γ × State) :
    core (l.foldl f x).2.2 = core x.2.2 := by
  induction l generalizing x with
  | nil => rfl
  | cons a l ih => exact (ih _).trans (h x.1 x.2.1 x.2.2 a)

/-- Without host memory and C0 of PAIR_CONFIG: the part that no command on its way changes. -/
def Core.calm (c : Core) : Core := { c with mem := [], c0 := 0 }
def Core.noStep (c : Core) : Core := { c with step := none }
def Core.noWires (c : Core) : Core := { c with wires := [] }
def Core.noToken (c : Core) : Core := { c with wires := [], token := false, releasing := false }

end Sys2Proof.Machine
end

