-- ==== Sys2Proof/Laws/CoreTime.lean ====
section
/-!
SUPPORT. The core is kept: shared operations, sampling, ingest, timebase, line differential.
-/
set_option linter.all false

namespace Sys2Proof.Machine

theorem core_count (i : ℕ) (n : ℕ) (s : State) :
    core (count i n s) = core s := by
  unfold count
  repeat' (first
    | with_reducible rfl
    | simp only [core_mk, core_parts, core_view, apply_ite core, ite_self]
    | split
    | (refine (core_foldl _ (fun s a => ?_) _ _).trans ?_)
    | rfl)

theorem core_sticky (r : ℕ) (b : ℕ) (s : State) :
    core (sticky r b s) = core s := by
  unfold sticky
  repeat' (first
    | with_reducible rfl
    | simp only [core_mk, core_parts, core_view, apply_ite core, ite_self]
    | split
    | (refine (core_foldl _ (fun s a => ?_) _ _).trans ?_)
    | rfl)

theorem core_advance (t : Time) (s : State) :
    core (advance t s) = core s := by
  unfold advance
  repeat' (first
    | with_reducible rfl
    | simp only [core_mk, core_parts, core_view, apply_ite core, ite_self]
    | split
    | (refine (core_foldl _ (fun s a => ?_) _ _).trans ?_)
    | rfl)

theorem core_dropEvent (s : State) :
    core (dropEvent s) = core s := by
  unfold dropEvent
  repeat' (first
    | with_reducible rfl
    | simp only [core_mk, core_parts, core_view, apply_ite core, ite_self, core_count, core_sticky]
    | split
    | (refine (core_foldl _ (fun s a => ?_) _ _).trans ?_)
    | rfl)

theorem core_tally (event : Half) (detail : List Quad) (s : State) :
    core (tally event detail s) = core s := by
  unfold tally
  repeat' (first
    | with_reducible rfl
    | simp only [core_mk, core_parts, core_view, apply_ite core, ite_self, core_dropEvent]
    | split
    | (refine (core_foldl _ (fun s a => ?_) _ _).trans ?_)
    | rfl)

theorem core_dropSummary (s : State) :
    core (dropSummary s) = core s := by
  unfold dropSummary
  repeat' (first
    | with_reducible rfl
    | simp only [core_mk, core_parts, core_view, apply_ite core, ite_self, core_count, core_tally]
    | split
    | (refine (core_foldl _ (fun s a => ?_) _ _).trans ?_)
    | rfl)

theorem core_State_setView (s : State) (v : View) (x2 : ViewState) :
    core (State.setView s v x2) = core s := by
  unfold State.setView
  repeat' (first
    | with_reducible rfl
    | simp only [core_mk, core_parts, core_view, apply_ite core, ite_self]
    | split
    | (refine (core_foldl _ (fun s a => ?_) _ _).trans ?_)
    | rfl)

theorem core_postEvent (code : Half) (arg : Quad) (s : State) :
    core (postEvent code arg s) = core s := by
  unfold postEvent
  repeat' (first
    | with_reducible rfl
    | simp only [core_mk, core_parts, core_view, apply_ite core, ite_self]
    | split
    | (refine (core_foldl _ (fun s a => ?_) _ _).trans ?_)
    | rfl)

theorem core_setOnline (b : Bool) (s : State) :
    core (setOnline b s) = core s := by
  unfold setOnline
  repeat' (first
    | with_reducible rfl
    | simp only [core_mk, core_parts, core_view, apply_ite core, ite_self]
    | split
    | (refine (core_foldl _ (fun s a => ?_) _ _).trans ?_)
    | rfl)

theorem core_traceMsg (type : ℕ) (fields : List Byte) (s : State) :
    core (traceMsg type fields s) = core s := by
  unfold traceMsg
  repeat' (first
    | with_reducible rfl
    | simp only [core_mk, core_parts, core_view, apply_ite core, ite_self]
    | split
    | (refine (core_foldl _ (fun s a => ?_) _ _).trans ?_)
    | rfl)

theorem core_retireMirror (isB : Bool) (seq : Quad) (s : State) :
    core (retireMirror isB seq s) = core s := by
  unfold retireMirror
  repeat' (first
    | with_reducible rfl
    | simp only [core_mk, core_parts, core_view, apply_ite core, ite_self, core_sticky, core_tally, core_postEvent]
    | split
    | (refine (core_foldl _ (fun s a => ?_) _ _).trans ?_)
    | rfl)

theorem core_retireMirrors (failA failB : Bool) (seq : Quad) (s : State) :
    core (retireMirrors failA failB seq s) = core s := by
  unfold retireMirrors
  repeat' (first
    | with_reducible rfl
    | simp only [core_mk, core_parts, core_view, apply_ite core, ite_self, core_sticky, core_postEvent, core_retireMirror]
    | split
    | rfl)

theorem core_takeFree (s : State) :
    core (takeFree s).2 = core s := by
  unfold takeFree
  repeat' (first
    | with_reducible rfl
    | simp only [core_mk, core_parts, core_view, apply_ite core, ite_self]
    | split
    | (refine (core_foldl _ (fun s a => ?_) _ _).trans ?_)
    | rfl)

theorem core_stickyCommit (k : ℕ) (s : State) :
    core (stickyCommit k s) = core s := by
  unfold stickyCommit
  repeat' (first
    | with_reducible rfl
    | simp only [core_mk, core_parts, core_view, apply_ite core, ite_self, core_tally]
    | split
    | (refine (core_foldl _ (fun s a => ?_) _ _).trans ?_)
    | rfl)

theorem core_stickyWrite (v : View) (n : ℕ) (value : Word) (s : State) :
    core (stickyWrite v n value s) = core s := by
  unfold stickyWrite
  repeat' (first
    | with_reducible rfl
    | simp only [core_mk, core_parts, core_view, apply_ite core, ite_self, core_tally]
    | split
    | (refine (core_foldl _ (fun s a => ?_) _ _).trans ?_)
    | rfl)

theorem core_setSlice (n : ℕ) (x1 : Slice) (s : State) :
    core (setSlice n x1 s) = core s := by
  unfold setSlice
  repeat' (first
    | with_reducible rfl
    | simp only [core_mk, core_parts, core_view, apply_ite core, ite_self]
    | split
    | (refine (core_foldl _ (fun s a => ?_) _ _).trans ?_)
    | rfl)

theorem core_setChannel (c : ℕ) (x1 : Channel) (s : State) :
    core (setChannel c x1 s) = core s := by
  unfold setChannel
  repeat' (first
    | with_reducible rfl
    | simp only [core_mk, core_parts, core_view, apply_ite core, ite_self]
    | split
    | (refine (core_foldl _ (fun s a => ?_) _ _).trans ?_)
    | rfl)

theorem core_setGroup (g : ℕ) (x1 : CalGroup) (s : State) :
    core (setGroup g x1 s) = core s := by
  unfold setGroup
  repeat' (first
    | with_reducible rfl
    | simp only [core_mk, core_parts, core_view, apply_ite core, ite_self]
    | split
    | (refine (core_foldl _ (fun s a => ?_) _ _).trans ?_)
    | rfl)

theorem core_storeSample (k : ℕ) (m : ℕ) (x2 : Sample) (s : State) :
    core (storeSample k m x2 s) = core s := by
  unfold storeSample
  repeat' (first
    | with_reducible rfl
    | simp only [core_mk, core_parts, core_view, apply_ite core, ite_self]
    | split
    | (refine (core_foldl _ (fun s a => ?_) _ _).trans ?_)
    | rfl)

theorem core_storeRaw (k : ℕ) (m : ℕ) (x2 : RawSample) (s : State) :
    core (storeRaw k m x2 s) = core s := by
  unfold storeRaw
  repeat' (first
    | with_reducible rfl
    | simp only [core_mk, core_parts, core_view, apply_ite core, ite_self]
    | split
    | (refine (core_foldl _ (fun s a => ?_) _ _).trans ?_)
    | rfl)

theorem core_addConversions (k : Nat) (convs : List Conversion) (s : State) :
    core (addConversions k convs s) = core s := by
  unfold addConversions
  repeat' (first
    | with_reducible rfl
    | simp only [core_mk, core_parts, core_view, apply_ite core, ite_self, core_setSlice, core_setChannel]
    | split
    | (refine (core_foldl _ (fun s a => ?_) _ _).trans ?_)
    | rfl)

theorem core_storeLocal (k : Nat) (s : State) :
    core (storeLocal k s) = core s := by
  unfold storeLocal
  repeat' (first
    | with_reducible rfl
    | simp only [core_mk, core_parts, core_view, apply_ite core, ite_self, core_storeRaw, core_storeSample]
    | split
    | (refine (core_foldl _ (fun s a => ?_) _ _).trans ?_)
    | rfl)

theorem core_trimHistories (k : ℕ) (s : State) :
    core (trimHistories k s) = core s := by
  unfold trimHistories
  repeat' (first
    | with_reducible rfl
    | simp only [core_mk, core_parts, core_view, apply_ite core, ite_self]
    | split
    | (refine (core_foldl _ (fun s a => ?_) _ _).trans ?_)
    | rfl)

theorem core_applyFix (f : SliceChange) (s : State) :
    core (applyFix f s) = core s := by
  unfold applyFix
  repeat' (first
    | with_reducible rfl
    | simp only [core_mk, core_parts, core_view, apply_ite core, ite_self, core_setChannel, core_setSlice,
        core_setGroup]
    | split
    | (refine (core_foldl _ (fun s a => ?_) _ _).trans ?_)
    | rfl)

theorem core_failSlice (n : ℕ) (d : ℕ) (cause : ℕ) (gap : Option Time) (s : State) :
    core (failSlice n d cause gap s) = core s := by
  unfold failSlice
  repeat' (first
    | with_reducible rfl
    | simp only [core_mk, core_parts, core_view, apply_ite core, ite_self, core_sticky, core_tally, core_setSlice,
        core_setChannel, core_setGroup, core_applyFix]
    | split
    | (refine (core_foldl _ (fun s a => ?_) _ _).trans ?_)
    | rfl)

theorem core_applyFixes (k : ℕ) (s : State) :
    core (applyFixes k s) = core s := by
  unfold applyFixes
  repeat' (first
    | with_reducible rfl
    | simp only [core_mk, core_parts, core_view, apply_ite core, ite_self, core_applyFix]
    | split
    | (refine (core_foldl _ (fun s a => ?_) _ _).trans ?_)
    | rfl)

theorem core_gleanerStep (g : Nat) (s : State) :
    core (gleanerStep g s) = core s := by
  unfold gleanerStep
  repeat' (first
    | with_reducible rfl
    | simp only [core_mk, core_parts, core_view, apply_ite core, ite_self, core_setGroup, core_setSlice,
        core_setChannel]
    | split
    | (refine (core_foldl _ (fun s a => ?_) _ _).trans ?_)
    | rfl)

theorem core_gleanerBoundary (s : State) :
    core (gleanerBoundary s) = core s := by
  unfold gleanerBoundary
  repeat' (first
    | with_reducible rfl
    | simp only [core_mk, core_parts, core_view, apply_ite core, ite_self, core_gleanerStep]
    | split
    | (refine (core_foldl _ (fun s a => ?_) _ _).trans ?_)
    | rfl)

theorem core_coldCalibrate (n : Nat) (ps : List (Int × Nat)) (s : State) :
    core (coldCalibrate n ps s) = core s := by
  unfold coldCalibrate
  repeat' (first
    | with_reducible rfl
    | simp only [core_mk, core_parts, core_view, apply_ite core, ite_self, core_failSlice, core_sticky,
        core_setSlice]
    | split
    | (refine (core_foldl _ (fun s a => ?_) _ _).trans ?_)
    | rfl)

theorem core_gatherPoint (g : Nat) (k : Nat) (s : State) :
    core (gatherPoint g k s) = core s := by
  unfold gatherPoint
  repeat' (first
    | with_reducible rfl
    | simp only [core_mk, core_parts, core_view, apply_ite core, ite_self, core_setGroup]
    | split
    | (refine (core_foldl _ (fun s a => ?_) _ _).trans ?_)
    | rfl)

theorem core_gatherOverlap (g : Nat) (k : Nat) (s : State) :
    core (gatherOverlap g k s) = core s := by
  unfold gatherOverlap
  repeat' (first
    | with_reducible rfl
    | simp only [core_mk, core_parts, core_view, apply_ite core, ite_self, core_setGroup]
    | split
    | (refine (core_foldl _ (fun s a => ?_) _ _).trans ?_)
    | rfl)

theorem core_gleanerMeasure (k : Nat) (s : State) :
    core (gleanerMeasure k s) = core s := by
  unfold gleanerMeasure
  repeat' (first
    | with_reducible rfl
    | simp only [core_mk, core_parts, core_view, apply_ite core, ite_self, core_gatherOverlap, core_gatherPoint]
    | split
    | (refine (core_foldl _ (fun s a => ?_) _ _).trans ?_)
    | rfl)

theorem core_calibrationResult (g : Nat) (s : State) :
    core (calibrationResult g s) = core s := by
  unfold calibrationResult
  repeat' (first
    | with_reducible rfl
    | simp only [core_mk, core_parts, core_view, apply_ite core, ite_self, core_failSlice, core_sticky,
        core_setSlice, core_tally]
    | split
    | (refine (core_foldl _ (fun s a => ?_) _ _).trans ?_)
    | rfl)

theorem core_overlapResult (g : Nat) (s : State) :
    core (overlapResult g s) = core s := by
  unfold overlapResult
  repeat' (first
    | with_reducible rfl
    | simp only [core_mk, core_parts, core_view, apply_ite core, ite_self, core_tally, core_setGroup, core_sticky]
    | split
    | (refine (core_foldl _ (fun s a => ?_) _ _).trans ?_)
    | rfl)

theorem core_insertSlot (n : ℕ) (s : State) :
    core (insertSlot n s) = core s := by
  unfold insertSlot
  repeat' (first
    | with_reducible rfl
    | simp only [core_mk, core_parts, core_view, apply_ite core, ite_self, core_setGroup]
    | split
    | (refine (core_foldl _ (fun s a => ?_) _ _).trans ?_)
    | rfl)

theorem core_setPort (n : ℕ) (x1 : Port) (s : State) :
    core (setPort n x1 s) = core s := by
  unfold setPort
  repeat' (first
    | with_reducible rfl
    | simp only [core_mk, core_parts, core_view, apply_ite core, ite_self]
    | split
    | (refine (core_foldl _ (fun s a => ?_) _ _).trans ?_)
    | rfl)

theorem core_setStream (new : Bool) (i : ℕ) (x2 : Stream) (s : State) :
    core (setStream new i x2 s) = core s := by
  unfold setStream
  repeat' (first
    | with_reducible rfl
    | simp only [core_mk, core_parts, core_view, apply_ite core, ite_self]
    | split
    | (refine (core_foldl _ (fun s a => ?_) _ _).trans ?_)
    | rfl)

theorem core_storeAsdu (new : Bool) (ws : List Word) (a : Asdu) (m : Nat) (s : State) :
    core (storeAsdu new ws a m s) = core s := by
  unfold storeAsdu
  repeat' (first
    | with_reducible rfl
    | simp only [core_mk, core_parts, core_view, apply_ite core, ite_self, core_storeSample, core_sticky]
    | split
    | (refine (core_foldl _ (fun s a => ?_) _ _).trans ?_)
    | rfl)

theorem core_placeAsdu (new : Bool) (ws : List Word) (t : Time) (s : State) (a : Asdu) :
    core (placeAsdu new ws t s a) = core s := by
  unfold placeAsdu
  repeat' (first
    | with_reducible rfl
    | simp only [core_mk, core_parts, core_view, apply_ite core, ite_self, core_count, core_storeAsdu]
    | split
    | (refine (core_foldl _ (fun s a => ?_) _ _).trans ?_)
    | rfl)

theorem core_svEntryFrame (new : Bool) (i : Nat) (ws : List Word) (f : Frame) (asdus : List Asdu) (shift : Option Time)
    (s : State) : core (svEntryFrame new i ws f asdus shift s) = core s := by
  unfold svEntryFrame
  repeat' (first
    | with_reducible rfl
    | simp only [core_mk, core_parts, core_view, apply_ite core, ite_self, core_count, core_setStream, core_tally,
        core_sticky, core_placeAsdu]
    | split
    | (refine (core_foldl _ (fun s a => ?_) _ _).trans ?_)
    | rfl)

theorem core_takeFrame (n : Nat) (f : Frame) (s : State) :
    core (takeFrame n f s) = core s := by
  unfold takeFrame
  repeat' (first
    | with_reducible rfl
    | simp only [core_mk, core_parts, core_view, apply_ite core, ite_self, core_setPort]
    | split
    | (refine (core_foldl _ (fun s a => ?_) _ _).trans ?_)
    | rfl)

theorem core_serve {n : Nat} {p : Frame → Bool} {s : State} {x : Bool × State} (h : serve n p s = some x) :
    core x.2 = core s := by
  unfold serve at h
  split at h
  · split at h
    · cases h
      dsimp only
      split
      · exact core_takeFrame _ _ _
      · exact (core_advance _ _).trans (core_takeFrame _ _ _)
    · cases h
  · cases h

theorem core_svFrameIn (f : Frame) (s : State) : core (svFrameIn f s) = core s := by
  unfold svFrameIn
  split
  · rename_i h
    refine Eq.trans ?_ (core_serve h)
    extract_lets _ s1
    have h1 : core s1 = _ := core_foldl _ (fun s a => by
      split
      · exact core_svEntryFrame _ _ _ _ _ _ _
      · rfl) _ _
    split
    · exact h1
    · refine (core_foldl _ (fun s a => ?_) _ _).trans h1
      split
      · rfl
      · rfl
  · rfl

theorem core_markMissing (k : ℕ) (s : State) :
    core (markMissing k s) = core s := by
  unfold markMissing
  repeat' (first
    | with_reducible rfl
    | simp only [core_mk, core_parts, core_view, apply_ite core, ite_self, core_count, core_storeSample]
    | split
    | (refine (core_foldl _ (fun s a => ?_) _ _).trans ?_)
    | rfl)

theorem core_streamLost (i : ℕ) (s : State) :
    core (streamLost i s) = core s := by
  unfold streamLost
  repeat' (first
    | with_reducible rfl
    | simp only [core_mk, core_parts, core_view, apply_ite core, ite_self, core_sticky, core_tally, core_setStream]
    | split
    | (refine (core_foldl _ (fun s a => ?_) _ _).trans ?_)
    | rfl)

theorem core_tenonEntry (p : Option Package) (new : Bool) (f : Frame) (asdus : List Asdu) (ws : List Word) (s
    : State) :
    core (tenonEntry p new f asdus ws s) = core s := by
  unfold tenonEntry
  repeat' (first
    | with_reducible rfl
    | simp only [core_mk, core_parts, core_view, apply_ite core, ite_self, core_storeRaw]
    | split
    | (refine (core_foldl _ (fun s a => ?_) _ _).trans ?_)
    | rfl)

theorem core_tenonExtract (f : Frame) (s : State) :
    core (tenonExtract f s) = core s := by
  unfold tenonExtract
  repeat' (first
    | with_reducible rfl
    | simp only [core_mk, core_parts, core_view, apply_ite core, ite_self, core_tenonEntry]
    | split
    | (refine (core_foldl _ (fun s a => ?_) _ _).trans ?_)
    | rfl)

theorem core_setSub (i : ℕ) (x1 : GooseSub) (s : State) :
    core (setSub i x1 s) = core s := by
  unfold setSub
  repeat' (first
    | with_reducible rfl
    | simp only [core_mk, core_parts, core_view, apply_ite core, ite_self]
    | split
    | (refine (core_foldl _ (fun s a => ?_) _ _).trans ?_)
    | rfl)

theorem core_gooseEntryFrame (i : Nat) (ws : List Word) (t : Time) (g : GooseMsg) (s : State) :
    core (gooseEntryFrame i ws t g s) = core s := by
  unfold gooseEntryFrame
  repeat' (first
    | with_reducible rfl
    | simp only [core_mk, core_parts, core_view, apply_ite core, ite_self, core_setSub, core_count]
    | split
    | (refine (core_foldl _ (fun s a => ?_) _ _).trans ?_)
    | rfl)

theorem core_gooseFrameIn (f : Frame) (s : State) : core (gooseFrameIn f s) = core s := by
  unfold gooseFrameIn
  split
  · rename_i h
    refine Eq.trans ?_ (core_serve h)
    split
    · rfl
    · refine core_foldl _ (fun s a => ?_) _ _
      split
      · exact core_gooseEntryFrame _ _ _ _ _
      · rfl
  · rfl

theorem core_gooseStale (i : ℕ) (s : State) :
    core (gooseStale i s) = core s := by
  unfold gooseStale
  repeat' (first
    | with_reducible rfl
    | simp only [core_mk, core_parts, core_view, apply_ite core, ite_self, core_sticky, core_tally, core_setSub]
    | split
    | (refine (core_foldl _ (fun s a => ?_) _ _).trans ?_)
    | rfl)

theorem core_setNode (x0 : PrpNode) (s : State) :
    core (setNode x0 s) = core s := by
  unfold setNode
  repeat' (first
    | with_reducible rfl
    | simp only [core_mk, core_parts, core_view, apply_ite core, ite_self]
    | split
    | (refine (core_foldl _ (fun s a => ?_) _ _).trans ?_)
    | rfl)

theorem core_prpCheck (pair : ℕ) (f : Frame) (s : State) :
    core (prpCheck pair f s).2 = core s := by
  unfold prpCheck
  repeat' (first
    | with_reducible rfl
    | simp only [core_mk, core_parts, core_view, apply_ite core, ite_self, core_count, core_setNode]
    | split
    | (refine (core_foldl _ (fun s a => ?_) _ _).trans ?_)
    | rfl)

theorem core_lanDown (pair : Nat) (cause : Nat) (src : Mac) (s : State) :
    core (lanDown pair cause src s) = core s := by
  unfold lanDown
  repeat' (first
    | with_reducible rfl
    | simp only [core_mk, core_parts, core_view, apply_ite core, ite_self, core_sticky, core_tally, core_setPort]
    | split
    | (refine (core_foldl _ (fun s a => ?_) _ _).trans ?_)
    | rfl)

theorem core_lanReturn (pair : Nat) (f : Frame) (s : State) :
    core (lanReturn pair f s) = core s := by
  unfold lanReturn
  repeat' (first
    | with_reducible rfl
    | simp only [core_mk, core_parts, core_view, apply_ite core, ite_self, core_tally, core_setPort, core_lanDown]
    | split
    | (refine (core_foldl _ (fun s a => ?_) _ _).trans ?_)
    | rfl)

theorem core_tbGo (new : TbState) (s : State) :
    core (tbGo new s) = core s := by
  unfold tbGo
  repeat' (first
    | with_reducible rfl
    | simp only [core_mk, core_parts, core_view, apply_ite core, ite_self, core_sticky, core_tally, core_postEvent]
    | split
    | (refine (core_foldl _ (fun s a => ?_) _ _).trans ?_)
    | rfl)

theorem core_noteMeasurement (theta : ℤ) (t : Time) (s : State) :
    core (noteMeasurement theta t s) = core s := by
  unfold noteMeasurement
  repeat' (first
    | with_reducible rfl
    | simp only [core_mk, core_parts, core_view, apply_ite core, ite_self, core_tbGo]
    | split
    | (refine (core_foldl _ (fun s a => ?_) _ _).trans ?_)
    | rfl)

theorem core_feedServo (theta : ℤ) (t : Time) (since : Option Time) (s : State) :
    core (feedServo theta t since s) = core s := by
  unfold feedServo
  repeat' (first
    | with_reducible rfl
    | simp only [core_mk, core_parts, core_view, apply_ite core, ite_self, core_traceMsg, core_tbGo, core_noteMeasurement]
    | split
    | (refine (core_foldl _ (fun s a => ?_) _ _).trans ?_)
    | rfl)

theorem core_servoMeasurement (theta : ℤ) (t : Time) (s : State) : (core (servoMeasurement theta t s)).noStep = (core
    s).noStep := by
  unfold servoMeasurement
  repeat' (first
    | with_reducible rfl
    | simp only [core_mk, core_parts, core_view, Core.noStep, core_count, core_noteMeasurement, core_feedServo]
    | split
    | rfl)

theorem core_sourceLost (s : State) :
    core (sourceLost s) = core s := by
  unfold sourceLost
  repeat' (first
    | with_reducible rfl
    | simp only [core_mk, core_parts, core_view, apply_ite core, ite_self, core_tbGo]
    | split
    | (refine (core_foldl _ (fun s a => ?_) _ _).trans ?_)
    | rfl)

theorem core_changeSource (new : ℕ) (s : State) :
    core (changeSource new s) = core s := by
  unfold changeSource
  repeat' (first
    | with_reducible rfl
    | simp only [core_mk, core_parts, core_view, apply_ite core, ite_self, core_tally]
    | split
    | (refine (core_foldl _ (fun s a => ?_) _ _).trans ?_)
    | rfl)

theorem core_ptpLost (t : Time) (s : State) :
    core (ptpLost t s) = core s := by
  unfold ptpLost
  repeat' (first
    | with_reducible rfl
    | simp only [core_mk, core_parts, core_view, apply_ite core, ite_self, core_sourceLost, core_changeSource]
    | split
    | (refine (core_foldl _ (fun s a => ?_) _ _).trans ?_)
    | rfl)

theorem core_setPtp (n : ℕ) (x1 : PtpPort) (s : State) :
    core (setPtp n x1 s) = core s := by
  unfold setPtp
  repeat' (first
    | with_reducible rfl
    | simp only [core_mk, core_parts, core_view, apply_ite core, ite_self]
    | split
    | (refine (core_foldl _ (fun s a => ?_) _ _).trans ?_)
    | rfl)

theorem core_selectMaster (s : State) :
    core (selectMaster s) = core s := by
  unfold selectMaster
  repeat' (first
    | with_reducible rfl
    | simp only [core_mk, core_parts, core_view, apply_ite core, ite_self, core_sticky, core_tally, core_setPtp]
    | split
    | (refine (core_foldl _ (fun s a => ?_) _ _).trans ?_)
    | rfl)

theorem core_ptpSeconds (theta : Int) (s : State) : (core (ptpSeconds theta s)).noStep = (core s).noStep := by
  unfold ptpSeconds
  extract_lets d
  split
  · rfl
  · split
    · rfl
    · split <;> rfl

theorem core_ptpMeasurement (n : ℕ) (theta : ℤ) (t : Time) (s : State) : (core (ptpMeasurement n theta t s)).noStep =
    (core s).noStep := by
  unfold ptpMeasurement
  extract_lets x valid x1 s1 c s2 near w y s3
  split
  · rfl
  · split
    · have h : (core (ptpSeconds theta s3)).noStep = (core s).noStep := core_ptpSeconds _ _
      split
      · rw [core_changeSource]; exact h
      · exact h
    · exact core_servoMeasurement _ _ _

theorem core_servePtp {n : Nat} {t : Time} {s u : State} (h : servePtp n t s = some u) : core u = core s := by
  simp only [servePtp, Option.map_eq_some_iff] at h
  obtain ⟨x, h, rfl⟩ := h
  exact (core_advance _ _).trans (core_serve h)

/-- What a served PTP message keeps, where its handling keeps it. -/
theorem core_servedOr {α : Type} (f : State → State) (g : Core → α) (h : ∀ s, g (core (f s)) = g (core s)) (n : Nat) (t : Time)
    (s : State) : g (core (((servePtp n t s).map f).getD s)) = g (core s) := by
  cases e : servePtp n t s with
  | none => rfl
  | some u => exact (h u).trans (congrArg g (core_servePtp e))

theorem core_syncServed (m : PtpMsg) (s : State) : (core (syncServed m s)).noStep = (core s).noStep := by
  unfold syncServed
  split
  · rfl
  · split
    · rfl
    · exact core_ptpMeasurement _ _ _ _

theorem core_syncIn (m : PtpMsg) (s : State) : (core (syncIn m s)).noStep = (core s).noStep :=
  core_servedOr (syncServed m) Core.noStep (core_syncServed m) _ _ _

theorem core_followUpServed (m : PtpMsg) (s : State) : (core (followUpServed m s)).noStep = (core s).noStep := by
  unfold followUpServed
  repeat' (first
    | with_reducible rfl
    | split
    | exact core_ptpMeasurement _ _ _ _
    | rfl)

theorem core_followUpIn (m : PtpMsg) (s : State) : (core (followUpIn m s)).noStep = (core s).noStep :=
  core_servedOr (followUpServed m) Core.noStep (core_followUpServed m) _ _ _

theorem core_announceServed (a : Announce) (s : State) :
    core (announceServed a s) = core s := by
  unfold announceServed
  repeat' (first
    | with_reducible rfl
    | simp only [core_mk, core_parts, core_view, apply_ite core, ite_self, core_selectMaster, core_setPtp]
    | split
    | (refine (core_foldl _ (fun s a => ?_) _ _).trans ?_)
    | rfl)

theorem core_announceIn (a : Announce) (s : State) : core (announceIn a s) = core s :=
  core_servedOr (announceServed a) id (core_announceServed a) _ _ _

theorem core_announceTimeout (n : Nat) (t : Time) (s : State) :
    core (announceTimeout n t s) = core s := by
  unfold announceTimeout
  repeat' (first
    | with_reducible rfl
    | simp only [core_mk, core_parts, core_view, apply_ite core, ite_self, core_advance, core_selectMaster,
        core_setPtp, core_ptpLost]
    | split
    | (refine (core_foldl _ (fun s a => ?_) _ _).trans ?_)
    | rfl)

theorem core_sendNow (n : Nat) (e : Launch) (t : Time) (s : State) :
    core (sendNow n e t s) = core s := by
  unfold sendNow
  repeat' (first
    | with_reducible rfl
    | simp only [core_mk, core_parts, core_view, apply_ite core, ite_self, core_count]
    | split
    | (refine (core_foldl _ (fun s a => ?_) _ _).trans ?_)
    | rfl)

theorem core_sendUntimed (n f : Nat) (t : Time) (l : List Launch) (s : State) : core (sendUntimed n f t l s) = core s := by
  induction f generalizing t l s with
  | zero => exact core_setPort _ _ _
  | succ f ih =>
    cases l with
    | nil => exact core_setPort _ _ _
    | cons e l =>
      unfold sendUntimed
      split
      · exact (ih _ _ _).trans (core_sendNow _ _ _ _)
      · exact core_setPort _ _ _

theorem core_releaseUntimed (n : Nat) (t : Time) (more : List Launch) (s : State) :
    core (releaseUntimed n t more s) = core s := by
  unfold releaseUntimed
  extract_lets l
  split
  · rfl
  · exact core_sendUntimed _ _ _ _ _

theorem core_pdelayReqIn (m : PtpMsg) (s : State) : core (pdelayReqIn m s) = core s := by
  unfold pdelayReqIn
  split
  · rfl
  · rename_i u h
    refine Eq.trans ?_ (core_servePtp h)
    split
    · rfl
    · exact core_releaseUntimed _ _ _ _

theorem core_pdelayReqOut (n : Nat) (t : Time) (s : State) :
    core (pdelayReqOut n t s) = core s := by
  unfold pdelayReqOut
  repeat' (first
    | with_reducible rfl
    | simp only [core_mk, core_parts, core_view, apply_ite core, ite_self, core_advance, core_sendNow, core_setPtp]
    | split
    | (refine (core_foldl _ (fun s a => ?_) _ _).trans ?_)
    | rfl)

theorem core_pdelayServed (r : PdelayResp) (s : State) :
    core (pdelayServed r s) = core s := by
  unfold pdelayServed
  repeat' (first
    | with_reducible rfl
    | simp only [core_mk, core_parts, core_view, apply_ite core, ite_self, core_setPtp]
    | split
    | (refine (core_foldl _ (fun s a => ?_) _ _).trans ?_)
    | rfl)

theorem core_pdelayRespIn (r : PdelayResp) (s : State) : core (pdelayRespIn r s) = core s :=
  core_servedOr (pdelayServed r) id (core_pdelayServed r) _ _ _

theorem core_ppsLost (t : Time) (s : State) :
    core (ppsLost t s) = core s := by
  unfold ppsLost
  repeat' (first
    | with_reducible rfl
    | simp only [core_mk, core_parts, core_view, apply_ite core, ite_self, core_advance, core_sourceLost]
    | split
    | (refine (core_foldl _ (fun s a => ?_) _ _).trans ?_)
    | rfl)

theorem core_syncLost (t : Time) (s : State) :
    core (syncLost t s) = core s := by
  unfold syncLost
  repeat' (first
    | with_reducible rfl
    | simp only [core_mk, core_parts, core_view, apply_ite core, ite_self, core_advance, core_ptpLost]
    | split
    | (refine (core_foldl _ (fun s a => ?_) _ _).trans ?_)
    | rfl)

theorem core_holdoverExpired (t : Time) (s : State) :
    core (holdoverExpired t s) = core s := by
  unfold holdoverExpired
  repeat' (first
    | with_reducible rfl
    | simp only [core_mk, core_parts, core_view, apply_ite core, ite_self, core_advance, core_tbGo]
    | split
    | (refine (core_foldl _ (fun s a => ?_) _ _).trans ?_)
    | rfl)

theorem core_applyTimeConfig (c : List Word) (s : State) :
    core (applyTimeConfig c s).2 = core s := by
  unfold applyTimeConfig
  repeat' (first
    | with_reducible rfl
    | simp only [core_mk, core_parts, core_view, apply_ite core, ite_self, core_sourceLost]
    | split
    | (refine (core_foldl _ (fun s a => ?_) _ _).trans ?_)
    | rfl)

theorem core_ppsOut (rising : Bool) (t : Time) (s : State) :
    core (ppsOut rising t s) = core s := by
  unfold ppsOut
  repeat' (first
    | with_reducible rfl
    | simp only [core_mk, core_parts, core_view, apply_ite core, ite_self, core_advance]
    | split
    | (refine (core_foldl _ (fun s a => ?_) _ _).trans ?_)
    | rfl)

theorem core_queueLaunch (n : Nat) (k : TxKind) (t : Time) (head : EthHead) (data : TxData) (trailer : Option
    Rct) (s : State) :
    core (queueLaunch n k t head data trailer s) = core s := by
  unfold queueLaunch
  repeat' (first
    | with_reducible rfl
    | simp only [core_mk, core_parts, core_view, apply_ite core, ite_self, core_count, core_setPort]
    | split
    | (refine (core_foldl _ (fun s a => ?_) _ _).trans ?_)
    | rfl)

theorem core_takePrpSeq (lo : Nat) (s : State) :
    core (takePrpSeq lo s) = core s := by
  unfold takePrpSeq
  repeat' (first
    | with_reducible rfl
    | simp only [core_mk, core_parts, core_view, apply_ite core, ite_self, core_setPort]
    | split
    | (refine (core_foldl _ (fun s a => ?_) _ _).trans ?_)
    | rfl)

theorem core_queueBoth (p : Option Package) (n : Nat) (k : TxKind) (t : Time) (head : EthHead) (appid : Nat)
    (test : Bool) (m : GooseMsg) (s : State) :
    core (queueBoth p n k t head appid test m s) = core s := by
  unfold queueBoth
  repeat' (first
    | with_reducible rfl
    | simp only [core_mk, core_parts, core_view, apply_ite core, ite_self, core_queueLaunch, core_takePrpSeq]
    | split
    | (refine (core_foldl _ (fun s a => ?_) _ _).trans ?_)
    | rfl)

theorem core_prpSupervision (n : Nat) (s : State) :
    core (prpSupervision n s) = core s := by
  unfold prpSupervision
  repeat' (first
    | with_reducible rfl
    | simp only [core_mk, core_parts, core_view, apply_ite core, ite_self, core_releaseUntimed, core_takePrpSeq]
    | split
    | (refine (core_foldl _ (fun s a => ?_) _ _).trans ?_)
    | rfl)

theorem core_shiftLaunches (d : Int) (s : State) :
    core (shiftLaunches d s) = core s := by
  unfold shiftLaunches
  repeat' (first
    | with_reducible rfl
    | simp only [core_mk, core_parts, core_view, apply_ite core, ite_self]
    | split
    | (refine (core_foldl _ (fun s a => ?_) _ _).trans ?_)
    | rfl)

theorem core_setLdf (d : ℕ) (x1 : Ldf) (s : State) :
    core (setLdf d x1 s) = core s := by
  unfold setLdf
  repeat' (first
    | with_reducible rfl
    | simp only [core_mk, core_parts, core_view, apply_ite core, ite_self]
    | split
    | (refine (core_foldl _ (fun s a => ?_) _ _).trans ?_)
    | rfl)

theorem core_ldfBuild (d : Nat) (ws : List Word) (k : Nat) (s : State) :
    core (ldfBuild d ws k s) = core s := by
  unfold ldfBuild
  repeat' (first
    | with_reducible rfl
    | simp only [core_mk, core_parts, core_view, apply_ite core, ite_self, core_queueLaunch,
        core_setLdf]
    | split
    | (refine (core_foldl _ (fun s a => ?_) _ _).trans ?_)
    | rfl)

theorem core_ldfBoundary (k : ℕ) (s : State) :
    core (ldfBoundary k s) = core s := by
  unfold ldfBoundary
  repeat' (first
    | with_reducible rfl
    | simp only [core_mk, core_parts, core_view, apply_ite core, ite_self, core_setLdf, core_ldfBuild]
    | split
    | (refine (core_foldl _ (fun s a => ?_) _ _).trans ?_)
    | rfl)

theorem core_asymStep (d : ℕ) (r : ℕ) (quantity : ℕ) (old : ℤ) (new : ℤ) (s : State) :
    core (asymStep d r quantity old new s) = core s := by
  unfold asymStep
  repeat' (first
    | with_reducible rfl
    | simp only [core_mk, core_parts, core_view, apply_ite core, ite_self, core_sticky, core_tally]
    | split
    | (refine (core_foldl _ (fun s a => ?_) _ _).trans ?_)
    | rfl)

theorem core_roundTrip (d : Nat) (r : Nat) (ws : List Word) (i : Time) (m : Int) (t : LdfTerm) (s : State) :
    core (roundTrip d r ws i m t s).2.2 = core s := by
  unfold roundTrip
  repeat' (first
    | with_reducible rfl
    | simp only [core_mk, core_parts, core_view, apply_ite core, ite_self, core_count, core_asymStep]
    | split
    | (refine (core_foldl _ (fun s a => ?_) _ _).trans ?_)
    | rfl)

theorem core_oneWay (d r quantity : Nat) (ws : List Word) (m : Int) (mean out : List Int) (s : State) :
    core (oneWay d r quantity ws m mean out s).2 = core s := by
  unfold oneWay
  split
  · rfl
  · dsimp only
    split
    · rfl
    · exact core_asymStep _ _ _ _ _ _

theorem core_oneWay_eq {d r quantity : Nat} {ws : List Word} {m : Int} {mean out : List Int} {s u : State}
    {a : List Int × List Int} (h : oneWay d r quantity ws m mean out s = (a, u)) : core u = core s := by
  have := core_oneWay d r quantity ws m mean out s
  rw [h] at this
  exact this

theorem core_measureTimed (d : Nat) (ws : List Word) (msg : LdfMsg) (dIn : Int) (rtt : Option Int) (at' : Int × Int)
    (t : LdfTerm) (s : State) : core (measureTimed d ws msg dIn rtt at' t s).2 = core s := by
  unfold measureTimed
  extract_lets r t1
  split
  rename_i a u h
  refine Eq.trans ?_ (core_oneWay_eq h)
  dsimp only
  split
  · rfl
  · rfl
  · exact core_oneWay _ _ _ _ _ _ _ _

theorem core_measureEcho (d : Nat) (ws : List Word) (msg : LdfMsg) (tArr : Time) (m : Int) (at' : Int × Int) (t : LdfTerm)
    (s : State) : core (measureEcho d ws msg tArr m at' t s).2 = core s := by
  unfold measureEcho
  split
  rename_i u h
  have hu : core u = core s := by
    have := core_roundTrip d msg.term ws tArr m t s
    rw [h] at this
    exact this
  refine Eq.trans ?_ hu
  extract_lets t1 t2
  split
  · split
    · exact core_tally _ _ _
    · rfl
  · rfl

theorem core_decodeSets (ws : List Word) (key : Bool) (j : ℕ) (sets : List LdfSet) (t : LdfTerm) (s : State) : core
    (decodeSets ws key j sets t s).2 = core s := by
  unfold decodeSets
  refine (core_foldl_snd _ (fun b s a => ?_) _ _).trans ?_
  · repeat' (first
    | with_reducible rfl
    | simp only [core_mk, core_parts, core_view, apply_ite core, ite_self, core_count]
    | split
    | (refine (core_foldl _ (fun s a => ?_) _ _).trans ?_)
    | rfl)
  · rfl

theorem core_ldfModeStep (d : Nat) (r : Nat) (ws : List Word) (t : LdfTerm) (s : State) :
    core (ldfModeStep d r ws t s).2 = core s := by
  unfold ldfModeStep
  repeat' (first
    | with_reducible rfl
    | simp only [core_mk, core_parts, core_view, apply_ite core, ite_self, core_sticky, core_tally]
    | split
    | (refine (core_foldl _ (fun s a => ?_) _ _).trans ?_)
    | rfl)

theorem core_ldfLoss (d : Nat) (r : Nat) (t : Time) (s : State) :
    core (ldfLoss d r t s) = core s := by
  unfold ldfLoss
  repeat' (first
    | with_reducible rfl
    | simp only [core_mk, core_parts, core_view, apply_ite core, ite_self, core_advance, core_sticky, core_tally,
        core_setLdf]
    | split
    | (refine (core_foldl _ (fun s a => ?_) _ _).trans ?_)
    | rfl)

theorem core_ldfHoldoffOver (d : ℕ) (t : Time) (s : State) :
    core (ldfHoldoffOver d t s) = core s := by
  unfold ldfHoldoffOver
  repeat' (first
    | with_reducible rfl
    | simp only [core_mk, core_parts, core_view, apply_ite core, ite_self, core_advance, core_setLdf]
    | split
    | (refine (core_foldl _ (fun s a => ?_) _ _).trans ?_)
    | rfl)

theorem core_ldfAlignOut (d : ℕ) (s : State) :
    core (ldfAlignOut d s) = core s := by
  unfold ldfAlignOut
  repeat' (first
    | with_reducible rfl
    | simp only [core_mk, core_parts, core_view, apply_ite core, ite_self, core_setLdf]
    | split
    | (refine (core_foldl _ (fun s a => ?_) _ _).trans ?_)
    | rfl)

end Sys2Proof.Machine
end

