-- ==== Sys2Proof/Laws/CoreZones.lean ====
section
/-!
SUPPORT. The core is kept: zone evaluation, logic, trips, records, triggers, publication, lanes.
-/
set_option linter.all false

namespace Sys2Proof.Machine

theorem core_setZone (z : ℕ) (x1 : Zone) (s : State) :
    core (setZone z x1 s) = core s := by
  unfold setZone
  repeat' (first
    | with_reducible rfl
    | simp only [core_mk, core_parts, core_view, apply_ite core, ite_self]
    | split
    | (refine (core_foldl _ (fun s a => ?_) _ _).trans ?_)
    | rfl)

theorem core_setLiveInst (i : ℕ) (x1 : Inst) (s : State) :
    core (setLiveInst i x1 s) = core s := by
  unfold setLiveInst
  repeat' (first
    | with_reducible rfl
    | simp only [core_mk, core_parts, core_view, apply_ite core, ite_self]
    | split
    | (refine (core_foldl _ (fun s a => ?_) _ _).trans ?_)
    | rfl)

theorem core_definiteOperate (zone : ℕ) (slot : ℕ) (s : State) :
    core (definiteOperate zone slot s) = core s := by
  unfold definiteOperate
  repeat' (first
    | with_reducible rfl
    | simp only [core_mk, core_parts, core_view, apply_ite core, ite_self, core_setLiveInst]
    | split
    | (refine (core_foldl _ (fun s a => ?_) _ _).trans ?_)
    | rfl)

theorem core_resetExpiry (zone : ℕ) (slot : ℕ) (s : State) :
    core (resetExpiry zone slot s) = core s := by
  unfold resetExpiry
  repeat' (first
    | with_reducible rfl
    | simp only [core_mk, core_parts, core_view, apply_ite core, ite_self, core_setLiveInst]
    | split
    | (refine (core_foldl _ (fun s a => ?_) _ _).trans ?_)
    | rfl)

theorem core_inverseOperate (zone : ℕ) (slot : ℕ) (s : State) :
    core (inverseOperate zone slot s) = core s := by
  unfold inverseOperate
  repeat' (first
    | with_reducible rfl
    | simp only [core_mk, core_parts, core_view, apply_ite core, ite_self, core_setLiveInst]
    | split
    | (refine (core_foldl _ (fun s a => ?_) _ _).trans ?_)
    | rfl)

theorem core_recloseTimer (zone : ℕ) (slot : ℕ) (s : State) :
    core (recloseTimer zone slot s) = core s := by
  unfold recloseTimer
  repeat' (first
    | with_reducible rfl
    | simp only [core_mk, core_parts, core_view, apply_ite core, ite_self, core_setLiveInst]
    | split
    | (refine (core_foldl _ (fun s a => ?_) _ _).trans ?_)
    | rfl)

theorem core_latchCycle (first : ℕ) (s : State) :
    core (latchCycle first s) = core s := by
  unfold latchCycle
  repeat' (first
    | with_reducible rfl
    | simp only [core_mk, core_parts, core_view, apply_ite core, ite_self]
    | split
    | (refine (core_foldl _ (fun s a => ?_) _ _).trans ?_)
    | rfl)

theorem core_imageCycle (s : State) :
    core (imageCycle s) = core s := by
  unfold imageCycle
  repeat' (first
    | with_reducible rfl
    | simp only [core_mk, core_parts, core_view, apply_ite core, ite_self]
    | split
    | (refine (core_foldl _ (fun s a => ?_) _ _).trans ?_)
    | rfl)

theorem core_publishCycle (s : State) :
    core (publishCycle s) = core s := by
  unfold publishCycle
  repeat' (first
    | with_reducible rfl
    | simp only [core_mk, core_parts, core_view, apply_ite core, ite_self]
    | split
    | (refine (core_foldl _ (fun s a => ?_) _ _).trans ?_)
    | rfl)

theorem core_endCycle (k : Nat) (s : State) :
    core (endCycle k s).2 = core s := by
  unfold endCycle
  repeat' (first
    | with_reducible rfl
    | simp only [core_mk, core_parts, core_view, apply_ite core, ite_self, core_publishCycle, core_sticky,
        core_count, core_tally]
    | split
    | (refine (core_foldl _ (fun s a => ?_) _ _).trans ?_)
    | rfl)

theorem core_clearForces (cause : ℕ) (s : State) :
    core (clearForces cause s) = core s := by
  unfold clearForces
  repeat' (first
    | with_reducible rfl
    | simp only [core_mk, core_parts, core_view, apply_ite core, ite_self, core_tally]
    | split
    | (refine (core_foldl _ (fun s a => ?_) _ _).trans ?_)
    | rfl)

theorem core_logicStart (cause : ℕ) (kept : List (ℕ × Word × Half)) (cold : Bool) (s : State) :
    core (logicStart cause kept cold s) = core s := by
  unfold logicStart
  repeat' (first
    | with_reducible rfl
    | simp only [core_mk, core_parts, core_view, apply_ite core, ite_self, core_clearForces]
    | split
    | (refine (core_foldl _ (fun s a => ?_) _ _).trans ?_)
    | rfl)

theorem core_timerExpiry (t : Nat) (s : State) :
    core (timerExpiry t s) = core s := by
  unfold timerExpiry
  repeat' (first
    | with_reducible rfl
    | simp only [core_mk, core_parts, core_view, apply_ite core, ite_self]
    | split
    | (refine (core_foldl _ (fun s a => ?_) _ _).trans ?_)
    | rfl)

theorem core_inputPoints (i : Nat) (ws : List Word) (t : Time) (s : State) :
    core (inputPoints i ws t s) = core s := by
  unfold inputPoints
  repeat' (first
    | with_reducible rfl
    | simp only [core_mk, core_parts, core_view, apply_ite core, ite_self]
    | split
    | (refine (core_foldl _ (fun s a => ?_) _ _).trans ?_)
    | rfl)

theorem core_inputBoundary (t : Time) (s : State) :
    core (inputBoundary t s) = core s := by
  unfold inputBoundary
  repeat' (first
    | with_reducible rfl
    | simp only [core_mk, core_parts, core_view, apply_ite core, ite_self, core_inputPoints]
    | split
    | (refine (core_foldl _ (fun s a => ?_) _ _).trans ?_)
    | rfl)

theorem core_setPub (n : ℕ) (x1 : GoosePub) (s : State) :
    core (setPub n x1 s) = core s := by
  unfold setPub
  repeat' (first
    | with_reducible rfl
    | simp only [core_mk, core_parts, core_view, apply_ite core, ite_self]
    | split
    | (refine (core_foldl _ (fun s a => ?_) _ _).trans ?_)
    | rfl)

theorem core_queueGoose (n : Nat) (ws : List Word) (t : Time) (interval : Nat) (vals : List (Word × Half)) (x
    : GoosePub) (s : State) :
    core (queueGoose n ws t interval vals x s) = core s := by
  unfold queueGoose
  repeat' (first
    | with_reducible rfl
    | simp only [core_mk, core_parts, core_view, apply_ite core, ite_self, core_setPub, core_queueBoth]
    | split
    | (refine (core_foldl _ (fun s a => ?_) _ _).trans ?_)
    | rfl)

theorem core_publishBoundary (k : ℕ) (s : State) :
    core (publishBoundary k s) = core s := by
  unfold publishBoundary
  repeat' (first
    | with_reducible rfl
    | simp only [core_mk, core_parts, core_view, apply_ite core, ite_self, core_queueGoose]
    | split
    | (refine (core_foldl _ (fun s a => ?_) _ _).trans ?_)
    | rfl)

theorem core_retransmit (n : ℕ) (s : State) :
    core (retransmit n s) = core s := by
  unfold retransmit
  repeat' (first
    | with_reducible rfl
    | simp only [core_mk, core_parts, core_view, apply_ite core, ite_self, core_advance, core_queueGoose]
    | split
    | (refine (core_foldl _ (fun s a => ?_) _ _).trans ?_)
    | rfl)

theorem core_publishAll (k : ℕ) (s : State) :
    core (publishAll k s) = core s := by
  unfold publishAll
  repeat' (first
    | with_reducible rfl
    | simp only [core_mk, core_parts, core_view, apply_ite core, ite_self, core_queueGoose]
    | split
    | (refine (core_foldl _ (fun s a => ?_) _ _).trans ?_)
    | rfl)

theorem core_tenonEvaluate (k : Nat) (s : State) :
    core (tenonEvaluate k s) = core s := by
  unfold tenonEvaluate
  repeat' (first
    | with_reducible rfl
    | simp only [core_mk, core_parts, core_view, apply_ite core, ite_self]
    | split
    | (refine (core_foldl _ (fun s a => ?_) _ _).trans ?_)
    | rfl)

theorem core_sealInExpiry (z : Nat) (s : State) :
    core (sealInExpiry z s) = core s := by
  unfold sealInExpiry
  repeat' (first
    | with_reducible rfl
    | simp only [core_mk, core_parts, core_view, apply_ite core, ite_self]
    | split
    | (refine (core_foldl _ (fun s a => ?_) _ _).trans ?_)
    | rfl)

theorem core_backstopExpiry (z : Nat) (s : State) :
    core (backstopExpiry z s) = core s := by
  unfold backstopExpiry
  repeat' (first
    | with_reducible rfl
    | simp only [core_mk, core_parts, core_view, apply_ite core, ite_self]
    | split
    | (refine (core_foldl _ (fun s a => ?_) _ _).trans ?_)
    | rfl)

theorem core_setWire (n : ℕ) (x1 : Wire) (s : State) : 
    core (setWire n x1 s) = { core s with wires := FMap.set s.wires n x1 } := by
  rfl

theorem core_releaseWires (s : State) : 
    core (releaseWires s) = { core s with wires := s.wires.mapVals (fun _ w => { w with
      toggling := false, level := false, edge := 0 }) } := by
  rfl

theorem core_zoneTrips (k : ℕ) (z : ℕ) (s : State) :
    core (zoneTrips k z s) = core s := by
  unfold zoneTrips
  repeat' (first
    | with_reducible rfl
    | simp only [core_mk, core_parts, core_view, apply_ite core, ite_self, core_setZone]
    | split
    | (refine (core_foldl _ (fun s a => ?_) _ _).trans ?_)
    | rfl)

theorem core_biLog (m : ℕ) (key : ℕ) (v : Bool) (s : State) :
    core (biLog m key v s) = core s := by
  unfold biLog
  repeat' (first
    | with_reducible rfl
    | simp only [core_mk, core_parts, core_view, apply_ite core, ite_self]
    | split
    | (refine (core_foldl _ (fun s a => ?_) _ _).trans ?_)
    | rfl)

theorem core_setPair (p : ℕ) (x1 : BiPair) (s : State) :
    core (setPair p x1 s) = core s := by
  unfold setPair
  repeat' (first
    | with_reducible rfl
    | simp only [core_mk, core_parts, core_view, apply_ite core, ite_self]
    | split
    | (refine (core_foldl _ (fun s a => ?_) _ _).trans ?_)
    | rfl)

theorem core_pairStep (p : Nat) (m : Nat) (agrees : Bool) (v : Bool) (s : State) :
    core (pairStep p m agrees v s) = core s := by
  unfold pairStep
  repeat' (first
    | with_reducible rfl
    | simp only [core_mk, core_parts, core_view, apply_ite core, ite_self, core_setPair, core_biLog]
    | split
    | (refine (core_foldl _ (fun s a => ?_) _ _).trans ?_)
    | rfl)

theorem core_dropPairLog (p : Nat) (m : Nat) (s : State) :
    core (dropPairLog p m s) = core s := by
  unfold dropPairLog
  repeat' (first
    | with_reducible rfl
    | simp only [core_mk, core_parts, core_view, apply_ite core, ite_self]
    | split
    | (refine (core_foldl _ (fun s a => ?_) _ _).trans ?_)
    | rfl)

theorem core_pairBefore (p : Nat) (m : Nat) (s : State) :
    core (pairBefore p m s) = core s := by
  unfold pairBefore
  repeat' (first
    | with_reducible rfl
    | simp only [core_mk, core_parts, core_view, apply_ite core, ite_self, core_dropPairLog, core_setPair]
    | split
    | (refine (core_foldl _ (fun s a => ?_) _ _).trans ?_)
    | rfl)

theorem core_pairChange (p : Nat) (m : Nat) (s : State) :
    core (pairChange p m s) = core s := by
  unfold pairChange
  repeat' (first
    | with_reducible rfl
    | simp only [core_mk, core_parts, core_view, apply_ite core, ite_self, core_pairBefore, core_pairStep]
    | split
    | (refine (core_foldl _ (fun s a => ?_) _ _).trans ?_)
    | rfl)

theorem core_biChange (n : Nat) (since : Nat) (m : Nat) (s : State) :
    core (biChange n since m s) = core s := by
  unfold biChange
  repeat' (first
    | with_reducible rfl
    | simp only [core_mk, core_parts, core_view, apply_ite core, ite_self, core_pairChange, core_biLog]
    | split
    | (refine (core_foldl _ (fun s a => ?_) _ _).trans ?_)
    | rfl)

theorem core_pairDiscrepancy (p : ℕ) (m : ℕ) (s : State) :
    core (pairDiscrepancy p m s) = core s := by
  unfold pairDiscrepancy
  repeat' (first
    | with_reducible rfl
    | simp only [core_mk, core_parts, core_view, apply_ite core, ite_self, core_count, core_sticky, core_tally,
        core_biLog, core_setPair]
    | split
    | (refine (core_foldl _ (fun s a => ?_) _ _).trans ?_)
    | rfl)

theorem core_pairRecovery (p : ℕ) (m : ℕ) (s : State) :
    core (pairRecovery p m s) = core s := by
  unfold pairRecovery
  repeat' (first
    | with_reducible rfl
    | simp only [core_mk, core_parts, core_view, apply_ite core, ite_self, core_tally, core_biLog, core_setPair]
    | split
    | (refine (core_foldl _ (fun s a => ?_) _ _).trans ?_)
    | rfl)

theorem core_pairReplay (p : Nat) (m : Nat) (s : State) :
    core (pairReplay p m s) = core s := by
  unfold pairReplay
  repeat' (first
    | with_reducible rfl
    | simp only [core_mk, core_parts, core_view, apply_ite core, ite_self, core_pairStep, core_pairRecovery,
        core_pairDiscrepancy]
    | split
    | (refine (core_foldl _ (fun s a => ?_) _ _).trans ?_)
    | rfl)

theorem core_trimBiLog (k : ℕ) (s : State) :
    core (trimBiLog k s) = core s := by
  unfold trimBiLog
  repeat' (first
    | with_reducible rfl
    | simp only [core_mk, core_parts, core_view, apply_ite core, ite_self]
    | split
    | (refine (core_foldl _ (fun s a => ?_) _ _).trans ?_)
    | rfl)

theorem core_reportTruncated (r : Rec) (s : State) :
    core (reportTruncated r s) = core s := by
  unfold reportTruncated
  repeat' (first
    | with_reducible rfl
    | simp only [core_mk, core_parts, core_view, apply_ite core, ite_self, core_count, core_sticky, core_tally]
    | split
    | (refine (core_foldl _ (fun s a => ?_) _ _).trans ?_)
    | rfl)

theorem core_reportLost (cause : ℕ) (trig : ℕ) (why : ℕ) (s : State) :
    core (reportLost cause trig why s) = core s := by
  unfold reportLost
  repeat' (first
    | with_reducible rfl
    | simp only [core_mk, core_parts, core_view, apply_ite core, ite_self, core_count, core_sticky, core_tally]
    | split
    | (refine (core_foldl _ (fun s a => ?_) _ _).trans ?_)
    | rfl)

theorem core_reserve (r : Rec) (s : State) :
    core (reserve r s).2 = core s := by
  unfold reserve
  repeat' (first
    | with_reducible rfl
    | simp only [core_mk, core_parts, core_view, apply_ite core, ite_self, core_reportTruncated, core_reportLost]
    | split
    | (refine (core_foldl _ (fun s a => ?_) _ _).trans ?_)
    | rfl)

theorem core_closeRecords (p : Rec → Bool) (s : State) :
    core (closeRecords p s) = core s := by
  unfold closeRecords
  repeat' (first
    | with_reducible rfl
    | simp only [core_mk, core_parts, core_view, apply_ite core, ite_self]
    | split
    | (refine (core_foldl _ (fun s a => ?_) _ _).trans ?_)
    | rfl)

theorem core_closeEarly (p : Rec → Bool) (m : ℕ) (flag : ℕ) (s : State) :
    core (closeEarly p m flag s) = core s := by
  unfold closeEarly
  repeat' (first
    | with_reducible rfl
    | simp only [core_mk, core_parts, core_view, apply_ite core, ite_self, core_closeRecords]
    | split
    | (refine (core_foldl _ (fun s a => ?_) _ _).trans ?_)
    | rfl)

theorem core_releaseThrough (n : ℕ) (s : State) : core (releaseThrough n s) = core s := rfl

theorem core_overwriteOldest (need : ℕ) (n : ℕ) (s : State) : core (overwriteOldest need n s) = core s := by
  induction n generalizing s with
  | zero => rfl
  | succ n ih =>
    unfold overwriteOldest
    repeat' (first
      | with_reducible rfl
      | simp only [core_mk, core_parts, core_view, ih, apply_ite core, ite_self, core_count, core_tally,
          core_releaseThrough]
      | split)

theorem core_finishSeal (s : State) : core (finishSeal s) = core s := by
  unfold finishSeal
  split <;> rfl

theorem core_persist (ok : Bool) (deviceError : Bool) (status : Word) (s : State) :
    core (persist ok deviceError status s) = core s := by
  unfold persist
  repeat' (first
    | with_reducible rfl
    | simp only [core_mk, core_parts, core_view, apply_ite core, ite_self, core_sticky, core_tally, core_postEvent,
        core_overwriteOldest, core_finishSeal]
    | split
    | (refine (core_foldl _ (fun s a => ?_) _ _).trans ?_)
    | rfl)

theorem core_retryStore (ok : Bool) (deviceError : Bool) (status : Word) (s : State) :
    core (retryStore ok deviceError status s) = core s := by
  unfold retryStore
  repeat' (first
    | with_reducible rfl
    | simp only [core_mk, core_parts, core_view, apply_ite core, ite_self, core_persist]
    | split
    | (refine (core_foldl _ (fun s a => ?_) _ _).trans ?_)
    | rfl)

theorem core_walkLog (s : State) :
    core (walkLog s) = core s := by
  unfold walkLog
  repeat' (first
    | with_reducible rfl
    | simp only [core_mk, core_parts, core_view, apply_ite core, ite_self]
    | split
    | (refine (core_foldl _ (fun s a => ?_) _ _).trans ?_)
    | rfl)

theorem core_shrinkOpen (m : ℕ) (n : ℕ) (s : State) : core (shrinkOpen m n s) = core s := by
  induction n generalizing s with
  | zero => rfl
  | succ n ih =>
    unfold shrinkOpen
    repeat' (first
      | with_reducible rfl
      | simp only [core_mk, core_parts, core_view, ih, apply_ite core, ite_self, core_reportTruncated, core_closeRecords]
      | split)

theorem core_redraw (s : State) :
    core (redraw s) = core s := by
  unfold redraw
  repeat' (first
    | with_reducible rfl
    | simp only [core_mk, core_parts, core_view, apply_ite core, ite_self]
    | split
    | (refine (core_foldl _ (fun s a => ?_) _ _).trans ?_)
    | rfl)

theorem core_dropHit (hit : List ℕ) (s : State) : core (dropHit hit s) = core s := by
  unfold dropHit
  exact core_foldl _ (fun s a => core_reportLost _ _ _ s) _ _

theorem core_ddrFault (correctable : Bool) (remaining : Option ℕ) (hit : List ℕ) (s : State) :
    core (ddrFault correctable remaining hit s) = core s := by
  unfold ddrFault
  repeat' (first
    | with_reducible rfl
    | simp only [core_mk, core_parts, core_view, apply_ite core, ite_self, core_count, core_sticky, core_dropHit,
        core_shrinkOpen, core_redraw]
    | split
    | (refine (core_foldl _ (fun s a => ?_) _ _).trans ?_)
    | rfl)

theorem core_setLane (n : ℕ) (st : LaneState) (s : State) :
    core (setLane n st s) = core s := by
  unfold setLane
  repeat' (first
    | with_reducible rfl
    | simp only [core_mk, core_parts, core_view, apply_ite core, ite_self]
    | split
    | (refine (core_foldl _ (fun s a => ?_) _ _).trans ?_)
    | rfl)

theorem core_setPosition (p : ℕ) (n : Option ℕ) (s : State) :
    core (setPosition p n s) = core s := by
  unfold setPosition
  repeat' (first
    | with_reducible rfl
    | simp only [core_mk, core_parts, core_view, apply_ite core, ite_self]
    | split
    | (refine (core_foldl _ (fun s a => ?_) _ _).trans ?_)
    | rfl)

theorem core_laneDone (lane : ℕ) (agrees : Bool) (s : State) :
    core (laneDone lane agrees s) = core s := by
  unfold laneDone
  repeat' (first
    | with_reducible rfl
    | simp only [core_mk, core_parts, core_view, apply_ite core, ite_self, core_traceMsg, core_takeFree]
    | split
    | (refine (core_foldl _ (fun s a => ?_) _ _).trans ?_)
    | rfl)

theorem core_degradeZone (k : ℕ) (cause : ℕ) (z : ℕ) (s : State) :
    core (degradeZone k cause z s) = core s := by
  unfold degradeZone
  repeat' (first
    | with_reducible rfl
    | simp only [core_mk, core_parts, core_view, apply_ite core, ite_self, core_sticky, core_tally, core_setZone]
    | split
    | (refine (core_foldl _ (fun s a => ?_) _ _).trans ?_)
    | rfl)

theorem core_toDegraded (s : State) :
    core (toDegraded s) = core s := by
  unfold toDegraded
  repeat' (first
    | with_reducible rfl
    | simp only [core_mk, core_parts, core_view, apply_ite core, ite_self]
    | split
    | (refine (core_foldl _ (fun s a => ?_) _ _).trans ?_)
    | rfl)

theorem core_degradeAll (k : ℕ) (cause : ℕ) (zs : List ℕ) (s : State) :
    core (degradeAll k cause zs s) = core s := by
  unfold degradeAll
  repeat' (first
    | with_reducible rfl
    | simp only [core_mk, core_parts, core_view, apply_ite core, ite_self, core_degradeZone, core_toDegraded]
    | split
    | (refine (core_foldl _ (fun s a => ?_) _ _).trans ?_)
    | rfl)

theorem core_degradeEvery (k : ℕ) (s : State) :
    core (degradeEvery k s) = core s := by
  unfold degradeEvery
  repeat' (first
    | with_reducible rfl
    | simp only [core_mk, core_parts, core_view, apply_ite core, ite_self, core_sticky, core_tally, core_setZone,
        core_toDegraded]
    | split
    | (refine (core_foldl _ (fun s a => ?_) _ _).trans ?_)
    | rfl)

theorem core_markPosition (pos : Nat) (s : State) : core (markPosition pos s) = core s := rfl

theorem core_retireServing (k : Nat) (lane : Nat) (pos : Nat) (cause : Nat) (s : State) :
    core (retireServing k lane pos cause s) = core s := by
  unfold retireServing
  repeat' (first
    | with_reducible rfl
    | simp only [core_mk, core_parts, core_view, apply_ite core, ite_self, core_setPosition, core_setLane,
        core_sticky, core_tally, core_markPosition]
    | split
    | (refine (core_foldl _ (fun s a => ?_) _ _).trans ?_)
    | rfl)

theorem core_overrun (k : ℕ) (lane : ℕ) (z : ℕ) (s : State) :
    core (overrun k lane z s) = core s := by
  unfold overrun
  repeat' (first
    | with_reducible rfl
    | simp only [core_mk, core_parts, core_view, apply_ite core, ite_self, core_count, core_sticky, core_tally]
    | split
    | (refine (core_foldl _ (fun s a => ?_) _ _).trans ?_)
    | rfl)

theorem core_missPosition (p : ℕ) (s : State) :
    core (missPosition p s) = core s := by
  unfold missPosition
  repeat' (first
    | with_reducible rfl
    | simp only [core_mk, core_parts, core_view, apply_ite core, ite_self]
    | split
    | (refine (core_foldl _ (fun s a => ?_) _ _).trans ?_)
    | rfl)

theorem core_holdSegments (p : ℕ) (s : State) :
    core (holdSegments p s) = core s := by
  unfold holdSegments
  repeat' (first
    | with_reducible rfl
    | simp only [core_mk, core_parts, core_view, apply_ite core, ite_self]
    | split
    | (refine (core_foldl _ (fun s a => ?_) _ _).trans ?_)
    | rfl)

theorem core_makeSuspect (x : Suspect) (s : State) :
    core (makeSuspect x s) = core s := by
  unfold makeSuspect
  repeat' (first
    | with_reducible rfl
    | simp only [core_mk, core_parts, core_view, apply_ite core, ite_self]
    | split
    | (refine (core_foldl _ (fun s a => ?_) _ _).trans ?_)
    | rfl)

theorem core_markMismatch (k : ℕ) (s : State) : core (markMismatch k s) = core s := by
  unfold markMismatch
  split
  · exact (core_sticky _ _ _).trans (core_count _ _ _)
  · rfl

theorem core_laneCheck (k : ℕ) (s : State) :
    core (laneCheck k s).2 = core s := by
  unfold laneCheck
  repeat' (first
    | with_reducible rfl
    | simp only [core_mk, core_parts, core_view, apply_ite core, ite_self, core_count, core_sticky, core_overrun,
        core_missPosition, core_holdSegments, core_makeSuspect]
    | split
    | (refine (core_foldl _ (fun s a => ?_) _ _).trans ?_)
    | rfl)

theorem core_applyResults (f : LaneFindings) (s : State) :
    core (applyResults f s) = core s := by
  unfold applyResults
  repeat' (first
    | with_reducible rfl
    | simp only [core_mk, core_parts, core_view, apply_ite core, ite_self, core_tally, core_setZone]
    | split
    | (refine (core_foldl _ (fun s a => ?_) _ _).trans ?_)
    | rfl)

theorem core_recallOutcome (k : Nat) (x : Suspect) (pass : Bool) (s : State) :
    core (recallOutcome k x pass s) = core s := by
  unfold recallOutcome
  repeat' (first
    | with_reducible rfl
    | simp only [core_mk, core_parts, core_view, apply_ite core, ite_self, core_markPosition, core_setLane, core_sticky,
        core_setPosition, core_tally]
    | split
    | (refine (core_foldl _ (fun s a => ?_) _ _).trans ?_)
    | rfl)

theorem core_suspectOutcome (k : ℕ) (x1 : Suspect) (sp : ℕ) (katL : Bool) (katS : Bool) (s : State) :
    core (suspectOutcome k x1 sp katL katS s) = core s := by
  unfold suspectOutcome
  repeat' (first
    | with_reducible rfl
    | simp only [core_mk, core_parts, core_view, apply_ite core, ite_self, core_sticky, core_tally, core_setLane,
        core_setPosition, core_retireServing]
    | split
    | (refine (core_foldl _ (fun s a => ?_) _ _).trans ?_)
    | rfl)

theorem core_decideSuspect (k : ℕ) (failed : List ℕ) (katS : Bool) (spare : Option ℕ) (s : State) (x : Suspect) :
    core (decideSuspect k failed katS spare s x) = core s := by
  unfold decideSuspect
  repeat' (first
    | with_reducible rfl
    | simp only [core_mk, core_parts, core_view, apply_ite core, ite_self, core_sticky, core_tally,
        core_retireServing, core_recallOutcome, core_suspectOutcome]
    | split
    | rfl)

theorem core_laneBoundary (k : ℕ) (failed : List ℕ) (katS : Bool) (f : LaneFindings) (s : State) :
    core (laneBoundary k failed katS f s) = core s := by
  unfold laneBoundary
  repeat' (first
    | with_reducible rfl
    | simp only [core_mk, core_parts, core_view, apply_ite core, ite_self, core_sticky, core_setLane,
        core_retireServing, core_decideSuspect]
    | split
    | (refine (core_foldl _ (fun s a => ?_) _ _).trans ?_)
    | rfl)

theorem core_knownAnswer (lane : ℕ) (endToken : Word) (digest : Quad) (words : ℕ) (s : State) :
    core (knownAnswer lane endToken digest words s) = core s := by
  unfold knownAnswer
  repeat' (first
    | with_reducible rfl
    | simp only [core_mk, core_parts, core_view, apply_ite core, ite_self, core_sticky, core_tally, core_makeSuspect]
    | split
    | (refine (core_foldl _ (fun s a => ?_) _ _).trans ?_)
    | rfl)

theorem core_repartition (s : State) :
    core (repartition s) = core s := by
  unfold repartition
  repeat' (first
    | with_reducible rfl
    | simp only [core_mk, core_parts, core_view, apply_ite core, ite_self, core_setPosition]
    | split
    | (refine (core_foldl _ (fun s a => ?_) _ _).trans ?_)
    | rfl)

theorem core_setTrig (p : ℕ) (x1 : Trig) (s : State) :
    core (setTrig p x1 s) = core s := by
  unfold setTrig
  repeat' (first
    | with_reducible rfl
    | simp only [core_mk, core_parts, core_view, apply_ite core, ite_self]
    | split
    | (refine (core_foldl _ (fun s a => ?_) _ _).trans ?_)
    | rfl)

theorem core_stepProgram (p : Nat) (ws : List Word) (m : Nat) (s : State) :
    core (stepProgram p ws m s) = core s := by
  unfold stepProgram
  repeat' (first
    | with_reducible rfl
    | simp only [core_mk, core_parts, core_view, apply_ite core, ite_self, core_setTrig, core_count]
    | split
    | (refine (core_foldl _ (fun s a => ?_) _ _).trans ?_)
    | rfl)

theorem core_closeByMasks (progs : List (ℕ × List Word)) (m : ℕ) (s : State) :
    core (closeByMasks progs m s) = core s := by
  unfold closeByMasks
  repeat' (first
    | with_reducible rfl
    | simp only [core_mk, core_parts, core_view, apply_ite core, ite_self]
    | split
    | (refine (core_foldl _ (fun s a => ?_) _ _).trans ?_)
    | rfl)

theorem core_extendRecord (r : Rec) (post : Nat) (mr : Nat) (s : State) :
    core (extendRecord r post mr s) = core s := by
  unfold extendRecord
  repeat' (first
    | with_reducible rfl
    | simp only [core_mk, core_parts, core_view, apply_ite core, ite_self, core_reserve]
    | split
    | (refine (core_foldl _ (fun s a => ?_) _ _).trans ?_)
    | rfl)

theorem core_openGroup (k : Nat) (m : Nat) (mt : Nat) (fires : List Fire) (s : State) :
    core (openGroup k m mt fires s) = core s := by
  unfold openGroup
  repeat' (first
    | with_reducible rfl
    | simp only [core_mk, core_parts, core_view, apply_ite core, ite_self, core_count, core_tally, core_reserve]
    | split
    | (refine (core_foldl _ (fun s a => ?_) _ _).trans ?_)
    | rfl)

theorem core_sendCross (f : Fire) (s : State) :
    core (sendCross f s) = core s := by
  unfold sendCross
  repeat' (first
    | with_reducible rfl
    | simp only [core_mk, core_parts, core_view, apply_ite core, ite_self]
    | split
    | (refine (core_foldl _ (fun s a => ?_) _ _).trans ?_)
    | rfl)

theorem core_notePoints (k : ℕ) (s : State) :
    core (notePoints k s) = core s := by
  unfold notePoints
  repeat' (first
    | with_reducible rfl
    | simp only [core_mk, core_parts, core_view, apply_ite core, ite_self]
    | split
    | (refine (core_foldl _ (fun s a => ?_) _ _).trans ?_)
    | rfl)

theorem core_crossIn (port : ℕ) (src : ℕ) (program : ℕ) (m : ℕ) (s : State) :
    core (crossIn port src program m s) = core s := by
  unfold crossIn
  repeat' (first
    | with_reducible rfl
    | simp only [core_mk, core_parts, core_view, apply_ite core, ite_self, core_count]
    | split
    | (refine (core_foldl _ (fun s a => ?_) _ _).trans ?_)
    | rfl)

theorem core_thresherPackage (old : Option Package) (seen : FMap Bool) (j : Nat) (s : State) :
    core (thresherPackage old seen j s) = core s := by
  unfold thresherPackage
  repeat' (first
    | with_reducible rfl
    | simp only [core_mk, core_parts, core_view, apply_ite core, ite_self, core_closeEarly]
    | split
    | (refine (core_foldl _ (fun s a => ?_) _ _).trans ?_)
    | rfl)

theorem core_thresherRestart (m : Nat) (flag : Nat) (from' : Nat) (s : State) :
    core (thresherRestart m flag from' s) = core s := by
  unfold thresherRestart
  repeat' (first
    | with_reducible rfl
    | simp only [core_mk, core_parts, core_view, apply_ite core, ite_self, core_closeEarly]
    | split
    | (refine (core_foldl _ (fun s a => ?_) _ _).trans ?_)
    | rfl)

theorem core_presetReached (p : ℕ) (timer : ℕ) (s : State) :
    core (presetReached p timer s) = core s := by
  unfold presetReached
  repeat' (first
    | with_reducible rfl
    | simp only [core_mk, core_parts, core_view, apply_ite core, ite_self, core_setTrig]
    | split
    | (refine (core_foldl _ (fun s a => ?_) _ _).trans ?_)
    | rfl)

theorem core_maskAct (p : Nat) (i : Nat) (m : Nat) (s : State) :
    core (maskAct p i m s) = core s := by
  unfold maskAct
  repeat' (first
    | with_reducible rfl
    | simp only [core_mk, core_parts, core_view, apply_ite core, ite_self, core_setTrig, core_count,
        core_closeRecords, core_closeByMasks]
    | split
    | (refine (core_foldl _ (fun s a => ?_) _ _).trans ?_)
    | rfl)

end Sys2Proof.Machine
end

