-- ==== Sys2Proof/Laws/CoreEngine.lean ====
section
/-!
SUPPORT. The core is kept: registers, mailbox, self-test, commands, stores, pairs, boundaries, starts, power, ports.
-/
set_option linter.all false

namespace Sys2Proof.Machine

theorem core_prpFilter (f : Frame) (s : State) :
    core (prpFilter f s).2 = core s := by
  unfold prpFilter
  repeat' (first
    | with_reducible rfl
    | simp only [core_mk, core_parts, core_view, apply_ite core, ite_self, core_prpCheck, core_lanReturn]
    | split
    | (refine (core_foldl _ (fun s a => ?_) _ _).trans ?_)
    | rfl)

theorem core_portFrameIn (f : Frame) (s : State) :
    core (portFrameIn f s) = core s := by
  unfold portFrameIn
  repeat' (first
    | with_reducible rfl
    | simp only [core_mk, core_parts, core_view, apply_ite core, ite_self, core_advance, core_count,
        core_tenonExtract, core_prpFilter, core_setPort]
    | split
    | (refine (core_foldl _ (fun s a => ?_) _ _).trans ?_)
    | rfl)

theorem core_nodeExpiry (port : ℕ) (src : Mac) (t : Time) (s : State) :
    core (nodeExpiry port src t s) = core s := by
  unfold nodeExpiry
  repeat' (first
    | with_reducible rfl
    | simp only [core_mk, core_parts, core_view, apply_ite core, ite_self, core_advance]
    | split
    | (refine (core_foldl _ (fun s a => ?_) _ _).trans ?_)
    | rfl)

theorem core_oneLan (port : ℕ) (src : Mac) (t : Time) (s : State) :
    core (oneLan port src t s) = core s := by
  unfold oneLan
  repeat' (first
    | with_reducible rfl
    | simp only [core_mk, core_parts, core_view, apply_ite core, ite_self, core_advance, core_lanDown]
    | split
    | (refine (core_foldl _ (fun s a => ?_) _ _).trans ?_)
    | rfl)

theorem core_linkChange (n : Nat) (up : Bool) (s : State) :
    core (linkChange n up s) = core s := by
  unfold linkChange
  repeat' (first
    | with_reducible rfl
    | simp only [core_mk, core_parts, core_view, apply_ite core, ite_self, core_setPort, core_lanDown, core_tally,
        core_selectMaster, core_setPtp]
    | split
    | (refine (core_foldl _ (fun s a => ?_) _ _).trans ?_)
    | rfl)

theorem core_ldfSlip (d : Nat) (path : Nat) (seq : Nat) (s : State) :
    core (ldfSlip d path seq s) = core s := by
  unfold ldfSlip
  repeat' (first
    | with_reducible rfl
    | simp only [core_mk, core_parts, core_view, apply_ite core, ite_self, core_setLdf]
    | split
    | (refine (core_foldl _ (fun s a => ?_) _ _).trans ?_)
    | rfl)

theorem core_sendTimed (n : Nat) (t : Time) (occupied : Bool) (e : Launch) (s : State) :
    core (sendTimed n t occupied e s) = core s := by
  unfold sendTimed
  repeat' (first
    | with_reducible rfl
    | simp only [core_mk, core_parts, core_view, apply_ite core, ite_self, core_count, core_ldfSlip, core_sendNow]
    | split
    | (refine (core_foldl _ (fun s a => ?_) _ _).trans ?_)
    | rfl)

theorem core_launch (n : Nat) (achieved : Time) (occupied : Bool) (s : State) :
    core (launch n achieved occupied s) = core s := by
  unfold launch
  repeat' (first
    | with_reducible rfl
    | simp only [core_mk, core_parts, core_view, apply_ite core, ite_self, core_advance, core_setPort,
        core_sendTimed, core_releaseUntimed]
    | split
    | (refine (core_foldl _ (fun s a => ?_) _ _).trans ?_)
    | rfl)

theorem core_dovetailIn (port : Nat) (srcEngine : Nat) (srcSlot : Nat) (m : Nat) (value : Int) (quality :
    Word) (s : State) :
    core (dovetailIn port srcEngine srcSlot m value quality s) = core s := by
  unfold dovetailIn
  repeat' (first
    | with_reducible rfl
    | simp only [core_mk, core_parts, core_view, apply_ite core, ite_self, core_storeSample]
    | split
    | (refine (core_foldl _ (fun s a => ?_) _ _).trans ?_)
    | rfl)

theorem core_dovetailPublish (k : ℕ) (s : State) : core (dovetailPublish k s) = core s := rfl

theorem core_dovetailMissing (k : ℕ) (s : State) :
    core (dovetailMissing k s) = core s := by
  unfold dovetailMissing
  repeat' (first
    | with_reducible rfl
    | simp only [core_mk, core_parts, core_view, apply_ite core, ite_self, core_count, core_storeSample]
    | split
    | (refine (core_foldl _ (fun s a => ?_) _ _).trans ?_)
    | rfl)

theorem core_dovetailLink (n : ℕ) (up : Bool) (s : State) :
    core (dovetailLink n up s) = core s := by
  unfold dovetailLink
  repeat' (first
    | with_reducible rfl
    | simp only [core_mk, core_parts, core_view, apply_ite core, ite_self, core_sticky, core_tally]
    | split
    | (refine (core_foldl _ (fun s a => ?_) _ _).trans ?_)
    | rfl)

theorem core_vanaStart (t : Time) (s : State) :
    core (vanaStart t s) = core s := by
  unfold vanaStart
  repeat' (first
    | with_reducible rfl
    | simp only [core_mk, core_parts, core_view, apply_ite core, ite_self, core_advance, core_tally]
    | split
    | (refine (core_foldl _ (fun s a => ?_) _ _).trans ?_)
    | rfl)

theorem core_vanaEnd (t : Time) (s : State) :
    core (vanaEnd t s) = core s := by
  unfold vanaEnd
  repeat' (first
    | with_reducible rfl
    | simp only [core_mk, core_parts, core_view, apply_ite core, ite_self, core_advance, core_tally]
    | split
    | (refine (core_foldl _ (fun s a => ?_) _ _).trans ?_)
    | rfl)

theorem core_stall (n : Nat) (t : Time) (s : State) :
    core (stall n t s) = core s := by
  unfold stall
  repeat' (first
    | with_reducible rfl
    | simp only [core_mk, core_parts, core_view, apply_ite core, ite_self, core_advance, core_failSlice]
    | split
    | (refine (core_foldl _ (fun s a => ?_) _ _).trans ?_)
    | rfl)

theorem core_withRole (f : State → State) (s : State) : core (withRole f s) = core (f s) := by
  unfold withRole
  dsimp only
  split
  · rfl
  · exact core_postEvent _ _ _

theorem core_zstCommit (k : ℕ) (s : State) : core (zstCommit k s) = { core s with zst := (zstCommit k s).zst, zstHidden
    := s.zst } := by
  rfl

theorem core_captureTime (v : View) (t : Time) (s : State) :
    core (captureTime v t s) = core s := by
  unfold captureTime
  repeat' (first
    | with_reducible rfl
    | simp only [core_mk, core_parts, core_view, apply_ite core, ite_self, core_advance, core_State_setView]
    | split
    | (refine (core_foldl _ (fun s a => ?_) _ _).trans ?_)
    | rfl)

theorem core_readWord (v : View) (o : ℕ) (s : State) :
    core (readWord v o s) = core s := by
  unfold readWord
  repeat' (first
    | with_reducible rfl
    | simp only [core_mk, core_parts, core_view, apply_ite core, ite_self, core_State_setView, core_captureTime]
    | split
    | (refine (core_foldl _ (fun s a => ?_) _ _).trans ?_)
    | rfl)

theorem core_snapshotStart (k : ℕ) (v : View) (s : State) :
    core (snapshotStart k v s) = core s := by
  unfold snapshotStart
  repeat' (first
    | with_reducible rfl
    | simp only [core_mk, core_parts, core_view, apply_ite core, ite_self, core_State_setView]
    | split
    | (refine (core_foldl _ (fun s a => ?_) _ _).trans ?_)
    | rfl)

theorem core_snapshotDone (v : View) (s : State) :
    core (snapshotDone v s) = core s := by
  unfold snapshotDone
  repeat' (first
    | with_reducible rfl
    | simp only [core_mk, core_parts, core_view, apply_ite core, ite_self, core_State_setView]
    | split
    | (refine (core_foldl _ (fun s a => ?_) _ _).trans ?_)
    | rfl)

theorem core_snapshotWrite (v : View) (w : Word) (s : State) :
    core (snapshotWrite v w s) = core s := by
  unfold snapshotWrite
  repeat' (first
    | with_reducible rfl
    | simp only [core_mk, core_parts, core_view, apply_ite core, ite_self, core_State_setView]
    | split
    | (refine (core_foldl _ (fun s a => ?_) _ _).trans ?_)
    | rfl)

theorem core_drainHeld (v : View) (s : State) :
    core (drainHeld v s) = core s := by
  unfold drainHeld
  repeat' (first
    | with_reducible rfl
    | simp only [core_mk, core_parts, core_view, apply_ite core, ite_self, core_State_setView]
    | split
    | (refine (core_foldl _ (fun s a => ?_) _ _).trans ?_)
    | rfl)

theorem core_tailWrite (v : View) (w : Word) (s : State) :
    core (tailWrite v w s) = core s := by
  unfold tailWrite
  repeat' (first
    | with_reducible rfl
    | simp only [core_mk, core_parts, core_view, apply_ite core, ite_self, core_State_setView, core_drainHeld]
    | split
    | (refine (core_foldl _ (fun s a => ?_) _ _).trans ?_)
    | rfl)

theorem core_msixUnmask (v : View) (n : ℕ) (s : State) :
    core (msixUnmask v n s) = core s := by
  unfold msixUnmask
  repeat' (first
    | with_reducible rfl
    | simp only [core_mk, core_parts, core_view, apply_ite core, ite_self, core_State_setView]
    | split
    | (refine (core_foldl _ (fun s a => ?_) _ _).trans ?_)
    | rfl)

theorem core_flr (v : View) (s : State) :
    core (flr v s) = core s := by
  unfold flr
  repeat' (first
    | with_reducible rfl
    | simp only [core_mk, core_parts, core_view, apply_ite core, ite_self, core_State_setView, core_drainHeld]
    | split
    | (refine (core_foldl _ (fun s a => ?_) _ _).trans ?_)
    | rfl)

theorem core_linkLost (s : State) :
    core (linkLost s) = core s := by
  unfold linkLost
  repeat' (first
    | with_reducible rfl
    | simp only [core_mk, core_parts, core_view, apply_ite core, ite_self]
    | split
    | (refine (core_foldl _ (fun s a => ?_) _ _).trans ?_)
    | rfl)

theorem core_linkBack (s : State) :
    core (linkBack s) = core s := by
  unfold linkBack
  repeat' (first
    | with_reducible rfl
    | simp only [core_mk, core_parts, core_view, apply_ite core, ite_self, core_drainHeld]
    | split
    | (refine (core_foldl _ (fun s a => ?_) _ _).trans ?_)
    | rfl)

theorem core_toD3 (v : View) (s : State) :
    core (toD3 v s) = core s := by
  unfold toD3
  repeat' (first
    | with_reducible rfl
    | simp only [core_mk, core_parts, core_view, apply_ite core, ite_self, core_State_setView]
    | split
    | (refine (core_foldl _ (fun s a => ?_) _ _).trans ?_)
    | rfl)

theorem core_toD0 (v : View) (s : State) :
    core (toD0 v s) = core s := by
  unfold toD0
  repeat' (first
    | with_reducible rfl
    | simp only [core_mk, core_parts, core_view, apply_ite core, ite_self, core_State_setView, core_drainHeld]
    | split
    | (refine (core_foldl _ (fun s a => ?_) _ _).trans ?_)
    | rfl)

theorem core_setBusMaster (b : Bool) (v : View) (s : State) :
    core (setBusMaster b v s) = core s := by
  unfold setBusMaster
  repeat' (first
    | with_reducible rfl
    | simp only [core_mk, core_parts, core_view, apply_ite core, ite_self, core_State_setView]
    | split
    | (refine (core_foldl _ (fun s a => ?_) _ _).trans ?_)
    | rfl)

theorem core_slotWrite (v : View) (o : ℕ) (w : Word) (s : State) :
    core (slotWrite v o w s) = core s := by
  unfold slotWrite
  repeat' (first
    | with_reducible rfl
    | simp only [core_mk, core_parts, core_view, apply_ite core, ite_self, core_State_setView]
    | split
    | (refine (core_foldl _ (fun s a => ?_) _ _).trans ?_)
    | rfl)

theorem core_fillSnapshots (k : ℕ) (s : State) :
    core (fillSnapshots k s) = core s := by
  unfold fillSnapshots
  repeat' (first
    | with_reducible rfl
    | simp only [core_mk, core_parts, core_view, apply_ite core, ite_self, core_tally]
    | split
    | (refine (core_foldl _ (fun s a => ?_) _ _).trans ?_)
    | rfl)

theorem core_postCompletion (v : View) (slot : ℕ) (hostSeq : Quad) (status : Half) (cflags : Half) (engineSeq : Quad)
    (result : List Byte) (s : State) :
    core (postCompletion v slot hostSeq status cflags engineSeq result s) = core s := by
  unfold postCompletion
  repeat' (first
    | with_reducible rfl
    | simp only [core_mk, core_parts, core_view, apply_ite core, ite_self, core_sticky, core_State_setView, core_traceMsg]
    | split
    | (refine (core_foldl _ (fun s a => ?_) _ _).trans ?_)
    | rfl)

theorem core_setStage (v : View) (e : Inflight) (st : Stage) (s : State) :
    core (setStage v e st s) = core s := by
  unfold setStage
  repeat' (first
    | with_reducible rfl
    | simp only [core_mk, core_parts, core_view, apply_ite core, ite_self, core_State_setView]
    | split
    | (refine (core_foldl _ (fun s a => ?_) _ _).trans ?_)
    | rfl)

theorem core_dropInflight (v : View) (e : Inflight) (s : State) :
    core (dropInflight v e s) = core s := by
  unfold dropInflight
  repeat' (first
    | with_reducible rfl
    | simp only [core_mk, core_parts, core_view, apply_ite core, ite_self, core_State_setView]
    | split
    | (refine (core_foldl _ (fun s a => ?_) _ _).trans ?_)
    | rfl)

theorem core_journalDone (v : View) (c : Completed) (s : State) :
    core (journalDone v c s) = core s := by
  unfold journalDone
  repeat' (first
    | with_reducible rfl
    | simp only [core_mk, core_parts, core_view, apply_ite core, ite_self, core_State_setView]
    | split
    | (refine (core_foldl _ (fun s a => ?_) _ _).trans ?_)
    | rfl)

theorem core_finish (v : View) (e : Inflight) (status : Half) (cflags : Half) (result : List Byte) (s : State) :
    core (finish v e status cflags result s) = core s := by
  unfold finish
  repeat' (first
    | with_reducible rfl
    | simp only [core_mk, core_parts, core_view, apply_ite core, ite_self, core_sticky, core_postCompletion,
        core_dropInflight, core_journalDone]
    | split
    | (refine (core_foldl _ (fun s a => ?_) _ _).trans ?_)
    | rfl)

theorem core_complete (v : View) (e : Inflight) (status : Half) (cflags : Half) (result : List Byte) (s : State) :
    core (complete v e status cflags result s) = core s := by
  unfold complete
  repeat' (first
    | with_reducible rfl
    | simp only [core_mk, core_parts, core_view, apply_ite core, ite_self, core_setStage, core_finish]
    | split
    | (refine (core_foldl _ (fun s a => ?_) _ _).trans ?_)
    | rfl)

theorem core_rejectNow (v : View) (slot : ℕ) (h : Quad) (status : Half) (s : State) :
    core (rejectNow v slot h status s) = core s := by
  unfold rejectNow
  repeat' (first
    | with_reducible rfl
    | simp only [core_mk, core_parts, core_view, apply_ite core, ite_self, core_postCompletion]
    | split
    | (refine (core_foldl _ (fun s a => ?_) _ _).trans ?_)
    | rfl)

theorem core_replayNow (v : View) (slot : ℕ) (c : Completed) (s : State) :
    core (replayNow v slot c s) = core s := by
  unfold replayNow
  repeat' (first
    | with_reducible rfl
    | simp only [core_mk, core_parts, core_view, apply_ite core, ite_self, core_count, core_sticky, core_postCompletion]
    | split
    | (refine (core_foldl _ (fun s a => ?_) _ _).trans ?_)
    | rfl)

theorem core_acceptedNow (v : View) (slot : ℕ) (h : Quad) (engineSeq : Quad) (s : State) :
    core (acceptedNow v slot h engineSeq s) = core s := by
  unfold acceptedNow
  repeat' (first
    | with_reducible rfl
    | simp only [core_mk, core_parts, core_view, apply_ite core, ite_self, core_count, core_sticky, core_postCompletion]
    | split
    | (refine (core_foldl _ (fun s a => ?_) _ _).trans ?_)
    | rfl)

theorem core_addInflight (v : View) (e : Inflight) (s : State) :
    core (addInflight v e s) = core s := by
  unfold addInflight
  repeat' (first
    | with_reducible rfl
    | simp only [core_mk, core_parts, core_view, apply_ite core, ite_self, core_State_setView]
    | split
    | (refine (core_foldl _ (fun s a => ?_) _ _).trans ?_)
    | rfl)

theorem core_bistEntry (r : BistRun) (outcome : ℕ) (s : State) :
    core (bistEntry r outcome s) = core s := by
  unfold bistEntry
  repeat' (first
    | with_reducible rfl
    | simp only [core_mk, core_parts, core_view, apply_ite core, ite_self, core_tally]
    | split
    | (refine (core_foldl _ (fun s a => ?_) _ _).trans ?_)
    | rfl)

theorem core_answerRun (r : BistRun) (status : Half) (result : List Byte) (s : State) :
    core (answerRun r status result s) = core s := by
  unfold answerRun
  repeat' (first
    | with_reducible rfl
    | simp only [core_mk, core_parts, core_view, apply_ite core, ite_self, core_complete]
    | split
    | (refine (core_foldl _ (fun s a => ?_) _ _).trans ?_)
    | rfl)

theorem core_zeroSecrets (s : State) :
    core (zeroSecrets s) = core s := by
  unfold zeroSecrets
  repeat' (first
    | with_reducible rfl
    | simp only [core_mk, core_parts, core_view, apply_ite core, ite_self]
    | split
    | (refine (core_foldl _ (fun s a => ?_) _ _).trans ?_)
    | rfl)

theorem core_setHead (r : BistRun) (s : State) :
    core (setHead r s) = core s := by
  unfold setHead
  repeat' (first
    | with_reducible rfl
    | simp only [core_mk, core_parts, core_view, apply_ite core, ite_self]
    | split
    | (refine (core_foldl _ (fun s a => ?_) _ _).trans ?_)
    | rfl)

theorem core_dropHead (s : State) :
    core (dropHead s) = core s := by
  unfold dropHead
  repeat' (first
    | with_reducible rfl
    | simp only [core_mk, core_parts, core_view, apply_ite core, ite_self]
    | split
    | (refine (core_foldl _ (fun s a => ?_) _ _).trans ?_)
    | rfl)

theorem core_bistHead  (n : ℕ) (s : State) : core (bistHead n s) = core s := by
  induction n generalizing s with
  | zero => rfl
  | succ n ih =>
    unfold bistHead
    repeat' (first
      | with_reducible rfl
      | simp only [core_mk, core_parts, core_view, ih, apply_ite core, ite_self, core_answerRun, core_zeroSecrets,
          core_setHead, core_dropHead]
      | split)

theorem core_endRun (r : BistRun) (outcome : ℕ) (effect : ℕ) (s : State) :
    core (endRun r outcome effect s) = core s := by
  unfold endRun
  repeat' (first
    | with_reducible rfl
    | simp only [core_mk, core_parts, core_view, apply_ite core, ite_self, core_answerRun, core_dropHead, core_bistHead]
    | split
    | (refine (core_foldl _ (fun s a => ?_) _ _).trans ?_)
    | rfl)

theorem core_freeTested (s : State) :
    core (freeTested s) = core s := by
  unfold freeTested
  repeat' (first
    | with_reducible rfl
    | simp only [core_mk, core_parts, core_view, apply_ite core, ite_self, core_setLane]
    | split
    | (refine (core_foldl _ (fun s a => ?_) _ _).trans ?_)
    | rfl)

theorem core_scanEnds (s : State) : core (scanEnds s) = core s := rfl

theorem core_bistAbort (cause : Nat) (s : State) :
    core (bistAbort cause s) = core s := by
  unfold bistAbort
  repeat' (first
    | with_reducible rfl
    | simp only [core_mk, core_parts, core_view, apply_ite core, ite_self, core_sticky, core_bistEntry, core_scanEnds,
        core_setHead, core_endRun]
    | split
    | (refine (core_foldl _ (fun s a => ?_) _ _).trans ?_)
    | rfl)

theorem core_resumeRun (r : BistRun) (m : Nat) (s : State) : core (resumeRun r m s) = core s := by
  unfold resumeRun
  repeat' (first
    | with_reducible rfl
    | simp only [core_setHead]
    | split)

theorem core_recallLane (k : Nat) (pos : Nat) (s : State) :
    core (recallLane k pos s).2 = core s := by
  unfold recallLane
  repeat' (first
    | with_reducible rfl
    | simp only [core_mk, core_parts, core_view, apply_ite core, ite_self, core_bistAbort, core_resumeRun]
    | split
    | (refine (core_foldl _ (fun s a => ?_) _ _).trans ?_)
    | rfl)

theorem core_startLaneRun (k : ℕ) (r : BistRun) (s : State) :
    core (startLaneRun k r s) = core s := by
  unfold startLaneRun
  repeat' (first
    | with_reducible rfl
    | simp only [core_mk, core_parts, core_view, apply_ite core, ite_self, core_setLane, core_setPosition,
        core_zeroSecrets, core_setHead]
    | split
    | (refine (core_foldl _ (fun s a => ?_) _ _).trans ?_)
    | rfl)

theorem core_startSliceRun (k : ℕ) (r : BistRun) (s : State) :
    core (startSliceRun k r s) = core s := by
  unfold startSliceRun
  repeat' (first
    | with_reducible rfl
    | simp only [core_mk, core_parts, core_view, apply_ite core, ite_self, core_insertSlot, core_zeroSecrets,
        core_setHead]
    | split
    | (refine (core_foldl _ (fun s a => ?_) _ _).trans ?_)
    | rfl)

theorem core_laneOutcome (k : ℕ) (s : State) :
    core (laneOutcome k s) = core s := by
  unfold laneOutcome
  repeat' (first
    | with_reducible rfl
    | simp only [core_mk, core_parts, core_view, apply_ite core, ite_self, core_sticky, core_tally, core_setLane,
        core_endRun]
    | split
    | (refine (core_foldl _ (fun s a => ?_) _ _).trans ?_)
    | rfl)

theorem core_bistBoundary (k : Nat) (s : State) :
    core (bistBoundary k s) = core s := by
  unfold bistBoundary
  repeat' (first
    | with_reducible rfl
    | simp only [core_mk, core_parts, core_view, apply_ite core, ite_self, core_bistHead, core_freeTested,
        core_laneOutcome, core_bistAbort, core_resumeRun, core_startLaneRun, core_startSliceRun]
    | split
    | (refine (core_foldl _ (fun s a => ?_) _ _).trans ?_)
    | rfl)

theorem core_bistRunEnd (v : BistValues) (s : State) :
    core (bistRunEnd v s) = core s := by
  unfold bistRunEnd
  repeat' (first
    | with_reducible rfl
    | simp only [core_mk, core_parts, core_view, apply_ite core, ite_self, core_sticky, core_failSlice, core_bistEntry, core_scanEnds,
        core_setHead, core_endRun]
    | split
    | (refine (core_foldl _ (fun s a => ?_) _ _).trans ?_)
    | rfl)

theorem core_bistRerun (t : Time) (s : State) :
    core (bistRerun t s) = core s := by
  unfold bistRerun
  repeat' (first
    | with_reducible rfl
    | simp only [core_mk, core_parts, core_view, apply_ite core, ite_self, core_advance, core_setHead, core_bistHead]
    | split
    | (refine (core_foldl _ (fun s a => ?_) _ _).trans ?_)
    | rfl)

theorem core_bistTimeout (s : State) :
    core (bistTimeout s) = core s := by
  unfold bistTimeout
  repeat' (first
    | with_reducible rfl
    | simp only [core_mk, core_parts, core_view, apply_ite core, ite_self, core_endRun]
    | split
    | (refine (core_foldl _ (fun s a => ?_) _ _).trans ?_)
    | rfl)

theorem core_secretsBack (s : State) :
    core (secretsBack s) = core s := by
  unfold secretsBack
  repeat' (first
    | with_reducible rfl
    | simp only [core_mk, core_parts, core_view, apply_ite core, ite_self]
    | split
    | (refine (core_foldl _ (fun s a => ?_) _ _).trans ?_)
    | rfl)

theorem core_deferCommand (secrets : Bool) (v : View) (e : Inflight) (s : State) :
    core (deferCommand secrets v e s) = core s := by
  unfold deferCommand
  repeat' (first
    | with_reducible rfl
    | simp only [core_mk, core_parts, core_view, apply_ite core, ite_self, core_takeFree, core_complete]
    | split
    | (refine (core_foldl _ (fun s a => ?_) _ _).trans ?_)
    | rfl)

theorem core_answer (v : View) (e : Inflight) (status : Half) (s : State) :
    core (answer v e status s) = core s := by
  unfold answer
  repeat' (first
    | with_reducible rfl
    | simp only [core_mk, core_parts, core_view, apply_ite core, ite_self, core_complete]
    | split
    | (refine (core_foldl _ (fun s a => ?_) _ _).trans ?_)
    | rfl)

theorem core_keepRunning (v : View) (e : Inflight) (s : State) :
    core (keepRunning v e s) = core s := by
  unfold keepRunning
  repeat' (first
    | with_reducible rfl
    | simp only [core_mk, core_parts, core_view, apply_ite core, ite_self, core_setStage]
    | split
    | (refine (core_foldl _ (fun s a => ?_) _ _).trans ?_)
    | rfl)

theorem core_holdChange (v : View) (e : Inflight) (j : ℕ) (c : Change) (s : State) :
    core (holdChange v e j c s) = core s := by
  unfold holdChange
  repeat' (first
    | with_reducible rfl
    | simp only [core_mk, core_parts, core_view, apply_ite core, ite_self, core_setStage]
    | split
    | (refine (core_foldl _ (fun s a => ?_) _ _).trans ?_)
    | rfl)

theorem core_doGetInfo (v : View) (e : Inflight) (s : State) :
    core (doGetInfo v e s) = core s := by
  unfold doGetInfo
  repeat' (first
    | with_reducible rfl
    | simp only [core_mk, core_parts, core_view, apply_ite core, ite_self, core_complete]
    | split
    | (refine (core_foldl _ (fun s a => ?_) _ _).trans ?_)
    | rfl)

theorem core_doStage (v : View) (e : Inflight) (s : State) :
    core (doStage v e s) = core s := by
  unfold doStage
  repeat' (first
    | with_reducible rfl
    | simp only [core_mk, core_parts, core_view, apply_ite core, ite_self, core_complete, core_deferCommand,
        core_answer, core_keepRunning]
    | split
    | (refine (core_foldl _ (fun s a => ?_) _ _).trans ?_)
    | rfl)

theorem core_writeCopy (f : List Byte × List Byte → List Byte × List Byte) (s : State) :
    core (writeCopy f s) = core s := by
  unfold writeCopy
  repeat' (first
    | with_reducible rfl
    | simp only [core_mk, core_parts, core_view, apply_ite core, ite_self]
    | split
    | (refine (core_foldl _ (fun s a => ?_) _ _).trans ?_)
    | rfl)

theorem core_endStage (v : View) (e : Inflight) (s : State) :
    core (endStage v e s) = core s := by
  unfold endStage
  repeat' (first
    | with_reducible rfl
    | simp only [core_mk, core_parts, core_view, apply_ite core, ite_self, core_complete, core_writeCopy,
        core_deferCommand]
    | split
    | (refine (core_foldl _ (fun s a => ?_) _ _).trans ?_)
    | rfl)

theorem core_armSubscriptions (j : Nat) (p : Package) (s : State) :
    core (armSubscriptions j p s) = core s := by
  unfold armSubscriptions
  repeat' (first
    | with_reducible rfl
    | simp only [core_mk, core_parts, core_view, apply_ite core, ite_self]
    | split
    | (refine (core_foldl _ (fun s a => ?_) _ _).trans ?_)
    | rfl)

theorem core_doCommit (g : Nat) (v : View) (e : Inflight) (s : State) :
    core (doCommit g v e s) = core s := by
  unfold doCommit
  repeat' (first
    | with_reducible rfl
    | simp only [core_mk, core_parts, core_view, apply_ite core, ite_self, core_answer, core_holdChange,
        core_armSubscriptions]
    | split
    | (refine (core_foldl _ (fun s a => ?_) _ _).trans ?_)
    | rfl)

theorem core_doSelectGroup (g : ℕ) (v : View) (e : Inflight) (s : State) :
    core (doSelectGroup g v e s) = core s := by
  unfold doSelectGroup
  repeat' (first
    | with_reducible rfl
    | simp only [core_mk, core_parts, core_view, apply_ite core, ite_self, core_answer, core_holdChange]
    | split
    | (refine (core_foldl _ (fun s a => ?_) _ _).trans ?_)
    | rfl)

theorem core_doSetLpipe (v : View) (e : Inflight) (s : State) :
    core (doSetLpipe v e s) = core s := by
  unfold doSetLpipe
  repeat' (first
    | with_reducible rfl
    | simp only [core_mk, core_parts, core_view, apply_ite core, ite_self, core_complete, core_answer]
    | split
    | (refine (core_foldl _ (fun s a => ?_) _ _).trans ?_)
    | rfl)

theorem core_doLoad (v : View) (e : Inflight) (s : State) :
    core (doLoad v e s) = core s := by
  unfold doLoad
  repeat' (first
    | with_reducible rfl
    | simp only [core_mk, core_parts, core_view, apply_ite core, ite_self, core_complete, core_deferCommand,
        core_answer, core_keepRunning]
    | split
    | (refine (core_foldl _ (fun s a => ?_) _ _).trans ?_)
    | rfl)

theorem core_endLoad (v : View) (e : Inflight) (s : State) :
    core (endLoad v e s) = core s := by
  unfold endLoad
  repeat' (first
    | with_reducible rfl
    | simp only [core_mk, core_parts, core_view, apply_ite core, ite_self, core_complete, core_writeCopy,
        core_deferCommand]
    | split
    | (refine (core_foldl _ (fun s a => ?_) _ _).trans ?_)
    | rfl)

theorem core_doParamWrite (g : ℕ) (v : View) (e : Inflight) (s : State) :
    core (doParamWrite g v e s) = core s := by
  unfold doParamWrite
  repeat' (first
    | with_reducible rfl
    | simp only [core_mk, core_parts, core_view, apply_ite core, ite_self, core_answer, core_holdChange]
    | split
    | (refine (core_foldl _ (fun s a => ?_) _ _).trans ?_)
    | rfl)

theorem core_doForce (g : Nat) (v : View) (e : Inflight) (s : State) :
    core (doForce g v e s) = core s := by
  unfold doForce
  repeat' (first
    | with_reducible rfl
    | simp only [core_mk, core_parts, core_view, apply_ite core, ite_self, core_answer, core_holdChange]
    | split
    | (refine (core_foldl _ (fun s a => ?_) _ _).trans ?_)
    | rfl)

theorem core_doUnforce (g : ℕ) (v : View) (e : Inflight) (s : State) :
    core (doUnforce g v e s) = core s := by
  unfold doUnforce
  repeat' (first
    | with_reducible rfl
    | simp only [core_mk, core_parts, core_view, apply_ite core, ite_self, core_answer, core_holdChange]
    | split
    | (refine (core_foldl _ (fun s a => ?_) _ _).trans ?_)
    | rfl)

theorem core_doRestartLogic (g : ℕ) (v : View) (e : Inflight) (s : State) :
    core (doRestartLogic g v e s) = core s := by
  unfold doRestartLogic
  repeat' (first
    | with_reducible rfl
    | simp only [core_mk, core_parts, core_view, apply_ite core, ite_self, core_answer, core_holdChange]
    | split
    | (refine (core_foldl _ (fun s a => ?_) _ _).trans ?_)
    | rfl)

theorem core_doListRecords (v : View) (e : Inflight) (s : State) :
    core (doListRecords v e s) = core s := by
  unfold doListRecords
  repeat' (first
    | with_reducible rfl
    | simp only [core_mk, core_parts, core_view, apply_ite core, ite_self, core_deferCommand, core_answer,
        core_keepRunning]
    | split
    | (refine (core_foldl _ (fun s a => ?_) _ _).trans ?_)
    | rfl)

theorem core_doFetchRecord (v : View) (e : Inflight) (s : State) :
    core (doFetchRecord v e s) = core s := by
  unfold doFetchRecord
  repeat' (first
    | with_reducible rfl
    | simp only [core_mk, core_parts, core_view, apply_ite core, ite_self, core_deferCommand, core_answer,
        core_keepRunning]
    | split
    | (refine (core_foldl _ (fun s a => ?_) _ _).trans ?_)
    | rfl)

theorem core_doReleaseRecord (v : View) (e : Inflight) (s : State) :
    core (doReleaseRecord v e s) = core s := by
  unfold doReleaseRecord
  repeat' (first
    | with_reducible rfl
    | simp only [core_mk, core_parts, core_view, apply_ite core, ite_self, core_releaseThrough, core_complete,
        core_deferCommand, core_answer]
    | split
    | (refine (core_foldl _ (fun s a => ?_) _ _).trans ?_)
    | rfl)

theorem core_doManualTrigger (g : ℕ) (v : View) (e : Inflight) (s : State) :
    core (doManualTrigger g v e s) = core s := by
  unfold doManualTrigger
  repeat' (first
    | with_reducible rfl
    | simp only [core_mk, core_parts, core_view, apply_ite core, ite_self, core_answer, core_holdChange]
    | split
    | (refine (core_foldl _ (fun s a => ?_) _ _).trans ?_)
    | rfl)

theorem core_doFetchTally (v : View) (e : Inflight) (s : State) :
    core (doFetchTally v e s) = core s := by
  unfold doFetchTally
  repeat' (first
    | with_reducible rfl
    | simp only [core_mk, core_parts, core_view, apply_ite core, ite_self, core_answer, core_keepRunning]
    | split
    | (refine (core_foldl _ (fun s a => ?_) _ _).trans ?_)
    | rfl)

theorem core_doConfigSnapsets (g : ℕ) (v : View) (e : Inflight) (s : State) :
    core (doConfigSnapsets g v e s) = core s := by
  unfold doConfigSnapsets
  repeat' (first
    | with_reducible rfl
    | simp only [core_mk, core_parts, core_view, apply_ite core, ite_self, core_answer, core_holdChange]
    | split
    | (refine (core_foldl _ (fun s a => ?_) _ _).trans ?_)
    | rfl)

theorem core_doTimeConfig (v : View) (e : Inflight) (s : State) :
    core (doTimeConfig v e s) = core s := by
  unfold doTimeConfig
  repeat' (first
    | with_reducible rfl
    | simp only [core_mk, core_parts, core_view, apply_ite core, ite_self, core_applyTimeConfig, core_answer]
    | split
    | (refine (core_foldl _ (fun s a => ?_) _ _).trans ?_)
    | rfl)

theorem core_doSwapRoles (v : View) (e : Inflight) (s : State) :
    core (doSwapRoles v e s) = core s := by
  unfold doSwapRoles
  repeat' (first
    | with_reducible rfl
    | simp only [core_mk, core_parts, core_view, apply_ite core, ite_self, core_setStage, core_answer]
    | split
    | (refine (core_foldl _ (fun s a => ?_) _ _).trans ?_)
    | rfl)

theorem core_doRunBist (g : ℕ) (v : View) (e : Inflight) (s : State) :
    core (doRunBist g v e s) = core s := by
  unfold doRunBist
  repeat' (first
    | with_reducible rfl
    | simp only [core_mk, core_parts, core_view, apply_ite core, ite_self, core_setStage, core_bistHead, core_answer]
    | split
    | (refine (core_foldl _ (fun s a => ?_) _ _).trans ?_)
    | rfl)

theorem core_doSpotConvert (v : View) (e : Inflight) (s : State) :
    core (doSpotConvert v e s) = core s := by
  unfold doSpotConvert
  repeat' (first
    | with_reducible rfl
    | simp only [core_mk, core_parts, core_view, apply_ite core, ite_self, core_count, core_complete, core_answer]
    | split
    | (refine (core_foldl _ (fun s a => ?_) _ _).trans ?_)
    | rfl)

theorem core_recordSlot (n : ℕ) (st : ℕ) (d : BitVec 384) (ver : Word) (bg : ℕ) (s : State) :
    core (recordSlot n st d ver bg s) = core s := by
  unfold recordSlot
  repeat' (first
    | with_reducible rfl
    | simp only [core_mk, core_parts, core_view, apply_ite core, ite_self]
    | split
    | (refine (core_foldl _ (fun s a => ?_) _ _).trans ?_)
    | rfl)

theorem core_doInstall (v : View) (e : Inflight) (s : State) :
    core (doInstall v e s) = core s := by
  unfold doInstall
  repeat' (first
    | with_reducible rfl
    | simp only [core_mk, core_parts, core_view, apply_ite core, ite_self, core_sticky, core_tally, core_answer,
        core_keepRunning, core_recordSlot]
    | split
    | (refine (core_foldl _ (fun s a => ?_) _ _).trans ?_)
    | rfl)

theorem core_endInstall (v : View) (e : Inflight) (s : State) :
    core (endInstall v e s) = core s := by
  unfold endInstall
  repeat' (first
    | with_reducible rfl
    | simp only [core_mk, core_parts, core_view, apply_ite core, ite_self, core_sticky, core_complete, core_answer,
        core_recordSlot]
    | split
    | (refine (core_foldl _ (fun s a => ?_) _ _).trans ?_)
    | rfl)

theorem core_doActivate (v : View) (e : Inflight) (s : State) :
    core (doActivate v e s) = core s := by
  unfold doActivate
  repeat' (first
    | with_reducible rfl
    | simp only [core_mk, core_parts, core_view, apply_ite core, ite_self, core_answer]
    | split
    | (refine (core_foldl _ (fun s a => ?_) _ _).trans ?_)
    | rfl)

theorem core_applyOwner (b : List Byte) (s : State) :
    core (applyOwner b s) = core s := by
  unfold applyOwner
  repeat' (first
    | with_reducible rfl
    | simp only [core_mk, core_parts, core_view, apply_ite core, ite_self, core_tally]
    | split
    | (refine (core_foldl _ (fun s a => ?_) _ _).trans ?_)
    | rfl)

theorem core_doSetOwner (v : View) (e : Inflight) (s : State) :
    core (doSetOwner v e s) = core s := by
  unfold doSetOwner
  repeat' (first
    | with_reducible rfl
    | simp only [core_mk, core_parts, core_view, apply_ite core, ite_self, core_complete, core_deferCommand,
        core_answer, core_applyOwner]
    | split
    | (refine (core_foldl _ (fun s a => ?_) _ _).trans ?_)
    | rfl)

theorem core_doRequireSigned (v : View) (e : Inflight) (s : State) :
    core (doRequireSigned v e s) = core s := by
  unfold doRequireSigned
  repeat' (first
    | with_reducible rfl
    | simp only [core_mk, core_parts, core_view, apply_ite core, ite_self, core_answer]
    | split
    | (refine (core_foldl _ (fun s a => ?_) _ _).trans ?_)
    | rfl)

theorem core_doFetchDump (v : View) (e : Inflight) (s : State) :
    core (doFetchDump v e s) = core s := by
  unfold doFetchDump
  repeat' (first
    | with_reducible rfl
    | simp only [core_mk, core_parts, core_view, apply_ite core, ite_self, core_complete, core_deferCommand,
        core_answer, core_setStage]
    | split
    | (refine (core_foldl _ (fun s a => ?_) _ _).trans ?_)
    | rfl)

theorem core_markAlone (h : Quad) (s : State) :
    core (markAlone h s) = core s := by
  unfold markAlone
  repeat' (first
    | with_reducible rfl
    | simp only [core_mk, core_parts, core_view, apply_ite core, ite_self, core_tally]
    | split
    | (refine (core_foldl _ (fun s a => ?_) _ _).trans ?_)
    | rfl)

theorem core_mirrorDone (c : Submit) (opcode : Half) (engineSeq : Quad) (d : PairDone) (s : State) :
    core (mirrorDone c opcode engineSeq d s) = core s := by
  unfold mirrorDone
  repeat' (first
    | with_reducible rfl
    | simp only [core_mk, core_parts, core_view, apply_ite core, ite_self, core_dropInflight, core_journalDone]
    | split
    | (refine (core_foldl _ (fun s a => ?_) _ _).trans ?_)
    | rfl)

theorem core_resumeInstall (v : View) (e : Inflight) (s : State) :
    core (resumeInstall v e s) = core s := by
  unfold resumeInstall
  repeat' (first
    | with_reducible rfl
    | simp only [core_mk, core_parts, core_view, apply_ite core, ite_self, core_sticky, core_State_setView, core_takeFree]
    | split
    | (refine (core_foldl _ (fun s a => ?_) _ _).trans ?_)
    | rfl)

theorem core_installTimeout (s : State) :
    core (installTimeout s) = core s := by
  unfold installTimeout
  repeat' (first
    | with_reducible rfl
    | simp only [core_mk, core_parts, core_view, apply_ite core, ite_self, core_answer, core_recordSlot]
    | split
    | (refine (core_foldl _ (fun s a => ?_) _ _).trans ?_)
    | rfl)

theorem core_vectorControl (v : View) (n : ℕ) (w : Word) (s : State) :
    core (vectorControl v n w s) = core s := by
  unfold vectorControl
  repeat' (first
    | with_reducible rfl
    | simp only [core_mk, core_parts, core_view, apply_ite core, ite_self, core_State_setView, core_msixUnmask]
    | split
    | (refine (core_foldl _ (fun s a => ?_) _ _).trans ?_)
    | rfl)

theorem core_logEntry (e : TallyEvent) (seq : Quad) (eflags : Word) (s : State) :
    core (logEntry e seq eflags s) = core s := by
  unfold logEntry
  repeat' (first
    | with_reducible rfl
    | simp only [core_mk, core_parts, core_view, apply_ite core, ite_self, core_tally, core_traceMsg]
    | split
    | (refine (core_foldl _ (fun s a => ?_) _ _).trans ?_)
    | rfl)

theorem core_acceptEntry (e : TallyEvent) (rest : List TallyEvent) (s : State) :
    core (acceptEntry e rest s) = core s := by
  unfold acceptEntry
  repeat' (first
    | with_reducible rfl
    | simp only [core_mk, core_parts, core_view, apply_ite core, ite_self, core_tally, core_logEntry]
    | split
    | (refine (core_foldl _ (fun s a => ?_) _ _).trans ?_)
    | rfl)

theorem core_ringEntry (e : TallyEvent) (s : State) :
    core (ringEntry e s) = core s := by
  unfold ringEntry
  repeat' (first
    | with_reducible rfl
    | simp only [core_mk, core_parts, core_view, apply_ite core, ite_self, core_count, core_tally]
    | split
    | (refine (core_foldl _ (fun s a => ?_) _ _).trans ?_)
    | rfl)

theorem core_ringFlush  (n : ℕ) (s : State) : core (ringFlush n s) = core s := by
  induction n generalizing s with
  | zero => rfl
  | succ n ih =>
    unfold ringFlush
    repeat' (first
      | with_reducible rfl
      | simp only [core_mk, core_parts, core_view, ih, apply_ite core, ite_self, core_tally, core_ringEntry]
      | split)

theorem core_fillStopped (s : State) :
    core (fillStopped s) = core s := by
  unfold fillStopped
  repeat' (first
    | with_reducible rfl
    | simp only [core_mk, core_parts, core_view, apply_ite core, ite_self, core_fillSnapshots]
    | split
    | (refine (core_foldl _ (fun s a => ?_) _ _).trans ?_)
    | rfl)

theorem core_finishEntry (s : State) : core (finishEntry s) = core s := by
  unfold finishEntry
  split <;> rfl

theorem core_tallyWritten (failA : Bool) (failB : Bool) (s : State) :
    core (tallyWritten failA failB s) = core s := by
  unfold tallyWritten
  repeat' (first
    | with_reducible rfl
    | simp only [core_mk, core_parts, core_view, apply_ite core, ite_self, core_tally, core_dropSummary,
        core_retireMirrors, core_acceptEntry, core_ringFlush, core_fillStopped, core_finishEntry]
    | split
    | (refine (core_foldl _ (fun s a => ?_) _ _).trans ?_)
    | rfl)

theorem core_checkpoint (k : ℕ) (s : State) :
    core (checkpoint k s) = core s := by
  unfold checkpoint
  repeat' (first
    | with_reducible rfl
    | simp only [core_mk, core_parts, core_view, apply_ite core, ite_self]
    | split
    | (refine (core_foldl _ (fun s a => ?_) _ _).trans ?_)
    | rfl)

theorem core_batchWritten (s : State) :
    core (batchWritten s) = core s := by
  unfold batchWritten
  repeat' (first
    | with_reducible rfl
    | simp only [core_mk, core_parts, core_view, apply_ite core, ite_self]
    | split
    | (refine (core_foldl _ (fun s a => ?_) _ _).trans ?_)
    | rfl)

theorem core_opsecTick (s : State) :
    core (opsecTick s) = core s := by
  unfold opsecTick
  repeat' (first
    | with_reducible rfl
    | simp only [core_mk, core_parts, core_view, apply_ite core, ite_self]
    | split
    | (refine (core_foldl _ (fun s a => ?_) _ _).trans ?_)
    | rfl)

theorem core_flushVerified (s : State) :
    core (flushVerified s) = core s := by
  unfold flushVerified
  repeat' (first
    | with_reducible rfl
    | simp only [core_mk, core_parts, core_view, apply_ite core, ite_self, core_tally]
    | split
    | (refine (core_foldl _ (fun s a => ?_) _ _).trans ?_)
    | rfl)

theorem core_ilkBoundary (k : ℕ) (i : IlkInputs) (s : State) :
    core (ilkBoundary k i s) = core s := by
  unfold ilkBoundary
  repeat' (first
    | with_reducible rfl
    | simp only [core_mk, core_parts, core_view, apply_ite core, ite_self]
    | split
    | (refine (core_foldl _ (fun s a => ?_) _ _).trans ?_)
    | rfl)

theorem core_adoptRetained (vals : List (ℕ × Word × Half)) (s : State) :
    core (adoptRetained vals s) = core s := by
  unfold adoptRetained
  repeat' (first
    | with_reducible rfl
    | simp only [core_mk, core_parts, core_view, apply_ite core, ite_self]
    | split
    | (refine (core_foldl _ (fun s a => ?_) _ _).trans ?_)
    | rfl)

theorem core_adoptEpoch (c : EpochCopy) (rows : ℕ) (s : State) :
    core (adoptEpoch c rows s) = core s := by
  unfold adoptEpoch
  repeat' (first
    | with_reducible rfl
    | simp only [core_mk, core_parts, core_view, apply_ite core, ite_self, core_setPub, core_adoptRetained]
    | split
    | (refine (core_foldl _ (fun s a => ?_) _ _).trans ?_)
    | rfl)

theorem core_answerSwap (status : Half) (result : List Byte) (s : State) :
    core (answerSwap status result s) = core s := by
  unfold answerSwap
  exact core_foldl _ (fun s a => core_complete _ _ _ _ _ _) _ _

theorem core_epochEnd (k : ℕ) (s : State) :
    core (epochEnd k s) = core s := by
  unfold epochEnd
  repeat' (first
    | with_reducible rfl
    | simp only [core_mk, core_parts, core_view, apply_ite core, ite_self]
    | split
    | (refine (core_foldl _ (fun s a => ?_) _ _).trans ?_)
    | rfl)

theorem core_dropGoose (s : State) :
    core (dropGoose s) = core s := by
  unfold dropGoose
  repeat' (first
    | with_reducible rfl
    | simp only [core_mk, core_parts, core_view, apply_ite core, ite_self]
    | split
    | (refine (core_foldl _ (fun s a => ?_) _ _).trans ?_)
    | rfl)

theorem core_meetPartner (e : ℕ) (p : PartnerInfo) (s : State) : core (meetPartner e p s) = core s := by
  unfold meetPartner
  dsimp only
  split
  · exact core_tally _ _ s
  · rfl

theorem core_adoptNumber (own c : EpochCopy) (s : State) : core (adoptNumber own c s) = core s := by
  unfold adoptNumber
  split
  · rfl
  · exact core_tally _ _ _

theorem core_epochCopyIn (c : EpochCopy) (p : PartnerInfo) (s : State) :
    core (epochCopyIn c p s) = core s := by
  unfold epochCopyIn
  repeat' (first
    | with_reducible rfl
    | simp only [core_mk, core_parts, core_view, apply_ite core, ite_self, core_count, core_tally, core_meetPartner,
        core_adoptNumber]
    | split
    | (refine (core_foldl _ (fun s a => ?_) _ _).trans ?_)
    | rfl)

theorem core_epochAck (a : EpochAck) (s : State) :
    core (epochAck a s) = core s := by
  unfold epochAck
  repeat' (first
    | with_reducible rfl
    | simp only [core_mk, core_parts, core_view, apply_ite core, ite_self, core_meetPartner]
    | split
    | (refine (core_foldl _ (fun s a => ?_) _ _).trans ?_)
    | rfl)

theorem core_swapNotice (r : ℕ) (s : State) :
    core (swapNotice r s) = core s := by
  unfold swapNotice
  repeat' (first
    | with_reducible rfl
    | simp only [core_mk, core_parts, core_view, apply_ite core, ite_self]
    | split
    | (refine (core_foldl _ (fun s a => ?_) _ _).trans ?_)
    | rfl)

theorem core_swapDue (s : State) :
    core (swapDue s) = core s := by
  unfold swapDue
  repeat' (first
    | with_reducible rfl
    | simp only [core_mk, core_parts, core_view, apply_ite core, ite_self]
    | split
    | (refine (core_foldl _ (fun s a => ?_) _ _).trans ?_)
    | rfl)

theorem core_swapFailed (cause : ℕ) (r : ℕ) (byCommand : Bool) (s : State) :
    core (swapFailed cause r byCommand s) = core s := by
  unfold swapFailed
  repeat' (first
    | with_reducible rfl
    | simp only [core_mk, core_parts, core_view, apply_ite core, ite_self, core_sticky, core_tally, core_answerSwap]
    | split
    | (refine (core_foldl _ (fun s a => ?_) _ _).trans ?_)
    | rfl)

theorem core_answerChange (p : Pending) (result : List Byte) (s : State) :
    core (answerChange p result s) = core s := by
  unfold answerChange
  repeat' (first
    | with_reducible rfl
    | simp only [core_mk, core_parts, core_view, apply_ite core, ite_self, core_complete]
    | split
    | (refine (core_foldl _ (fun s a => ?_) _ _).trans ?_)
    | rfl)

theorem core_takeChanges (sel : Pending → Bool) (s : State) :
    core (takeChanges sel s).2 = core s := by
  unfold takeChanges
  repeat' (first
    | with_reducible rfl
    | simp only [core_mk, core_parts, core_view, apply_ite core, ite_self]
    | split
    | (refine (core_foldl _ (fun s a => ?_) _ _).trans ?_)
    | rfl)

theorem core_applyKind (k : ℕ) (kind : Pending → Bool) (f : Pending → State → State) (h : ∀ p s, core (f p s) = core s)
    (s : State) :
    core (applyKind k kind f s) = core s := by
  unfold applyKind
  refine (core_foldl _ (fun s a => h a s) _ _).trans ?_
  exact core_takeChanges _ _

theorem core_switchCopies (prog : Bool) (s : State) :
    core (switchCopies prog s) = core s := by
  unfold switchCopies
  repeat' (first
    | with_reducible rfl
    | simp only [core_mk, core_parts, core_view, apply_ite core, ite_self, core_writeCopy]
    | split
    | (refine (core_foldl _ (fun s a => ?_) _ _).trans ?_)
    | rfl)

theorem core_replaceProgram (k : ℕ) (s : State) :
    core (replaceProgram k s) = core s := by
  unfold replaceProgram
  repeat' (first
    | with_reducible rfl
    | simp only [core_mk, core_parts, core_view, apply_ite core, ite_self, core_logicStart, core_checkpoint]
    | split
    | (refine (core_foldl _ (fun s a => ?_) _ _).trans ?_)
    | rfl)

theorem core_reportStream (i : ℕ) (ws : List Word) (s : State) :
    core (reportStream i ws s) = core s := by
  unfold reportStream
  repeat' (first
    | with_reducible rfl
    | simp only [core_mk, core_parts, core_view, apply_ite core, ite_self, core_tally, core_streamLost]
    | split
    | (refine (core_foldl _ (fun s a => ?_) _ _).trans ?_)
    | rfl)

theorem core_switchIngest (old : Option Package) (s : State) :
    core (switchIngest old s) = core s := by
  unfold switchIngest
  repeat' (first
    | with_reducible rfl
    | simp only [core_mk, core_parts, core_view, apply_ite core, ite_self, core_reportStream]
    | split
    | (refine (core_foldl _ (fun s a => ?_) _ _).trans ?_)
    | rfl)

theorem core_switchZones (old : Option Package) (s : State) :
    core (switchZones old s) = core s := by
  unfold switchZones
  repeat' (first
    | with_reducible rfl
    | simp only [core_mk, core_parts, core_view, apply_ite core, ite_self]
    | split
    | (refine (core_foldl _ (fun s a => ?_) _ _).trans ?_)
    | rfl)

theorem core_switchPair (old : Option Package) (m : Nat) (p : Nat) (s : State) :
    core (switchPair old m p s) = core s := by
  unfold switchPair
  repeat' (first
    | with_reducible rfl
    | simp only [core_mk, core_parts, core_view, apply_ite core, ite_self, core_biLog, core_setPair,
        core_pairReplay]
    | split
    | (refine (core_foldl _ (fun s a => ?_) _ _).trans ?_)
    | rfl)

theorem core_bindSlots (old : Option Package) (s : State) :
    core (bindSlots old s) = core s := by
  unfold bindSlots
  repeat' (first
    | with_reducible rfl
    | simp only [core_mk, core_parts, core_view, apply_ite core, ite_self]
    | split
    | (refine (core_foldl _ (fun s a => ?_) _ _).trans ?_)
    | rfl)

theorem core_takeEffect (k : Nat) (prog : Bool) (new : Package) (s : State) :
    core (takeEffect k prog new s) = core s := by
  unfold takeEffect
  repeat' (first
    | with_reducible rfl
    | simp only [core_mk, core_parts, core_view, apply_ite core, ite_self, core_switchCopies, core_replaceProgram,
        core_switchZones, core_switchIngest, core_bindSlots, core_switchPair, core_repartition,
        core_thresherPackage, core_selectMaster]
    | split
    | (refine (core_foldl _ (fun s a => ?_) _ _).trans ?_)
    | rfl)

theorem core_applyPackage (k : ℕ) (p : Pending) (s : State) :
    core (applyPackage k p s) = core s := by
  unfold applyPackage
  repeat' (first
    | with_reducible rfl
    | simp only [core_mk, core_parts, core_view, apply_ite core, ite_self, core_answerChange, core_takeEffect]
    | split
    | (refine (core_foldl _ (fun s a => ?_) _ _).trans ?_)
    | rfl)

theorem core_applySnapsets (k : ℕ) (p : Pending) (s : State) :
    core (applySnapsets k p s) = core s := by
  unfold applySnapsets
  repeat' (first
    | with_reducible rfl
    | simp only [core_mk, core_parts, core_view, apply_ite core, ite_self, core_tally, core_answerChange]
    | split
    | (refine (core_foldl _ (fun s a => ?_) _ _).trans ?_)
    | rfl)

theorem core_applyGroup (k : ℕ) (p : Pending) (s : State) :
    core (applyGroup k p s) = core s := by
  unfold applyGroup
  repeat' (first
    | with_reducible rfl
    | simp only [core_mk, core_parts, core_view, apply_ite core, ite_self, core_setZone, core_answerChange]
    | split
    | (refine (core_foldl _ (fun s a => ?_) _ _).trans ?_)
    | rfl)

theorem core_sourceGroup (z : ℕ) (s : State) :
    core (sourceGroup z s) = core s := by
  unfold sourceGroup
  repeat' (first
    | with_reducible rfl
    | simp only [core_mk, core_parts, core_view, apply_ite core, ite_self, core_tally, core_setZone]
    | split
    | (refine (core_foldl _ (fun s a => ?_) _ _).trans ?_)
    | rfl)

theorem core_applyParam (k : ℕ) (p : Pending) (s : State) :
    core (applyParam k p s) = core s := by
  unfold applyParam
  repeat' (first
    | with_reducible rfl
    | simp only [core_mk, core_parts, core_view, apply_ite core, ite_self, core_answerChange]
    | split
    | (refine (core_foldl _ (fun s a => ?_) _ _).trans ?_)
    | rfl)

theorem core_forceEntry (removed : ℕ) (key : ℕ) (v : Word) (k : ℕ) (s : State) :
    core (forceEntry removed key v k s) = core s := by
  unfold forceEntry
  repeat' (first
    | with_reducible rfl
    | simp only [core_mk, core_parts, core_view, apply_ite core, ite_self, core_tally]
    | split
    | (refine (core_foldl _ (fun s a => ?_) _ _).trans ?_)
    | rfl)

theorem core_applyForce (k : ℕ) (p : Pending) (s : State) :
    core (applyForce k p s) = core s := by
  unfold applyForce
  repeat' (first
    | with_reducible rfl
    | simp only [core_mk, core_parts, core_view, apply_ite core, ite_self, core_answerChange, core_forceEntry]
    | split
    | (refine (core_foldl _ (fun s a => ?_) _ _).trans ?_)
    | rfl)

theorem core_applyUnforce (k : ℕ) (p : Pending) (s : State) :
    core (applyUnforce k p s) = core s := by
  unfold applyUnforce
  repeat' (first
    | with_reducible rfl
    | simp only [core_mk, core_parts, core_view, apply_ite core, ite_self, core_answerChange, core_forceEntry]
    | split
    | (refine (core_foldl _ (fun s a => ?_) _ _).trans ?_)
    | rfl)

theorem core_endUnforce (k : ℕ) (s : State) :
    core (endUnforce k s) = core s := by
  unfold endUnforce
  repeat' (first
    | with_reducible rfl
    | simp only [core_mk, core_parts, core_view, apply_ite core, ite_self, core_answerChange, core_takeChanges]
    | split
    | (refine (core_foldl _ (fun s a => ?_) _ _).trans ?_)
    | rfl)

theorem core_applyRestart (k : ℕ) (p : Pending) (s : State) :
    core (applyRestart k p s) = core s := by
  unfold applyRestart
  repeat' (first
    | with_reducible rfl
    | simp only [core_mk, core_parts, core_view, apply_ite core, ite_self, core_logicStart, core_answerChange]
    | split
    | (refine (core_foldl _ (fun s a => ?_) _ _).trans ?_)
    | rfl)

theorem core_lockCheck (due : Bool) (s : State) :
    core (lockCheck due s) = core s := by
  unfold lockCheck
  repeat' (first
    | with_reducible rfl
    | simp only [core_mk, core_parts, core_view, apply_ite core, ite_self, core_tally]
    | split
    | (refine (core_foldl _ (fun s a => ?_) _ _).trans ?_)
    | rfl)

theorem core_markZones (k : Nat) (zs : List Nat) (s : State) :
    core (markZones k zs s) = core s := by
  unfold markZones
  repeat' (first
    | with_reducible rfl
    | simp only [core_mk, core_parts, core_view, apply_ite core, ite_self, core_degradeAll, core_degradeEvery]
    | split
    | (refine (core_foldl _ (fun s a => ?_) _ _).trans ?_)
    | rfl)

theorem core_startDump (cause : ℕ) (fault : List ℕ) (s : State) :
    core (startDump cause fault s) = core s := by
  unfold startDump
  repeat' (first
    | with_reducible rfl
    | simp only [core_mk, core_parts, core_view, apply_ite core, ite_self]
    | split
    | (refine (core_foldl _ (fun s a => ?_) _ _).trans ?_)
    | rfl)

theorem core_finishDump (s : State) :
    core (finishDump s) = core s := by
  unfold finishDump
  repeat' (first
    | with_reducible rfl
    | simp only [core_mk, core_parts, core_view, apply_ite core, ite_self, core_sticky, core_postEvent]
    | split
    | (refine (core_foldl _ (fun s a => ?_) _ _).trans ?_)
    | rfl)

theorem core_publishSheaf (k : Nat) (f : LaneFindings) (s : State) :
    core (publishSheaf k f s) = core s := by
  unfold publishSheaf
  repeat' (first
    | with_reducible rfl
    | simp only [core_mk, core_parts, core_view, apply_ite core, ite_self, core_applyResults, core_imageCycle,
        core_endCycle]
    | split
    | (refine (core_foldl _ (fun s a => ?_) _ _).trans ?_)
    | rfl)

theorem core_publishGoose (k : ℕ) (s : State) :
    core (publishGoose k s) = core s := by
  unfold publishGoose
  repeat' (first
    | with_reducible rfl
    | simp only [core_mk, core_parts, core_view, apply_ite core, ite_self, core_publishBoundary, core_publishAll]
    | split
    | (refine (core_foldl _ (fun s a => ?_) _ _).trans ?_)
    | rfl)

theorem core_recallFor (k : ℕ) (f : LaneFindings) (s : State) :
    core (recallFor k f s).2 = core s := by
  unfold recallFor
  repeat' (first
    | with_reducible rfl
    | simp only [core_mk, core_parts, core_view, apply_ite core, ite_self, core_recallLane]
    | split
    | (refine (core_foldl _ (fun s a => ?_) _ _).trans ?_)
    | rfl)

theorem core_reassign (k : ℕ) (katFailed : List ℕ) (katSpare : Bool) (f : LaneFindings) (s : State) :
    core (reassign k katFailed katSpare f s) = core s := by
  unfold reassign
  repeat' (first
    | with_reducible rfl
    | simp only [core_mk, core_parts, core_view, apply_ite core, ite_self, core_applyFixes, core_gleanerBoundary,
        core_laneBoundary, core_bistBoundary, core_recallFor]
    | split
    | (refine (core_foldl _ (fun s a => ?_) _ _).trans ?_)
    | rfl)

theorem core_flipDone (delayNs : ℕ) (s : State) :
    core (flipDone delayNs s) = core s := by
  unfold flipDone
  repeat' (first
    | with_reducible rfl
    | simp only [core_mk, core_parts, core_view, apply_ite core, ite_self, core_sticky, core_advance, core_tally,
        core_traceMsg]
    | split
    | (refine (core_foldl _ (fun s a => ?_) _ _).trans ?_)
    | rfl)

theorem core_acceptWaiting (s : State) :
    core (acceptWaiting s) = core s := by
  unfold acceptWaiting
  repeat' (first
    | with_reducible rfl
    | simp only [core_mk, core_parts, core_view, apply_ite core, ite_self]
    | split
    | (refine (core_foldl _ (fun s a => ?_) _ _).trans ?_)
    | rfl)

theorem core_startEntries (retained lostT lostR : ℕ) (s : State) :
    core (startEntries retained lostT lostR s) = core s := by
  unfold startEntries
  repeat' (first
    | with_reducible rfl
    | simp only [core_mk, core_parts, core_view, apply_ite core, ite_self, core_tally]
    | split
    | (refine (core_foldl _ (fun s a => ?_) _ _).trans ?_)
    | rfl)

theorem core_copyLatch (s : State) :
    core (copyLatch s) = core s := by
  unfold copyLatch
  repeat' (first
    | with_reducible rfl
    | simp only [core_mk, core_parts, core_view, apply_ite core, ite_self, core_sticky]
    | split
    | (refine (core_foldl _ (fun s a => ?_) _ _).trans ?_)
    | rfl)

theorem core_tamperEntry (s : State) :
    core (tamperEntry s) = core s := by
  unfold tamperEntry
  repeat' (first
    | with_reducible rfl
    | simp only [core_mk, core_parts, core_view, apply_ite core, ite_self, core_tally]
    | split
    | (refine (core_foldl _ (fun s a => ?_) _ _).trans ?_)
    | rfl)

theorem core_deriveSecrets (s : State) :
    core (deriveSecrets s) = core s := by
  unfold deriveSecrets
  repeat' (first
    | with_reducible rfl
    | simp only [core_mk, core_parts, core_view, apply_ite core, ite_self]
    | split
    | (refine (core_foldl _ (fun s a => ?_) _ _).trans ?_)
    | rfl)

theorem core_lostEntries (n : ℕ) (s : State) :
    core (lostEntries n s) = core s := by
  unfold lostEntries
  repeat' (first
    | with_reducible rfl
    | simp only [core_mk, core_parts, core_view, apply_ite core, ite_self, core_count, core_sticky, core_tally]
    | split
    | (refine (core_foldl _ (fun s a => ?_) _ _).trans ?_)
    | rfl)

theorem core_lostRecords (n : ℕ) (s : State) :
    core (lostRecords n s) = core s := by
  unfold lostRecords
  repeat' (first
    | with_reducible rfl
    | simp only [core_mk, core_parts, core_view, apply_ite core, ite_self, core_count, core_sticky, core_tally]
    | split
    | (refine (core_foldl _ (fun s a => ?_) _ _).trans ?_)
    | rfl)

theorem core_completeEntries (seqs : List ℕ) (s : State) :
    core (completeEntries seqs s) = core s := by
  unfold completeEntries
  repeat' (first
    | with_reducible rfl
    | simp only [core_mk, core_parts, core_view, apply_ite core, ite_self, core_tally]
    | split
    | (refine (core_foldl _ (fun s a => ?_) _ _).trans ?_)
    | rfl)

theorem core_failEntry (t : Word) (s : State) : core (failEntry t s) = core s := by
  unfold failEntry
  dsimp only
  exact (core_tally _ _ _).trans ((core_takeFree _).trans (core_takeFree _))

theorem core_abortEntry (x : ColdAbort) (s : State) : core (abortEntry x s) = core s := by
  unfold abortEntry
  dsimp only
  split
  · simp only [core_sticky, core_tally]
  · simp only [core_sticky, core_tally]

theorem core_copyEntries (f : StartFindings) (s : State) : core (copyEntries f s) = core s := by
  unfold copyEntries
  split <;> rfl

theorem core_tallyScan (f : StartFindings) (s : State) : core (tallyScan f s) = core s :=
  (core_completeEntries _ _).trans (core_copyEntries _ _)

theorem core_judgeRecord (a b : Bool) (v : View) (s : State) : core (judgeRecord a b v s) = core s := by
  unfold judgeRecord
  repeat' (first
    | with_reducible rfl
    | simp only [core_mk, core_parts, core_view, apply_ite core, ite_self, core_dropInflight]
    | split
    | rfl)

theorem core_journalScan (f : StartFindings) (s : State) : core (journalScan f s) = core s :=
  (core_judgeRecord _ _ _ _).trans (core_judgeRecord _ _ _ _)

theorem core_governed (f : StartFindings) (s : State) : core (governed f s) = core s := by
  unfold governed
  dsimp only
  split <;> rfl

theorem core_applyFindings (f : StartFindings) (s : State) :
    core (applyFindings f s) = core s := by
  unfold applyFindings
  repeat' (first
    | with_reducible rfl
    | simp only [core_mk, core_parts, core_view, apply_ite core, ite_self, core_coldCalibrate, core_sticky,
        core_failSlice, core_postEvent, core_failEntry, core_abortEntry]
    | split
    | (refine (core_foldl _ (fun s a => ?_) _ _).trans ?_)
    | rfl)

theorem core_loadConfig (s : State) :
    core (loadConfig s) = core s := by
  unfold loadConfig
  repeat' (first
    | with_reducible rfl
    | simp only [core_mk, core_parts, core_view, apply_ite core, ite_self, core_tally, core_selectMaster,
        core_logicStart, core_switchZones]
    | split
    | (refine (core_foldl _ (fun s a => ?_) _ _).trans ?_)
    | rfl)

theorem core_fillStart (sheaf : ℕ) (ms : ℕ) (s : State) :
    core (fillStart sheaf ms s) = core s := by
  unfold fillStart
  repeat' (first
    | with_reducible rfl
    | simp only [core_mk, core_parts, core_view, apply_ite core, ite_self, core_tally]
    | split
    | (refine (core_foldl _ (fun s a => ?_) _ _).trans ?_)
    | rfl)

theorem core_restartSupervisor (cause : ℕ) (s : State) :
    core (restartSupervisor cause s) = core s := by
  unfold restartSupervisor
  repeat' (first
    | with_reducible rfl
    | simp only [core_mk, core_parts, core_view, apply_ite core, ite_self, core_count, core_sticky, core_tally,
        core_setOnline]
    | split
    | (refine (core_foldl _ (fun s a => ?_) _ _).trans ?_)
    | rfl)

theorem core_fatalError (x0 : FaultItems) (t : Time) (s : State) :
    core (fatalError x0 t s) = core s := by
  unfold fatalError
  repeat' (first
    | with_reducible rfl
    | simp only [core_mk, core_parts, core_view, apply_ite core, ite_self, core_sticky, core_advance, core_startDump,
        core_restartSupervisor]
    | split
    | (refine (core_foldl _ (fun s a => ?_) _ _).trans ?_)
    | rfl)

theorem core_plainRestart (cause : ℕ) (t : Time) (s : State) :
    core (plainRestart cause t s) = core s := by
  unfold plainRestart
  repeat' (first
    | with_reducible rfl
    | simp only [core_mk, core_parts, core_view, apply_ite core, ite_self, core_advance, core_restartSupervisor]
    | split
    | (refine (core_foldl _ (fun s a => ?_) _ _).trans ?_)
    | rfl)

theorem core_powerFails (s : State) :
    core (powerFails s) = core s := by
  unfold powerFails
  repeat' (first
    | with_reducible rfl
    | simp only [core_mk, core_parts, core_view, apply_ite core, ite_self, core_sticky, core_bistAbort]
    | split
    | (refine (core_foldl _ (fun s a => ?_) _ _).trans ?_)
    | rfl)

theorem core_vcoreSag (mv : ℕ) (s : State) :
    core (vcoreSag mv s) = core s := by
  unfold vcoreSag
  repeat' (first
    | with_reducible rfl
    | simp only [core_mk, core_parts, core_view, apply_ite core, ite_self, core_sticky, core_tally, core_bistAbort]
    | split
    | (refine (core_foldl _ (fun s a => ?_) _ _).trans ?_)
    | rfl)

theorem core_overheats (highest : ℤ) (s : State) :
    core (overheats highest s) = core s := by
  unfold overheats
  repeat' (first
    | with_reducible rfl
    | simp only [core_mk, core_parts, core_view, apply_ite core, ite_self, core_sticky, core_tally, core_bistAbort]
    | split
    | (refine (core_foldl _ (fun s a => ?_) _ _).trans ?_)
    | rfl)

theorem core_vidStep (slack100ms : ℕ) (slack10s : ℕ) (junction : ℤ) (s : State) :
    core (vidStep slack100ms slack10s junction s) = core s := by
  unfold vidStep
  repeat' (first
    | with_reducible rfl
    | simp only [core_mk, core_parts, core_view, apply_ite core, ite_self]
    | split
    | (refine (core_foldl _ (fun s a => ?_) _ _).trans ?_)
    | rfl)

theorem core_lockWaitEnds (seconds : ℕ) (s : State) :
    core (lockWaitEnds seconds s) = core s := by
  unfold lockWaitEnds
  repeat' (first
    | with_reducible rfl
    | simp only [core_mk, core_parts, core_view, apply_ite core, ite_self, core_tally]
    | split
    | (refine (core_foldl _ (fun s a => ?_) _ _).trans ?_)
    | rfl)

theorem core_tamper (light : Bool) (s : State) :
    core (tamper light s) = core s := by
  unfold tamper
  repeat' (first
    | with_reducible rfl
    | simp only [core_mk, core_parts, core_view, apply_ite core, ite_self]
    | split
    | (refine (core_foldl _ (fun s a => ?_) _ _).trans ?_)
    | rfl)

theorem core_latchLost (s : State) :
    core (latchLost s) = core s := by
  unfold latchLost
  repeat' (first
    | with_reducible rfl
    | simp only [core_mk, core_parts, core_view, apply_ite core, ite_self, core_takeFree]
    | split
    | (refine (core_foldl _ (fun s a => ?_) _ _).trans ?_)
    | rfl)

end Sys2Proof.Machine
end

