-- ==== Sys2Proof/Laws/CoreSheaf.lean ====
section
/-!
SUPPORT. The core is kept: operations that change one of several results and the state together, and the boundary's changes.
-/
set_option linter.all false

namespace Sys2Proof.Machine

theorem core_measure (d : Nat) (ws : List Word) (path : Nat) (f : Frame) (msg : LdfMsg) (lastSheaf : Nat) (t : LdfTerm)
    (s : State) : core (measure d ws path f msg lastSheaf t s).2 = core s := by
  unfold measure
  extract_lets i lr t0 rtt before t1 t2 r q
  split
  · rfl
  · show core r.2 = core s
    simp only [r]
    split
    · exact core_measureTimed _ _ _ _ _ _ _ _
    · rfl
    · exact core_measureEcho _ _ _ _ _ _ _ _

theorem core_ldfAccepted (d path : Nat) (ws : List Word) (f : Frame) (m : LdfMsg) (s : State) :
    core (ldfAccepted d path ws f m s) = core s := by
  unfold ldfAccepted
  extract_lets r x t j0 j follows lost s0 t0
  have h0 : core s0 = core s := by
    simp only [s0]
    split
    · rfl
    · exact core_count _ _ _
  generalize hx : measure _ _ _ _ _ _ _ _ = x
  have h1 : core x.2 = core s := by
    rw [← hx]
    exact (core_measure _ _ _ _ _ _ _ _).trans h0
  obtain ⟨a, s1⟩ := x
  dsimp only at h1 ⊢
  repeat' (first
    | exact h1
    | exact (core_decodeSets _ _ _ _ _ _).trans h1
    | (refine (core_setLdf _ _ _).trans ?_)
    | (refine (core_tally _ _ _).trans ?_)
    | split)

theorem core_ldfFrameIn (f : Frame) (s : State) : core (ldfFrameIn f s) = core s := by
  unfold ldfFrameIn
  split
  · rename_i h
    refine Eq.trans ?_ (core_serve h)
    dsimp only
    split
    · exact core_ldfAccepted _ _ _ _ _ _
    · exact core_count _ _ _
  · rfl

theorem core_ldfDeadline (s : State) : core (ldfDeadline s) = core s := by
  unfold ldfDeadline
  refine core_foldl _ (fun s e => ?_) _ _
  extract_lets
  generalize hx : List.foldl _ (ldfOf s e.1, s) _ = x
  have h1 : core x.2 = core s := by
    rw [← hx]
    refine core_foldl_snd _ (fun b s a => ?_) _ _
    exact core_ldfModeStep _ _ _ _ _
  obtain ⟨a, s1⟩ := x
  simpa only [core_setLdf] using h1

theorem core_resolveFires (k m : ℕ) (s : State) : core (resolveFires k m s).2 = core s := by
  unfold resolveFires
  extract_lets
  refine (core_foldl_snd _ (fun b s t => ?_) _ _).trans ?_
  · exact core_openGroup _ _ _ _ _
  · refine (core_foldl_thd _ (fun b c s f => ?_) _ _).trans ?_
    · extract_lets
      repeat' (first | with_reducible rfl | exact core_extendRecord _ _ _ _ | exact core_count _ _ _ | split)
    · refine (core_foldl _ (fun s a => core_sendCross _ _) _ _).trans rfl

theorem core_stepSample (k m : ℕ) (s : State) : core (stepSample k m s).2 = core s := by
  unfold stepSample
  extract_lets
  refine (core_resolveFires _ _ _).trans ((core_closeByMasks _ _ _).trans ?_)
  exact core_foldl _ (fun s a => core_stepProgram _ _ _ _) _ _

theorem core_noteFacts (k : ℕ) (s : State) : core (noteFacts k s) = core s := by
  unfold noteFacts
  extract_lets
  split <;> rfl

theorem core_thresherSheaf (k : ℕ) (manual : List ℕ) (s : State) : core (thresherSheaf k manual s).2 = core s := by
  unfold thresherSheaf
  simp only [core_mk, core_parts, core_closeRecords, core_notePoints, core_stepSample, core_noteFacts]

theorem core_runThresher (k : ℕ) (s : State) : core (runThresher k s) = core s := by
  unfold runThresher
  extract_lets
  refine (core_foldl _ (fun s p => core_answerChange _ _ _) _ _).trans ?_
  refine (core_thresherSheaf _ _ _).trans ?_
  exact core_takeChanges _ _

theorem core_applyChanges (k : ℕ) (s : State) : core (applyChanges k s) = core s := by
  unfold applyChanges
  extract_lets
  refine (core_applyKind _ _ _ (fun p s => core_applyRestart _ _ _) _).trans ?_
  refine (core_applyKind _ _ _ (fun p s => core_applyUnforce _ _ _) _).trans ?_
  refine (core_applyKind _ _ _ (fun p s => core_applyForce _ _ _) _).trans ?_
  refine (core_applyKind _ _ _ (fun p s => core_applyParam _ _ _) _).trans ?_
  refine (core_foldl _ (fun s z => core_sourceGroup _ _) _ _).trans ?_
  refine (core_inputBoundary _ _).trans ?_
  refine (core_applyKind _ _ _ (fun p s => core_applyGroup _ _ _) _).trans ?_
  refine (core_applyKind _ _ _ (fun p s => core_applySnapsets _ _ _) _).trans ?_
  exact core_applyKind _ _ _ (fun p s => core_applyPackage _ _ _) _

end Sys2Proof.Machine
end

