-- ==== Sys2Proof/Laws/Memory.lean ====
section
/-!
SUPPORT. Host memory and the sparse tables: a write is read back, leaves every other place alone, and keeps host memory's
canonical form.
-/
namespace Sys2Proof.Machine

/-- Reading a sparse table after a write. -/
@[simp] theorem FMap.get?_set {α : Type} (m : FMap α) (k j : Nat) (a : α) :
    FMap.get? (FMap.set m k a) j = if k = j then some a else FMap.get? m j := by
  induction m with
  | nil => by_cases h : k = j <;> simp [FMap.set, FMap.get?, h]
  | cons p rest ih =>
    obtain ⟨i, b⟩ := p
    unfold FMap.set
    split
    · subst i
      simp only [FMap.get?]
      split <;> rfl
    · split
      · simp only [FMap.get?]
      · simp only [FMap.get?, ih]
        split
        · rw [if_neg]; omega
        · rfl

/-- The same, with the default of an unlisted key. -/
@[simp] theorem FMap.get_set {α : Type} (m : FMap α) (d : α) (k j : Nat) (a : α) :
    FMap.get (FMap.set m k a) d j = if k = j then a else FMap.get m d j := by
  unfold FMap.get
  rw [FMap.get?_set]
  split <;> rfl

/-- An entry of a written table is the new one or stood in the old one. -/
theorem FMap.mem_set {α : Type} (m : FMap α) (k : Nat) (a : α) (x : Nat × α) (h : x ∈ FMap.set m k a) :
    x = (k, a) ∨ x ∈ m := by
  induction m with
  | nil => exact .inl (List.mem_singleton.mp h)
  | cons p rest ih =>
    obtain ⟨i, b⟩ := p
    unfold FMap.set at h
    split at h
    · rcases List.mem_cons.mp h with h | h
      · exact .inl h
      · exact .inr (List.mem_cons_of_mem _ h)
    · split at h
      · rcases List.mem_cons.mp h with h | h
        · exact .inl h
        · exact .inr h
      · rcases List.mem_cons.mp h with h | h
        · exact .inr (h ▸ List.mem_cons_self)
        · exact (ih h).imp id (List.mem_cons_of_mem _)

/-- A value read from a table stands in it. -/
theorem FMap.mem_of_get? {α : Type} (m : FMap α) (k : Nat) (a : α) (h : FMap.get? m k = some a) : (k, a) ∈ m := by
  induction m with
  | nil => cases h
  | cons p rest ih =>
    obtain ⟨i, b⟩ := p
    unfold FMap.get? at h
    split at h
    · subst i
      cases h
      exact List.mem_cons_self
    · exact List.mem_cons_of_mem _ (ih h)

/-- A smaller bound holds too. -/
theorem memAbove_mono {m : List Host.Cell} {lo hi : Nat} (h : lo ≤ hi) (w : memAbove hi m = true) : memAbove lo m = true := by
  cases m with
  | nil => rfl
  | cons p rest =>
    simp only [memAbove, Bool.and_eq_true, decide_eq_true_eq] at w ⊢
    exact ⟨⟨by omega, w.1.2⟩, w.2⟩

/-- Below every listed address memory reads 0. -/
theorem memGet_below {m : List Host.Cell} {lo k : Nat} (w : memAbove lo m = true) (h : k < lo) : memGet m k = 0#8 := by
  induction m generalizing lo with
  | nil => rfl
  | cons p rest ih =>
    simp only [memAbove, Bool.and_eq_true, decide_eq_true_eq] at w
    simp only [memGet]
    rw [if_neg (by omega)]
    exact ih w.2 (by omega)

/-- A write keeps the canonical form above a bound that the address respects. -/
theorem memAbove_memSet {m : List Host.Cell} {lo k : Nat} (b : Byte) (w : memAbove lo m = true) (h : lo ≤ k) :
    memAbove lo (memSet m k b) = true := by
  induction m generalizing lo with
  | nil =>
    unfold memSet
    split
    · rfl
    · simp_all [memAbove]
  | cons p rest ih =>
    obtain ⟨a, c⟩ := p
    have w' := w
    simp only [memAbove, Bool.and_eq_true, decide_eq_true_eq] at w'
    unfold memSet
    split
    · subst a
      split
      · exact memAbove_mono (by omega) w'.2
      · simp_all [memAbove]
    · split
      · split
        · exact w
        · have : memAbove (k + 1) ((a, c) :: rest) = true := by
            simp only [memAbove, Bool.and_eq_true, decide_eq_true_eq]
            exact ⟨⟨by omega, w'.1.2⟩, w'.2⟩
          simp_all [memAbove]
      · have := ih w'.2 (by omega)
        simp only [memAbove, Bool.and_eq_true, decide_eq_true_eq]
        exact ⟨w'.1, this⟩

/-- Reading one byte after a write of one byte. -/
theorem memGet_memSet {m : List Host.Cell} {lo k : Nat} (b : Byte) (j : Nat) (w : memAbove lo m = true) :
    memGet (memSet m k b) j = if k = j then b else memGet m j := by
  induction m generalizing lo with
  | nil => by_cases hb : b = 0#8 <;> by_cases hk : k = j <;> simp [memSet, memGet, hb, hk]
  | cons p rest ih =>
    obtain ⟨a, c⟩ := p
    have w' := w
    simp only [memAbove, Bool.and_eq_true, decide_eq_true_eq] at w'
    unfold memSet
    split
    · subst a
      split
      · by_cases hj : k = j
        · subst j
          rw [if_pos rfl, memGet_below w'.2 (by omega)]
          exact Eq.symm ‹_›
        · simp only [memGet, if_neg hj]
      · simp only [memGet]
        split <;> rfl
    · split
      · split
        · by_cases hj : k = j
          · subst j
            rw [if_pos rfl]
            have := memGet_below (m := (a, c) :: rest) (lo := k + 1) (k := k)
              (by
                simp only [memAbove, Bool.and_eq_true, decide_eq_true_eq]
                exact ⟨⟨by omega, w'.1.2⟩, w'.2⟩) (by omega)
            rw [this]
            exact Eq.symm ‹_›
          · rw [if_neg hj]
        · simp only [memGet]
      · simp only [memGet, ih w'.2]
        split
        · rw [if_neg]; omega
        · rfl

/-- Host memory keeps its canonical form under a write of one byte and of many. -/
theorem wf_memSet {m : List Host.Cell} (k : Nat) (b : Byte) (w : Memory.wf m = true) : Memory.wf (memSet m k b) = true :=
  memAbove_memSet b w (Nat.zero_le _)
theorem wf_memWrite {m : List Host.Cell} (a : Nat) (bs : List Byte) (w : Memory.wf m = true) :
    Memory.wf (memWrite m a bs) = true := by
  induction bs generalizing m a with
  | nil => exact w
  | cons b bs ih => exact ih _ (wf_memSet a b w)

/-- A byte outside the written range reads as before. -/
theorem memGet_memWrite_other {m : List Host.Cell} (a : Nat) (bs : List Byte) (j : Nat) (w : Memory.wf m = true)
    (h : j < a ∨ a + bs.length ≤ j) : memGet (memWrite m a bs) j = memGet m j := by
  induction bs generalizing m a with
  | nil => rfl
  | cons b bs ih =>
    simp only [List.length_cons] at h
    have := ih (m := memSet m a b) (a + 1) (wf_memSet a b w) (by omega)
    simp only [memWrite, this]
    rw [memGet_memSet b j w, if_neg (by omega)]

/-- A written range reads back. -/
theorem memRead_memWrite {m : List Host.Cell} (a : Nat) (bs : List Byte) (w : Memory.wf m = true) :
    memRead (memWrite m a bs) a bs.length = bs := by
  induction bs generalizing m a with
  | nil => rfl
  | cons b bs ih =>
    have h1 := ih (m := memSet m a b) (a + 1) (wf_memSet a b w)
    have h2 := memGet_memWrite_other (m := memSet m a b) (a + 1) bs a (wf_memSet a b w) (by omega)
    simp only [List.length_cons, memRead, memWrite, h1, h2]
    rw [memGet_memSet b a w, if_pos rfl]

end Sys2Proof.Machine
end

