-- ==== Sys2Proof/Laws/CoreCommands.lean ====
section
/-!
SUPPORT. What handling a command keeps: every operation from the doorbell to the end of a command leaves the core alone but for
host memory, which keeps its canonical form, and C0 of PAIR_CONFIG, which changes in CONFIG only.
-/
set_option linter.all false

namespace Sys2Proof.Machine

/-- What handling a command keeps: the core but for host memory and C0; host memory's canonical form; C0 outside CONFIG. -/
structure CmdKeeps (s t : State) : Prop where
  calm : (core t).calm = (core s).calm
  mem : Memory.wf s.hostMem = true → Memory.wf t.hostMem = true
  c0 : t.pair.c0 = s.pair.c0 ∨ s.glb.gstate = .config

theorem CmdKeeps.refl (s : State) : CmdKeeps s s := ⟨rfl, id, .inl rfl⟩

theorem core_gstate {s t : State} (h : (core t).calm = (core s).calm) : t.glb.gstate = s.glb.gstate :=
  congrArg Core.gstate h

theorem CmdKeeps.trans {s t u : State} (h : CmdKeeps s t) (k : CmdKeeps t u) : CmdKeeps s u :=
  ⟨k.calm.trans h.calm, fun m => k.mem (h.mem m), by
    rcases k.c0 with e | e
    · exact h.c0.imp (fun x => e.trans x) id
    · exact .inr ((core_gstate h.calm).symm.trans e)⟩

theorem CmdKeeps.of_core {s t : State} (h : core t = core s) : CmdKeeps s t :=
  ⟨congrArg Core.calm h, fun m => by
    have : t.hostMem = s.hostMem := congrArg Core.mem h
    rw [this]; exact m, .inl (congrArg Core.c0 h)⟩

/-- After a step that keeps the core. -/
theorem CmdKeeps.next {s t u : State} (h : core u = core t) (k : CmdKeeps s t) : CmdKeeps s u := k.trans (.of_core h)

/-- Before a step that keeps what commands keep. -/
theorem CmdKeeps.after {s t u : State} (k : CmdKeeps t u) (h : core t = core s) : CmdKeeps s u := (CmdKeeps.of_core h).trans k

theorem keeps_writeBuffer (e : Inflight) (o : ℕ) (bs : List Byte) (s : State) : CmdKeeps s (writeBuffer e o bs s) :=
  ⟨rfl, fun m => wf_memWrite _ _ m, .inl rfl⟩

theorem keeps_doGetCerts (v : View) (e : Inflight) (s : State) : CmdKeeps s (doGetCerts v e s) := by
  unfold doGetCerts
  repeat' (first
    | with_reducible exact .of_core (core_answer _ _ _ _)
    | with_reducible exact .of_core (core_deferCommand _ _ _ _)
    | with_reducible exact .of_core (core_complete _ _ _ _ _ _)
    | with_reducible exact .next (core_complete _ _ _ _ _ _) (keeps_writeBuffer _ _ _ _)
    | split
    | extract_lets)

theorem keeps_endListRecords (v : View) (e : Inflight) (s : State) : CmdKeeps s (endListRecords v e s) := by
  unfold endListRecords
  repeat' (first
    | with_reducible exact .of_core (core_answer _ _ _ _)
    | with_reducible exact .of_core (core_deferCommand _ _ _ _)
    | with_reducible exact .of_core (core_complete _ _ _ _ _ _)
    | with_reducible exact .next (core_complete _ _ _ _ _ _) (keeps_writeBuffer _ _ _ _)
    | split
    | extract_lets)

theorem keeps_endFetchRecord (v : View) (e : Inflight) (s : State) : CmdKeeps s (endFetchRecord v e s) := by
  unfold endFetchRecord
  repeat' (first
    | with_reducible exact .of_core (core_answer _ _ _ _)
    | with_reducible exact .of_core (core_deferCommand _ _ _ _)
    | with_reducible exact .of_core (core_complete _ _ _ _ _ _)
    | with_reducible exact .next (core_complete _ _ _ _ _ _) (keeps_writeBuffer _ _ _ _)
    | split
    | extract_lets)

theorem keeps_endFetchTally (v : View) (e : Inflight) (s : State) : CmdKeeps s (endFetchTally v e s) := by
  unfold endFetchTally
  repeat' (first
    | with_reducible exact .of_core (core_answer _ _ _ _)
    | with_reducible exact .of_core (core_deferCommand _ _ _ _)
    | with_reducible exact .of_core (core_complete _ _ _ _ _ _)
    | with_reducible exact .next (core_complete _ _ _ _ _ _) (keeps_writeBuffer _ _ _ _)
    | split
    | extract_lets)

theorem keeps_doTimeStatus (v : View) (e : Inflight) (s : State) : CmdKeeps s (doTimeStatus v e s) := by
  unfold doTimeStatus
  repeat' (first
    | with_reducible exact .of_core (core_answer _ _ _ _)
    | with_reducible exact .of_core (core_deferCommand _ _ _ _)
    | with_reducible exact .of_core (core_complete _ _ _ _ _ _)
    | with_reducible exact .next (core_complete _ _ _ _ _ _) (keeps_writeBuffer _ _ _ _)
    | split
    | extract_lets)

theorem keeps_doCalStatus (v : View) (e : Inflight) (s : State) : CmdKeeps s (doCalStatus v e s) := by
  unfold doCalStatus
  split
  · exact .of_core (core_answer _ _ _ _)
  · generalize leBytes 4 3232 = r
    generalize calStatusBytes s = bs
    exact .next (core_complete _ _ _ _ _ _) (keeps_writeBuffer _ _ _ _)

theorem keeps_doAttest (v : View) (e : Inflight) (s : State) : CmdKeeps s (doAttest v e s) := by
  unfold doAttest
  split
  · exact .of_core (core_answer _ _ _ _)
  · split
    · exact .of_core (core_answer _ _ _ _)
    · split
      · exact .of_core (core_deferCommand _ _ _ _)
      · extract_lets b
        generalize leBytes 4 488 = r
        generalize b ++ identitySign b = bs
        exact .next (core_complete _ _ _ _ _ _) (keeps_writeBuffer _ _ _ _)

theorem keeps_endFetchDump (v : View) (e : Inflight) (s : State) : CmdKeeps s (endFetchDump v e s) := by
  unfold endFetchDump
  repeat' (first
    | with_reducible exact .of_core (core_answer _ _ _ _)
    | with_reducible exact .of_core (core_deferCommand _ _ _ _)
    | with_reducible exact .of_core (core_complete _ _ _ _ _ _)
    | with_reducible exact .next (core_complete _ _ _ _ _ _) (keeps_writeBuffer _ _ _ _)
    | split)


/-- PAIR_CONFIG is executed in CONFIG only. -/
theorem keeps_doPairConfig (v : View) (e : Inflight) (s : State) (h : s.glb.gstate = .config) :
    CmdKeeps s (doPairConfig v e s) := by
  unfold doPairConfig
  extract_lets c0 c1
  split
  · exact .of_core (core_answer _ _ _ _)
  · exact .next (core_complete _ _ _ _ _ _) ⟨rfl, id, .inr h⟩

theorem keeps_runPlain (v : View) (e : Inflight) (s : State) (h : e.opcode.toNat = 0x0701 → s.glb.gstate = .config) :
    CmdKeeps s (runPlain v e s) := by
  unfold runPlain
  split
  case h_12 g => exact keeps_doPairConfig v e s (h g)
  all_goals first
    | exact keeps_doGetCerts _ _ _
    | exact keeps_doTimeStatus _ _ _
    | exact keeps_doCalStatus _ _ _
    | exact keeps_doAttest _ _ _
    | exact .refl s
    | (refine .of_core ?_; simp only [core_doGetInfo, core_doStage, core_doSetLpipe, core_doLoad, core_doListRecords,
        core_doFetchRecord, core_doReleaseRecord, core_doFetchTally, core_doTimeConfig, core_doSwapRoles, core_doSpotConvert,
        core_doInstall, core_doActivate, core_doSetOwner, core_doRequireSigned, core_doFetchDump])

theorem keeps_runEffect (g : ℕ) (v : View) (e : Inflight) (s : State) (h : e.opcode.toNat = 0x0701 → s.glb.gstate = .config) :
    CmdKeeps s (runEffect g v e s) := by
  unfold runEffect
  split
  all_goals first
    | exact keeps_runPlain v e s h
    | (refine .of_core ?_; simp only [core_doCommit, core_doSelectGroup, core_doParamWrite, core_doForce, core_doUnforce,
        core_doRestartLogic, core_doManualTrigger, core_doConfigSnapsets, core_doRunBist])

theorem keeps_runNow (g : ℕ) (v : View) (e : Inflight) (s : State) : CmdKeeps s (runNow g v e s) := by
  unfold runNow
  split
  · exact .refl s
  · rename_i c hc
    split
    · exact .of_core (core_answer _ _ _ _)
    · rename_i hs
      split
      · exact .of_core (core_answer _ _ _ _)
      · refine keeps_runEffect g v e s (fun h => ?_)
        have hk : c.states = [.config] := by
          unfold commandSpec at hc
          have : commandTable.find? (fun c => c.opcode == 0x0701) = some c := by rw [← h]; exact hc
          have e := this.symm.trans (show _ = some ⟨0x0701, false, [.config], false, 8, none, true⟩ from rfl)
          cases e
          rfl
        rw [hk] at hs
        cases hg : s.glb.gstate <;> simp_all

theorem keeps_execute (g : ℕ) (v : View) (e : Inflight) (s : State) : CmdKeeps s (execute g v e s) := by
  unfold execute
  split
  · exact .of_core (core_setStage _ _ _ _)
  · exact keeps_runNow _ _ _ _

theorem keeps_wakeView (v : View) (n : ℕ) (s : State) : CmdKeeps s (wakeView v n s) := by
  induction n generalizing s with
  | zero => exact .refl s
  | succ n ih =>
    unfold wakeView
    split
    · exact ((CmdKeeps.of_core (core_setStage _ _ _ _)).trans (keeps_runNow _ _ _ _)).trans (ih _)
    · exact .refl s

theorem keeps_wake (s : State) : CmdKeeps s (wake s) := by
  unfold wake
  split
  · exact keeps_wakeView _ _ _
  · exact .refl s

theorem keeps_takeBell (b : Bell) (s : State) : CmdKeeps s (takeBell b s) := by
  unfold takeBell
  extract_lets
  split
  · exact .of_core (core_rejectNow _ _ _ _ _)
  · exact .of_core (core_replayNow _ _ _ _)
  · exact .of_core (core_acceptedNow _ _ _ _ _)
  · exact .of_core (core_addInflight _ _ _)
  · exact (CmdKeeps.of_core (core_addInflight _ _ _)).trans (keeps_execute _ _ _ _)

theorem keeps_takeDoorbells (n : ℕ) (s : State) : CmdKeeps s (takeDoorbells n s) := by
  induction n generalizing s with
  | zero => exact .refl s
  | succ n ih =>
    unfold takeDoorbells
    split
    · split
      · exact .refl s
      · rename_i b rest hb
        refine CmdKeeps.trans ?_ (ih _)
        refine CmdKeeps.trans ?_ (keeps_takeBell _ _)
        exact .of_core rfl
    · exact .refl s

theorem keeps_settle (s : State) : CmdKeeps s (settle s) := (keeps_wake s).trans (keeps_takeDoorbells _ _)

theorem keeps_writeSlot (c : Submit) (opcode : Half) (bufAt : Option ℕ) (s : State) :
    CmdKeeps s (writeSlot c opcode bufAt s) := by
  unfold writeSlot
  extract_lets s0
  have h0 : CmdKeeps s s0 := by
    simp only [s0]
    split
    · exact ⟨rfl, fun m => wf_memWrite _ _ m, .inl rfl⟩
    · exact .refl s
  split
  · exact h0
  · refine .next ?_ h0
    extract_lets
    exact core_view _ _ _

theorem keeps_submit (c : Submit) (opcode : Half) (bufAt : Option ℕ) (s : State) : CmdKeeps s (submit c opcode bufAt s) :=
  (keeps_writeSlot _ _ _ _).trans (keeps_settle _)

theorem keeps_accept (v : View) (e : Inflight) (s : State) : CmdKeeps s (accept v e s) := by
  unfold accept
  extract_lets q a x s0 st s1 s2
  have h0 : core s0 = core s := core_view _ _ _
  have h1 : core s1 = core s := h0
  have h2 : core s2 = core s := (core_traceMsg _ _ _).trans h1
  split
  · exact .next (core_setStage _ _ _ _) (.of_core h2)
  · exact (CmdKeeps.of_core h2).trans (keeps_execute _ _ _ _)

theorem keeps_acceptance (v : View) (slot : ℕ) (failA failB : Bool) (s : State) :
    CmdKeeps s (acceptance v slot failA failB s) := by
  unfold acceptance
  split
  · exact .refl s
  · split
    · exact .refl s
    · extract_lets s1
      have h1 : core s1 = core s := core_retireMirrors _ _ _ _
      split
      · split
        · exact .next (core_setStage _ _ _ _) (.of_core h1)
        · exact (CmdKeeps.of_core h1).trans (keeps_accept _ _ _)
      · split
        · exact (CmdKeeps.next (core_setStage _ _ _ _) (.of_core h1)).trans (keeps_runNow _ _ _ _)
        · exact .next ((core_rejectNow _ _ _ _ _).trans (core_dropInflight _ _ _)) (.of_core h1)

theorem keeps_partnerAck (slot : ℕ) (done : Option PairDone) (s : State) : CmdKeeps s (partnerAck slot done s) := by
  unfold partnerAck
  split
  · exact .refl s
  · split
    · exact .refl s
    · split
      · exact .after (keeps_accept _ _ _) rfl
      · exact .of_core (core_finish _ _ _ _ _ _)
      · exact .of_core (core_finish _ _ _ _ _ _)
      · exact .refl s

theorem keeps_ackTimeout (slot : ℕ) (s : State) : CmdKeeps s (ackTimeout slot s) := by
  unfold ackTimeout
  split
  · exact .refl s
  · split
    · exact .refl s
    · split
      · extract_lets s0
        have h0 : CmdKeeps s s0 := (CmdKeeps.of_core (core_markAlone _ _)).trans (keeps_accept _ _ _)
        split
        · split
          · exact .next (core_finish _ _ _ _ _ _) h0
          · exact h0
        · exact h0
      · exact .next (core_finish _ _ _ _ _ _) (.of_core (core_markAlone _ _))
      · exact .refl s

theorem keeps_mirrorCommand (c : Submit) (opcode : Half) (engineSeq : Quad) (g : ℕ) (s : State) :
    CmdKeeps s (mirrorCommand c opcode engineSeq g s) := by
  unfold mirrorCommand
  extract_lets
  split
  · exact .refl s
  · rename_i r hr
    split
    · exact .refl s
    · extract_lets e s0 q st s1 pf s2
      have h0 : CmdKeeps s s0 := by
        simp only [s0]
        split
        · exact ⟨rfl, fun m => wf_memWrite _ _ m, .inl rfl⟩
        · exact .refl s
      have hc : core s2 = core s0 := core_addInflight _ _ _
      have h2 : CmdKeeps s s2 := .next hc h0
      split
      · exact h2.trans (keeps_execute _ _ _ _)
      · exact .next (core_setStage _ _ _ _) h2

theorem keeps_pairMirror (c : Submit) (opcode : Half) (engineSeq : Quad) (g : ℕ) (done : Option PairDone) (s : State) :
    CmdKeeps s (pairMirror c opcode engineSeq g done s) := by
  unfold pairMirror
  split
  · exact .refl s
  · cases done with
    | none =>
      dsimp only
      split
      · exact .refl s
      · exact keeps_mirrorCommand _ _ _ _ _
    | some d => exact .of_core (core_mirrorDone _ _ _ _ _)

theorem keeps_endEffect (v : View) (e : Inflight) (s : State) : CmdKeeps s (endEffect v e s) := by
  unfold endEffect
  split
  all_goals first
    | with_reducible exact keeps_endListRecords _ _ _
    | with_reducible exact keeps_endFetchRecord _ _ _
    | with_reducible exact keeps_endFetchTally _ _ _
    | with_reducible exact keeps_endFetchDump _ _ _
    | with_reducible exact .refl s
    | (refine .of_core ?_; simp only [core_endStage, core_endLoad, core_endInstall])

theorem keeps_executionEnd (v : View) (x : Ended) (s : State) : CmdKeeps s (executionEnd v x s) := by
  unfold executionEnd
  extract_lets
  split
  · exact .refl s
  · split
    · exact .refl s
    · split
      · exact .of_core (core_answer _ _ _ _)
      · refine .after (keeps_endEffect _ _ _) ?_
        split
        · exact core_retireMirrors _ _ _ _
        · rfl

theorem keeps_foldl {α : Type} (f : State → α → State) (h : ∀ s a, CmdKeeps s (f s a)) (l : List α) (s : State) :
    CmdKeeps s (l.foldl f s) := by
  induction l generalizing s with
  | nil => exact .refl s
  | cons a l ih => exact (h s a).trans (ih _)

/-- A command that runs again after a reset: a read in full, any other where its state permits it. -/
theorem keeps_runAgain (v : View) (e : Inflight) (s : State) : CmdKeeps s (runAgain v e s) := by
  unfold runAgain
  extract_lets e1 x1 s1
  have h1 : core s1 = core s := core_view _ _ _
  refine .after ?_ h1
  split
  · rename_i hr
    split
    · exact .of_core (core_answer _ _ _ _)
    · refine keeps_runEffect _ _ _ _ (fun h => absurd hr ?_)
      simp only [isRead, h]
      decide
  · exact keeps_execute _ _ _ _

theorem keeps_resolveOne (v : View) (e : Inflight) (s : State) : CmdKeeps s (resolveOne v e s) := by
  unfold resolveOne
  split
  · exact .of_core (core_complete _ _ _ _ _ _)
  · split
    · exact .of_core (core_resumeInstall _ _ _)
    · exact .refl s
  · exact keeps_runAgain _ _ _
  · exact .refl s

theorem core_together (f : State → State) (s : State) : core (together f s) = core (f s) := rfl

theorem keeps_together (f : State → State) (s : State) (h : CmdKeeps s (f s)) : CmdKeeps s (together f s) :=
  .next (core_together f s) h

theorem keeps_mailboxPosts (s : State) : CmdKeeps s (mailboxPosts s) := by
  unfold mailboxPosts
  extract_lets s0 b s1 s2 s3 s4 held pw s5 s6
  have h0 : core s0 = core s := core_setOnline _ _
  have h1 : core s1 = core s := by
    simp only [s1]
    split
    · exact h0
    · exact h0
  have h3 : CmdKeeps s s3 := ((CmdKeeps.of_core h1).trans (keeps_foldl _ (fun s e => keeps_resolveOne _ _ _) _ _)).trans
    (keeps_foldl _ (fun s e => keeps_resolveOne _ _ _) _ _)
  have h4 : CmdKeeps s s4 := .next (core_postEvent _ _ _) h3
  have h5 : CmdKeeps s s5 := .next (t := s4) rfl h4
  have h6 : CmdKeeps s s6 := .next (core_foldl _ (fun s e => core_postEvent _ _ _) _ _) h5
  exact h6.trans (.after (keeps_settle _) rfl)

theorem keeps_mailboxReturns (s : State) : CmdKeeps s (mailboxReturns s) := by
  unfold mailboxReturns
  extract_lets p
  split
  · exact .refl s
  · exact keeps_together _ _ (keeps_mailboxPosts s)

/-- The commands of a failed holder end or run here. -/
theorem keeps_resolveTakeover (s : State) : CmdKeeps s (resolveTakeover s) := by
  unfold resolveTakeover
  refine keeps_foldl _ (fun s e => ?_) _ _
  extract_lets cut
  split
  · exact keeps_runAgain _ _ _
  · exact .of_core ((core_journalDone _ _ _).trans (core_dropInflight _ _ _))

theorem keeps_ringDoorbell (v : View) (slot : ℕ) (s : State) : CmdKeeps s (ringDoorbell v slot s) := by
  unfold ringDoorbell
  split
  · exact .refl s
  · exact .after (keeps_settle _) rfl

theorem core_msixWrite (v : View) (o : ℕ) (w : Word) (s : State) : core (msixWrite v o w s) = core s := by
  unfold msixWrite
  split
  · exact core_vectorControl _ _ _ _
  · exact core_view _ _ _

theorem keeps_writeWord (v : View) (o : ℕ) (w : Word) (s : State) : CmdKeeps s (writeWord v o w s) := by
  unfold writeWord
  extract_lets
  repeat' (first
    | with_reducible exact keeps_ringDoorbell _ _ _
    | with_reducible exact .refl s
    | with_reducible exact .of_core (core_tailWrite _ _ _)
    | with_reducible exact .of_core (core_view _ _ _)
    | with_reducible exact .of_core (core_snapshotWrite _ _ _)
    | with_reducible exact .of_core (core_stickyWrite _ _ _ _)
    | with_reducible exact .of_core (core_slotWrite _ _ _ _)
    | with_reducible exact .of_core (core_msixWrite _ _ _ _)
    | split
    | extract_lets)

theorem keeps_registerWrite (v : View) (o size : ℕ) (w : Word) (s : State) : CmdKeeps s (registerWrite v o size w s) := by
  unfold registerWrite
  split
  · exact .refl s
  · exact keeps_writeWord _ _ _ _

theorem core_postDecided (v : View) (s : State) : core (postDecided v s) = core s := by
  unfold postDecided
  refine core_foldl _ (fun s e => ?_) _ _
  split
  · exact core_complete _ _ _ _ _ _
  · rfl

theorem keeps_powerReturns (s : State) : CmdKeeps s (powerReturns s) := by
  unfold powerReturns
  split
  · exact .refl s
  · extract_lets p st s1
    have h1 : core s1 = core s := rfl
    refine .after (keeps_settle _) ?_
    split
    · exact (core_postDecided _ _).trans ((core_postDecided _ _).trans h1)
    · exact h1

end Sys2Proof.Machine
end

