-- ==== Sys2Proof/Laws/CoreTrip.lean ====
section
/-!
SUPPORT. What the trip path, the pair, the commit and the starts keep: memory, wires and token (Safety.Invariant), function by
function. A state is quiet where no wire toggles and no token is held.
-/
set_option linter.all false

namespace Sys2Proof.Machine
open Sys2Proof.Safety

/-- The part of a state that Safety.Invariant reads. -/
def Core.live (c : Core) : List Host.Cell × FMap Wire × Bool × Bool × Word × GState × Bool :=
  (c.mem, c.wires, c.token, c.releasing, c.c0, c.gstate, c.supplyOk)

theorem inv_of_live {s t : State} (h : (core t).live = (core s).live) (i : Invariant s) : Invariant t := by
  simp only [core, Core.live, Prod.mk.injEq] at h
  obtain ⟨h1, h2, h3, h7, h4, h5, h6⟩ := h
  refine ⟨?_, ?_, ?_⟩
  · have := i.memory; simp only [memoryCanonical, h1] at this ⊢; exact this
  · have := i.wires; simp only [wiresSafe, driving, holdsToken, paired, protecting, h2, h3, h4, h5, h6, h7] at this ⊢; exact this
  · have := i.token; simp only [paired, protecting, h3, h4, h5] at this ⊢; exact this

theorem inv_of_core {s t : State} (h : core t = core s) (i : Invariant s) : Invariant t := inv_of_live (congrArg Core.live h) i

theorem inv_of_keeps {s t : State} (k : CmdKeeps s t) (i : Invariant s) : Invariant t := by
  have hw : t.wires = s.wires := congrArg Core.wires k.calm
  have ht : t.pair.token = s.pair.token := congrArg Core.token k.calm
  have hr : t.pair.releaseDriven = s.pair.releaseDriven := congrArg Core.releasing k.calm
  have hg : t.glb.gstate = s.glb.gstate := core_gstate k.calm
  have hs : t.power.supplyOk = s.power.supplyOk := congrArg Core.supplyOk k.calm
  rcases k.c0 with h | h
  · refine ⟨k.mem i.memory, ?_, ?_⟩
    · have := i.wires; simp only [wiresSafe, driving, holdsToken, paired, protecting, hw, ht, hr, hg, hs, h] at this ⊢; exact this
    · have := i.token; simp only [paired, protecting, ht, hg, h] at this ⊢; exact this
  · have hp : protecting s = false := by simp [protecting, h]
    refine ⟨k.mem i.memory, fun n w m g => ?_, fun m => ?_⟩
    · have := i.wires n w (hw ▸ m) g; simp [driving, hp] at this
    · have := (i.token (ht ▸ m)).2; simp [hp] at this

theorem paired_of_core {s t : State} (h : core t = core s) : paired t = paired s :=
  congrArg (fun c : Core => bit c.c0 0) h
theorem protecting_of_core {s t : State} (h : core t = core s) : protecting t = protecting s :=
  congrArg (fun c : Core => c.gstate == .protecting || c.gstate == .degraded) h

/-- No wire toggles and no token is held. -/
structure Quiet (s : State) : Prop where
  wires : ∀ n w, (n, w) ∈ s.wires → w.toggling = false
  token : s.pair.token = false

theorem Quiet.inv {s : State} (q : Quiet s) (m : Memory.wf s.hostMem = true) : Invariant s :=
  ⟨m, fun n w h g => absurd g (by simp [q.wires n w h]), fun g => absurd g (by simp [q.token])⟩

theorem quiet_of_parts {s t : State} (hw : t.wires = s.wires) (ht : t.pair.token = s.pair.token) (q : Quiet s) : Quiet t :=
  ⟨by rw [hw]; exact q.wires, by rw [ht]; exact q.token⟩

theorem quiet_of_core {s t : State} (h : core t = core s) (q : Quiet s) : Quiet t :=
  quiet_of_parts (congrArg Core.wires h) (congrArg Core.token h) q

/-- Where zones are not evaluated, the invariant says quiet. -/
theorem quiet_of_inv {s : State} (i : Invariant s) (h : protecting s = false) : Quiet s :=
  ⟨fun n w m => by
      cases g : w.toggling
      · rfl
      · have := i.wires n w m g; simp [driving, h] at this,
    by
      cases g : s.pair.token
      · rfl
      · have := (i.token g).2; simp [h] at this⟩

/-- A change of the wires that starts none, the rest of what the invariant reads kept. -/
theorem inv_of_wires {s t : State} (hm : t.hostMem = s.hostMem) (ht : t.pair.token = s.pair.token)
    (hr : t.pair.releaseDriven = s.pair.releaseDriven) (hc : t.pair.c0 = s.pair.c0) (hg : t.glb.gstate = s.glb.gstate) (hs : t.power.supplyOk = s.power.supplyOk)
    (hw : ∀ n w, (n, w) ∈ t.wires → w.toggling = true → driving s = true) (i : Invariant s) : Invariant t := by
  refine ⟨?_, ?_, ?_⟩
  · have := i.memory; simp only [memoryCanonical, hm] at this ⊢; exact this
  · intro n w m g
    have := hw n w m g
    simp only [driving, holdsToken, paired, protecting, ht, hr, hc, hg, hs] at this ⊢; exact this
  · have := i.token; simp only [paired, protecting, ht, hc, hg] at this ⊢; exact this

/-- Wires changed one by one, each toggling as before. -/
theorem inv_mapWires {s t : State} (f : Nat → Wire → Wire) (hf : ∀ n w, (f n w).toggling = w.toggling)
    (hw : t.wires = s.wires.mapVals f) (hm : t.hostMem = s.hostMem) (ht : t.pair.token = s.pair.token)
    (hr : t.pair.releaseDriven = s.pair.releaseDriven) (hc : t.pair.c0 = s.pair.c0) (hg : t.glb.gstate = s.glb.gstate) (hs : t.power.supplyOk = s.power.supplyOk)
    (i : Invariant s) : Invariant t := by
  refine inv_of_wires hm ht hr hc hg hs (fun n w h g => ?_) i
  rw [hw] at h
  simp only [FMap.mapVals, List.mem_map] at h
  obtain ⟨⟨n', w'⟩, h, e⟩ := h
  simp only [Prod.mk.injEq] at e
  obtain ⟨rfl, rfl⟩ := e
  exact i.wires _ _ h (by rw [hf] at g; exact g)

theorem wireOf_mem {s : State} {n : Nat} (h : (wireOf s n).toggling = true) : (n, wireOf s n) ∈ s.wires := by
  unfold wireOf FMap.get at *
  cases g : FMap.get? s.wires n with
  | none => rw [g] at h; simp [Wire.init] at h
  | some w => exact FMap.mem_of_get? _ _ _ g

theorem inv_setWire {s : State} (n : Nat) (x : Wire) (h : x.toggling = true → driving s = true) (i : Invariant s) :
    Invariant (setWire n x s) := by
  refine inv_of_wires (s := s) rfl rfl rfl rfl rfl rfl (fun m w k g => ?_) i
  simp only [setWire] at k
  rcases FMap.mem_set _ _ _ _ k with e | e
  · cases e; exact h g
  · exact i.wires _ _ e g

theorem inv_gateWire (k n : Nat) (cmd : Bool) (s : State) (i : Invariant s) : Invariant (gateWire k n cmd s) := by
  unfold gateWire
  extract_lets w z x t trip back toggle alone s1 s2
  have h1 : Invariant s1 := inv_setWire _ _ (fun g => i.wires _ _ (wireOf_mem g) g) i
  have h2 : Invariant s2 := by
    unfold s2; split
    · exact inv_of_core (by simp only [core_sticky, core_count, core_tally]) h1
    · exact h1
  split
  · exact inv_of_core (by simp only [core_sticky, core_tally]) h2
  · exact h2

theorem inv_foldl {α : Type} (f : State → α → State) (h : ∀ s a, Invariant s → Invariant (f s a)) (l : List α) (s : State) (i : Invariant s) :
    Invariant (l.foldl f s) := by
  induction l generalizing s with
  | nil => exact i
  | cons a l ih => exact ih _ (h _ _ i)

theorem inv_gatesWith (k : Nat) (cmd : State → Nat → Bool) (s : State) (i : Invariant s) :
    Invariant (gatesWith k cmd s) := by
  unfold gatesWith
  extract_lets ws s1 zs s2
  refine inv_of_live (s := s2) rfl ?_
  exact inv_of_core (core_foldl _ (fun s z => core_zoneTrips _ _ _) _ _) (inv_foldl _ (fun s n => inv_gateWire k n _ s) _ _ i)

theorem inv_gateAll (k : Nat) (s : State) (i : Invariant s) : Invariant (gateAll k s) := inv_gatesWith k _ s i

theorem inv_gateHeld (k : Nat) (s : State) (i : Invariant s) : Invariant (gateHeld k s) := inv_gatesWith k _ s i

theorem inv_wireEdge (n : Nat) (t : Time) (s : State) (i : Invariant s) : Invariant (wireEdge n t s) := by
  unfold wireEdge
  extract_lets e due s1 x
  have h1 : Invariant s1 := inv_of_core (by unfold s1; split <;> simp [core_advance]) i
  split
  · exact h1
  · rename_i h
    simp only [not_not] at h
    split
    · exact inv_setWire _ _ (fun _ => h.2) h1
    · split
      · exact inv_setWire _ _ (fun g => by simp at g) h1
      · exact h1

theorem inv_readback (n edges : Nat) (s : State) (i : Invariant s) : Invariant (readback n edges s) := by
  unfold readback
  extract_lets w x pass exp s1
  split
  · exact i
  · rename_i h
    have hd : driving s = true := by simp at h; exact h.2
    have h1 : Invariant s1 := inv_setWire _ _ (fun _ => hd) i
    split
    · split
      · exact inv_of_core (core_tally _ _ _) h1
      · exact h1
    · split
      · refine inv_of_core (s := setWire n { x with failing := 2, fault := true } s)
          (by simp only [core_sticky, core_count, core_tally]) (inv_setWire _ _ (fun _ => hd) i)
      · exact inv_setWire _ _ (fun _ => hd) i

theorem quiet_releaseWires (s : State) : ∀ n w, (n, w) ∈ (releaseWires s).wires → w.toggling = false := by
  intro n w h
  simp only [releaseWires, FMap.mapVals, List.mem_map] at h
  obtain ⟨⟨n', w'⟩, h, e⟩ := h
  simp only [Prod.mk.injEq] at e
  obtain ⟨rfl, rfl⟩ := e
  rfl

/-- loseToken ends quiet where the token was held; where it was not, nothing changes. -/
theorem parts_loseToken (s : State) : (core (loseToken s)).noToken = (core s).noToken ∧ (loseToken s).pair.token = false ∧
    (∀ n w, (n, w) ∈ (loseToken s).wires → w.toggling = true → (n, w) ∈ s.wires) := by
  unfold loseToken
  split
  · rename_i h; exact ⟨rfl, h, fun n w m _ => m⟩
  · extract_lets s1 s2
    have h := core_answerSwap 0x0104 [] s2
    refine ⟨by rw [h]; rfl, ?_, fun n w m g => ?_⟩
    · have := congrArg Core.token h; exact this
    · have hw : (answerSwap 0x0104 [] s2).wires = s2.wires := congrArg Core.wires h
      rw [hw] at m
      have := quiet_releaseWires _ n w m
      simp [this] at g

theorem inv_loseToken (s : State) (i : Invariant s) : Invariant (loseToken s) := by
  unfold loseToken
  split
  · exact i
  · extract_lets s1 s2
    refine inv_of_core (core_answerSwap _ _ _) (Quiet.inv ⟨quiet_releaseWires _, rfl⟩ i.memory)

theorem quiet_loseToken (s : State) (h : ∀ n w, (n, w) ∈ s.wires → w.toggling = false) : Quiet (loseToken s) := by
  obtain ⟨-, ht, hw⟩ := parts_loseToken s
  refine ⟨fun n w m => ?_, ht⟩
  cases g : w.toggling
  · rfl
  · have := h n w (hw n w m g); simp [g] at this

theorem inv_tokenByState (s : State) (i : Invariant s) : Invariant (tokenByState s) := by
  unfold tokenByState
  split
  · exact i
  · exact inv_of_core (core_withRole _ _) (inv_loseToken s i)

theorem quiet_tokenByState (s : State) (h : ∀ n w, (n, w) ∈ s.wires → w.toggling = false) (hp : protecting s = false) :
    Quiet (tokenByState s) := by
  unfold tokenByState
  simp only [hp, if_neg, Bool.false_eq_true, if_false]
  exact quiet_of_core (core_withRole _ _) (quiet_loseToken s h)

theorem mem_tokenByState (s : State) : (tokenByState s).hostMem = s.hostMem := by
  unfold tokenByState
  split
  · rfl
  · have h := congrArg Core.mem (core_withRole loseToken s)
    exact h.trans (congrArg Core.mem (parts_loseToken s).1)

/-- The token taken where the engine is paired and evaluates zones. -/
theorem inv_token {s t : State} (hm : t.hostMem = s.hostMem) (hc : t.pair.c0 = s.pair.c0)
    (hg : t.glb.gstate = s.glb.gstate) (hs : t.power.supplyOk = s.power.supplyOk) (hw : t.wires = s.wires)
    (hr : s.pair.releaseDriven = false → t.pair.releaseDriven = false) (ht : t.pair.token = true) (hp : paired s = true) (hq : protecting s = true) (i : Invariant s) : Invariant t := by
  have ep : paired t = true := by simp only [paired, hc] at hp ⊢; exact hp
  have eq : protecting t = true := by simp only [protecting, hg] at hq ⊢; exact hq
  refine ⟨?_, fun n w m g => ?_, fun _ => ⟨ep, eq⟩⟩
  · have := i.memory; simp only [memoryCanonical, hm] at this ⊢; exact this
  · have := i.wires n w (hw ▸ m) g
    simp only [driving, holdsToken, ep, eq, ht, hs, hp, hq, Bool.and_eq_true, Bool.not_eq_true', if_true] at this ⊢
    exact ⟨⟨by simp, this.1.2⟩, hr this.2⟩

theorem inv_claimToken (s : State) (hp : paired s = true) (hq : protecting s = true) (i : Invariant s) :
    Invariant (claimToken s) := inv_token (s := s) rfl rfl rfl rfl rfl (fun _ => rfl) rfl hp hq i

theorem inv_swapBoundary (k : Nat) (s : State) (i : Invariant s) : Invariant (swapBoundary k s) := by
  unfold swapBoundary
  extract_lets p
  split
  · split
    · exact ⟨i.memory, fun n w m g => by
        have := quiet_releaseWires _ n w m
        simp [this] at g, i.token⟩
    · exact i
  · split
    · exact Quiet.inv ⟨quiet_releaseWires _, rfl⟩ i.memory
    · exact i
  · split
    · exact inv_of_core (s := s) (by simp only [core_answerSwap, core_tally]; rfl) i
    · exact i
  · exact i

theorem inv_pairBoundary (k : Nat) (x : IlkInputs) (s : State) (i : Invariant s) : Invariant (pairBoundary k x s) := by
  unfold pairBoundary
  split
  · exact inv_of_core (core_withRole _ _) (inv_of_core (s := s) rfl i)
  · refine inv_of_core (core_withRole _ _) ?_
    extract_lets p0 s0 s1 x0 s2
    have h1 : Invariant s1 := inv_of_core ((core_ilkBoundary _ _ _).trans (show core s0 = core s from rfl)) i
    have h2 : Invariant s2 := by
      unfold s2
      split
      · exact inv_of_core (core_adoptEpoch _ _ _) (inv_of_core (s := s1) rfl h1)
      · exact h1
    exact inv_swapBoundary _ _ (inv_of_core (core_epochEnd _ _) (inv_of_core (s := s2) rfl h2))

theorem inv_releaseClaimAt (x : IlkInputs) (s : State) (i : Invariant s) : Invariant (releaseClaimAt x s) := by
  unfold releaseClaimAt
  extract_lets k c swap
  split
  · exact i
  · rename_i h
    simp only [not_not] at h
    split
    · have e := core_tally 0x0A04 [item k, 1, item (swapCause s)] s
      exact inv_of_core (core_withRole _ _) (inv_claimToken _ ((paired_of_core e).trans h.1)
        ((protecting_of_core e).trans h.2.1) (inv_of_core e i))
    · split
      · exact inv_of_core (core_withRole _ _) (inv_claimToken s h.1 h.2.1 i)
      · exact i

theorem inv_absenceClaimAt (x : IlkInputs) (s : State) (i : Invariant s) : Invariant (absenceClaimAt x s) := by
  unfold absenceClaimAt
  extract_lets k x0 o
  split
  · exact i
  · rename_i h
    simp only [not_not] at h
    split
    · split
      · exact i
      · exact inv_of_core (s := s) (by simp only [core_sticky, core_tally]; rfl) i
    · refine inv_of_core (core_withRole _ _) ?_
      extract_lets s1 s2
      have h1 : core s1 = core s := by
        unfold s1
        clear_value o
        cases o
        · rfl
        · exact core_adoptEpoch _ _ _
      have hp : paired s1 = true := (paired_of_core h1).trans h.1
      have hq : protecting s1 = true := (protecting_of_core h1).trans h.2.1
      have h2 : Invariant s2 := inv_of_core (core_dropGoose _)
        (inv_of_keeps (keeps_resolveTakeover _) (inv_claimToken s1 hp hq (inv_of_core h1 i)))
      exact inv_of_core (s := s2) (by simp only [core_sticky, core_tally]; rfl) h2

theorem inv_lineFaultAt (x : IlkInputs) (s : State) (i : Invariant s) : Invariant (lineFaultAt x s) := by
  unfold lineFaultAt
  extract_lets c causes s1
  split
  · exact i
  · have h1 : Invariant s1 := inv_of_core (core_foldl _ (fun s n => by simp only [core_sticky, core_tally]; rfl) _ _) i
    split
    · exact inv_of_core (core_withRole _ _) (inv_loseToken _ h1)
    · exact h1

theorem inv_swapFailAt (x : IlkInputs) (t : Time) (s : State) (i : Invariant s) : Invariant (swapFailAt x t s) := by
  unfold swapFailAt
  extract_lets s1 late c s2
  have h1 : Invariant s1 := inv_of_core (core_advance _ _) i
  split
  · split
    · exact inv_of_core (core_swapFailed _ _ _ _) h1
    · exact h1
  · split
    · exact inv_of_core (core_swapFailed _ _ _ _) h1
    · exact h1
  · split
    · exact inv_of_core (core_swapFailed _ _ _ _) h1
    · exact h1
  · split
    · exact h1
    · refine inv_of_core (core_swapFailed _ _ _ _) ?_
      unfold s2
      split
      · rename_i h
        refine inv_of_core (core_withRole _ _) (inv_token (s := s1) rfl rfl rfl rfl rfl id rfl h.2.2 h.2.1 h1)
      · exact h1
  · exact h1

theorem Quiet.mapWires {s t : State} (f : Nat → Wire → Wire) (hf : ∀ n w, w.toggling = false → (f n w).toggling = false)
    (hw : t.wires = s.wires.mapVals f) (ht : t.pair.token = s.pair.token) (q : Quiet s) : Quiet t := by
  refine ⟨fun n w h => ?_, by rw [ht]; exact q.token⟩
  rw [hw] at h
  simp only [FMap.mapVals, List.mem_map] at h
  obtain ⟨⟨n', w'⟩, h, e⟩ := h
  simp only [Prod.mk.injEq] at e
  obtain ⟨rfl, rfl⟩ := e
  exact hf _ _ (q.wires _ _ h)

theorem quiet_enterConfig (s : State) (h : protecting s = false) : Quiet (enterConfig s) ∧ (enterConfig s).hostMem = s.hostMem := by
  unfold enterConfig
  extract_lets s1
  refine ⟨quiet_tokenByState _ (fun n w m => ?_) h, mem_tokenByState _⟩
  simp only [FMap.mapVals, List.mem_map] at m
  obtain ⟨⟨n', w'⟩, m, e⟩ := m
  simp only [Prod.mk.injEq] at e
  obtain ⟨rfl, rfl⟩ := e
  exact quiet_releaseWires s n' w' m

/-- Entering a state in which zones are evaluated. -/
theorem inv_protecting {s t : State} (hm : t.hostMem = s.hostMem) (ht : t.pair.token = s.pair.token)
    (hr : t.pair.releaseDriven = s.pair.releaseDriven) (hc : t.pair.c0 = s.pair.c0) (hg : protecting t = true) (hs : t.power.supplyOk = s.power.supplyOk)
    (hw : t.wires = s.wires) (i : Invariant s) : Invariant t := by
  cases h : protecting s
  · exact (quiet_of_parts hw ht (quiet_of_inv i h)).inv (by rw [hm]; exact i.memory)
  · refine ⟨?_, fun n w m g => ?_, fun g => ⟨?_, hg⟩⟩
    · have := i.memory; simp only [memoryCanonical, hm] at this ⊢; exact this
    · have := i.wires n w (hw ▸ m) g
      simp only [driving, holdsToken, paired, hg, h, ht, hr, hc, hs] at this ⊢; exact this
    · have := (i.token (ht ▸ g)).1; simp only [paired, hc] at this ⊢; exact this

theorem inv_applyState (k : Nat) (s : State) (i : Invariant s) : Invariant (applyState k s) := by
  unfold applyState
  cases s.glb.next with
  | none => exact i
  | some new =>
    dsimp only
    split
    · exact inv_of_core (s := s) rfl i
    · generalize hu : postEvent _ _ _ = u
      have hu := (congrArg core hu).symm.trans (core_postEvent _ _ _)
      have hm : u.hostMem = s.hostMem := congrArg Core.mem hu
      split
      · rename_i h
        have q := quiet_enterConfig u h
        exact q.1.inv (by rw [q.2, hm]; exact i.memory)
      · rename_i h
        have hk : Invariant u := inv_protecting hm (congrArg Core.token hu) (congrArg Core.releasing hu) (congrArg Core.c0 hu) (by simpa using h)
          (congrArg Core.supplyOk hu) (congrArg Core.wires hu) i
        split
        · exact inv_of_core (core_logicStart _ _ _ _) hk
        · exact hk

theorem inv_changeStates (k : Nat) (l : List Nat) (b : Bool) (s : State) (i : Invariant s) :
    Invariant (changeStates k l b s) := by
  unfold changeStates
  extract_lets s1
  exact inv_of_core (s := s1) rfl
    (inv_applyState _ _ (inv_of_core ((core_lockCheck _ _).trans (core_markZones _ _ _)) i))

theorem inv_regridTo (j : Nat) (d : Time) (k' : Nat) (s : State) (i : Invariant s) : Invariant (regridTo j d k' s) := by
  unfold regridTo
  extract_lets n s1 s2
  have h2 : Invariant s2 := inv_of_core (by simp only [core_shiftLaunches, core_thresherRestart, core_count, core_tally, s1, s2]) i
  exact inv_mapWires (s := s2) (fun _ w => { w with lastGate := w.lastGate.map (movedBy n) }) (fun n w => rfl) rfl rfl rfl rfl rfl rfl rfl h2

theorem inv_nextSheaf (j : Nat) (s : State) (i : Invariant s) : Invariant (nextSheaf j s) := by
  unfold nextSheaf
  split
  · exact inv_regridTo _ _ _ _ i
  · exact inv_of_live (s := s) rfl i

theorem inv_afterBoundary (k : Nat) (s : State) (i : Invariant s) : Invariant (afterBoundary k s) := by
  unfold afterBoundary
  extract_lets s2 s3
  have h2 : Invariant s2 := inv_of_core (by simp only [core_fillSnapshots, core_snapshotStart, s2]) i
  have h3 : Invariant s3 := inv_nextSheaf _ _ (inv_of_core (by simp only [core_dropSummary, core_ringFlush]) h2)
  split
  · exact inv_of_core (core_latchCycle _ _) h3
  · exact h3

theorem inv_closeSheaf (l : List Conversion) (s : State) (i : Invariant s) : Invariant (closeSheaf l s) := by
  unfold closeSheaf
  extract_lets k s1 s2 s3 l0 s3' s4 s5 s6 s7
  have h3 : core s3' = core s3 := rfl
  have h4 : Invariant s4 := inv_of_core (by simp only [s4, core_tenonEvaluate, h3]; simp only [s1, s2, s3, core_ldfDeadline, core_dovetailMissing,
    core_markMissing, core_dovetailPublish, core_storeLocal, core_gleanerMeasure, core_addConversions, core_advance]) i
  have h5 : Invariant s5 := by
    unfold s5; split
    · exact inv_gateHeld _ _ h4
    · exact h4
  refine inv_of_live (s := s7) rfl (inv_of_core ?_ h5)
  simp only [s7, s6, core_trimBiLog, core_trimHistories, core_traceMsg]

theorem core_thresherLater (k : Nat) (s : State) : core (thresherLater k s).1 = core s := by
  unfold thresherLater
  extract_lets q t put
  exact core_runThresher k _

theorem core_laterOf (k : Nat) (s x : State) : core ((thresherLater k s).2 x) = core x := by
  unfold thresherLater
  extract_lets q t put
  have hp : ∀ s e, core (put s e) = core s := by
    intro s e
    show core (if 1023 ≤ tallyWaiting s.tally then dropEvent s else _) = core s
    split
    · exact core_dropEvent _
    · rfl
  exact (core_foldl _ hp _ _).trans (core_foldl _ (fun s c => core_count _ _ _) _ _)

theorem inv_commitSheaf (x : IlkInputs) (a : List Nat) (b : Bool) (s : State) (i : Invariant s) :
    Invariant (commitSheaf x a b s) := by
  unfold commitSheaf
  extract_lets k s1 lock g0 t0 s2 s3
  have h1 : Invariant s1 := inv_of_core (core_advance _ _) i
  clear_value s1 lock
  have h2 : Invariant s2 := inv_of_core ((core_stickyCommit _ _).trans (core_markMismatch _ _)) (inv_of_live (s := s1) rfl h1)
  have h3 : Invariant s3 := by
    unfold s3; split
    · exact inv_of_core (core_ldfBoundary _ _) h2
    · exact h2
  generalize hl : laneCheck k s3 = r
  obtain ⟨f, s4⟩ := r
  have h4 : Invariant s4 := by
    have := core_laneCheck k s3
    rw [hl] at this
    exact inv_of_core this h3
  dsimp only
  have h5 : Invariant (publishSheaf k f s4) := inv_of_core (core_publishSheaf _ _ _) h4
  generalize publishSheaf k f s4 = s5 at h5 ⊢
  have h6 : Invariant (if protecting s5 = true then gateAll k s5 else s5) := by
    split
    · exact inv_gateAll _ _ h5
    · exact h5
  generalize (if protecting s5 = true then gateAll k s5 else s5) = s6 at h6 ⊢
  have hp := core_publishGoose k s6
  generalize publishGoose k s6 = s7 at hp ⊢
  refine inv_of_keeps (keeps_settle _) (inv_of_core (core_laterOf _ _ _)
    (inv_afterBoundary _ _ (inv_pairBoundary _ _ _ (inv_changeStates _ _ _ _ ?_))))
  refine inv_of_core (by simp only [core_applyChanges, core_reassign]) (s := zstCommit k (endUnforce k (thresherLater k s7).1)) ?_
  have e : core (endUnforce k (thresherLater k s7).1) = core s6 := by
    simp only [core_endUnforce, core_thresherLater, hp]
  generalize endUnforce k (thresherLater k s7).1 = s8 at e
  exact inv_of_live (s := s8) rfl (inv_of_core e h6)

theorem inv_flipDone (n : Nat) (s : State) (i : Invariant s) : Invariant (flipDone n s) := inv_of_core (core_flipDone _ _) i

theorem quiet_inv_halt (cause d : Nat) (l : List Nat) (s : State) :
    Quiet (halt cause d l s) ∧ (halt cause d l s).hostMem = s.hostMem := by
  unfold halt
  extract_lets old runs g0 s1 again p0 s2 s3 s4
  have q : Quiet s2 ∧ s2.hostMem = s.hostMem := by
    refine ⟨quiet_tokenByState _ ?_ rfl, mem_tokenByState _⟩
    intro n w m
    exact quiet_releaseWires _ n w m
  have e : core s4 = core s2 := by
    have h3 : core s3 = core s2 := by
      simp only [s3]
      split
      · rfl
      · exact core_tally _ _ _
    simp only [s4]
    split
    · exact (core_startDump _ _ _).trans h3
    · exact h3
  have e x := (core_postEvent 0x0E02 x s4).trans e
  exact ⟨quiet_of_core (e _) q.1, (congrArg Core.mem (e _)).trans q.2⟩

theorem inv_halt (cause d : Nat) (l : List Nat) (s : State) (i : Invariant s) : Invariant (halt cause d l s) :=
  (quiet_inv_halt cause d l s).1.inv (by rw [(quiet_inv_halt cause d l s).2]; exact i.memory)

theorem inv_flipFails (n : Nat) (s : State) (i : Invariant s) : Invariant (flipFails n s) := by
  unfold flipFails
  split
  · refine inv_of_keeps (keeps_settle _) (inv_halt _ _ _ _ ?_)
    unfold unflip
    split
    · exact inv_of_live (s := s) rfl i
    · exact i
  · exact i

theorem inv_supplyLeaves (s : State) (i : Invariant s) : Invariant (supplyLeaves s) :=
  ⟨i.memory, fun n w m g => by
      have := quiet_releaseWires _ n w m
      simp [this] at g, i.token⟩

theorem inv_of_noStep {s t : State} (h : (core t).noStep = (core s).noStep) (i : Invariant s) : Invariant t := by
  have e := congrArg Core.live h
  exact inv_of_live e i

theorem inv_ppsEdge (t : Time) (s : State) (i : Invariant s) : Invariant (ppsEdge t s) := by
  have key : (core (ppsEdge t s)).noStep = (core s).noStep := by
    unfold ppsEdge
    extract_lets s1 c e near th theta tb0 s2 feeds tb1 s3
    have h1 : core s1 = core s := core_advance _ _
    have h2 : core s2 = core s1 := rfl
    have h3 : (core s3).noStep = (core s2).noStep := by
      unfold s3; split
      · exact core_servoMeasurement _ _ _
      · rfl
    split
    · exact congrArg Core.noStep h1
    · have h : (core s3).noStep = (core s).noStep := h3.trans (congrArg Core.noStep (h2.trans h1))
      split
      · split
        · exact h
        · exact h
      · exact h
  exact inv_of_noStep key i

/-- Quiet with memory in its form: what resets and starts keep. -/
structure Still (s : State) : Prop where
  quiet : Quiet s
  mem : Memory.wf s.hostMem = true

theorem Still.inv {s : State} (h : Still s) : Invariant s := h.quiet.inv h.mem
theorem still_of_core {s t : State} (e : core t = core s) (h : Still s) : Still t :=
  ⟨quiet_of_core e h.quiet, by rw [show t.hostMem = s.hostMem from congrArg Core.mem e]; exact h.mem⟩
theorem still_of_parts {s t : State} (hw : t.wires = s.wires) (ht : t.pair.token = s.pair.token) (hm : t.hostMem = s.hostMem)
    (h : Still s) : Still t := ⟨quiet_of_parts hw ht h.quiet, by rw [hm]; exact h.mem⟩

theorem still_tokenByState (s : State) (h : ∀ n w, (n, w) ∈ s.wires → w.toggling = false) (hp : protecting s = false)
    (m : Memory.wf s.hostMem = true) : Still (tokenByState s) :=
  ⟨quiet_tokenByState s h hp, by rw [mem_tokenByState]; exact m⟩

theorem core_stateEvent (g : GState) (s : State) : core (stateEvent g s) = core s := by
  unfold stateEvent
  split
  · rfl
  · exact core_postEvent _ _ _

theorem still_assertReset (s : State) (m : Memory.wf s.hostMem = true) : Still (assertReset s) := by
  unfold assertReset
  extract_lets halted p0 s1 s5 s2 s3 cs view g0 c0 t0 l0 st0 p1 s4
  have e : core s3 = core s1 := by
    simp only [s3, s2, s5, apply_ite core, core_acceptWaiting, core_freeTested, core_bistAbort, core_laneOutcome, core_stateEvent, ite_self]
  have h4 : Memory.wf s4.hostMem = true := by
    show Memory.wf s3.hostMem = true
    rw [show s3.hostMem = s1.hostMem from congrArg Core.mem e]; exact m
  refine still_of_core ((core_zeroSecrets _).trans (core_withRole _ _)) ⟨quiet_loseToken _ (quiet_releaseWires s4), ?_⟩
  exact (congrArg (fun x : Core => Memory.wf x.mem) (parts_loseToken _).1).trans h4

theorem still_coldState (p : Bool) (s : State) (m : Memory.wf s.hostMem = true) : Still (coldState p s) :=
  ⟨⟨fun n w h => by simp [coldState, State.reset] at h, rfl⟩, m⟩

theorem still_halt (cause d : Nat) (l : List Nat) (s : State) (m : Memory.wf s.hostMem = true) : Still (halt cause d l s) :=
  ⟨(quiet_inv_halt cause d l s).1, by rw [(quiet_inv_halt cause d l s).2]; exact m⟩

theorem still_of_live {s t : State} (e : (core t).live = (core s).live) (h : Still s) : Still t := by
  simp only [core, Core.live, Prod.mk.injEq] at e
  exact still_of_parts e.2.1 e.2.2.1 e.1 h

theorem keeps_withSlot (P : State → Prop) (hp : ∀ s t, (core t).live = (core s).live → P s → P t) (f : StartFindings) (go : (State → State) → State → State) (s : State)
    (hgo : ∀ r s, (∀ s, core (r s) = core s) → P s → P (go r s)) (h : P s) :
    P (withSlot f go s) := by
  unfold withSlot
  extract_lets p0 s1 s2 p1
  have h2 : P s2 := hp s _ (congrArg Core.live ((core_governed f s1).trans rfl)) h
  split
  · exact hp s2 _ rfl h2
  · rename_i r hr
    refine hgo _ _ ?_ (hp s2 _ rfl h2)
    intro u
    unfold bootSlot at hr
    extract_lets a b passes at hr
    split at hr
    · cases hr; rfl
    · split at hr
      · cases hr
        simp only [core_sticky, core_tally, core_recordSlot]; rfl
      · cases hr

theorem still_selfTestOutcome (f : StartFindings) (s : State) (h : Still s) : Still (selfTestOutcome f s) := by
  unfold selfTestOutcome
  extract_lets stop
  split
  · exact still_halt _ _ _ _ h.mem
  · split
    · exact still_halt _ _ _ _ (still_of_core (core_takeFree s) h).mem
    · exact h

theorem still_warmScan (f : StartFindings) (s : State) (h : Still s) : Still (warmScan f s) := by
  unfold warmScan
  split
  · exact h
  · refine still_selfTestOutcome f _ (still_of_core ?_ h)
    have e := core_foldl _ (fun s x => core_abortEntry x s) f.aborts s
    split
    · exact (core_sticky _ _ _).trans e
    · exact e

theorem still_coldStart (p : Bool) (f : StartFindings) (s : State) (m : Memory.wf s.hostMem = true) :
    Still (coldStart p f s) := by
  unfold coldStart
  extract_lets marker s1 lostT forced lostR s2 x0 x1 p0 s3 readable kept p1 s4
  have h2 : Still s2 := still_coldState _ _ (by
    rw [show s1.hostMem = s.hostMem from congrArg Core.mem (core_tallyScan _ _)]; exact m)
  refine keeps_withSlot Still (fun s t => still_of_live) _ _ _ (fun r s hr hs => ?_) (still_of_parts (s := s2) rfl rfl rfl h2)
  refine still_selfTestOutcome _ _ (still_of_core ?_ hs)
  simp only [core_deriveSecrets, core_lostRecords, core_lostEntries, core_applyFindings, core_tamperEntry,
    hr, apply_ite core, core_tally, ite_self, core_copyLatch, core_startEntries, core_journalScan]

theorem still_warmState (s : State) (m : Memory.wf s.hostMem = true) : Still (warmState s) := by
  unfold warmState
  extract_lets r samp0 s1 s2
  have e : core s2 = core s := by
    simp only [s2, core_logicStart]
    exact core_foldl _ (fun s f => core_applyFix _ _) _ _
  refine ⟨⟨fun n w h => ?_, rfl⟩, by rw [← show s2.hostMem = s.hostMem from congrArg Core.mem e] at m; exact m⟩
  simp only [FMap.mapVals, List.mem_map] at h
  obtain ⟨⟨n', w'⟩, h, e⟩ := h
  simp only [Prod.mk.injEq] at e
  obtain ⟨rfl, rfl⟩ := e
  rfl

theorem still_haltedStart (s : State) (h : Still s) : Still (haltedStart s) := by
  unfold haltedStart
  split
  · exact still_of_parts (s := stateEvent .halted s) rfl rfl rfl (still_of_core (core_stateEvent _ _) h)
  · split
    · exact still_of_parts (s := s) rfl rfl rfl h
    · exact h

theorem core_dropPackage (s : State) : core (dropPackage s) = core s := rfl

theorem core_rereadConfig (f : StartFindings) (s : State) : core (rereadConfig f s) = core s := by
  unfold rereadConfig
  split
  · rfl
  · extract_lets n
    split
    · exact core_tally _ _ _
    · rfl

theorem inv_warmStart (f : StartFindings) (s : State) (i : Invariant s) : Invariant (warmStart f s) := by
  unfold warmStart
  extract_lets bg x0 x1 p0 s1
  refine keeps_withSlot Invariant (fun s t => inv_of_live) _ _ _ (fun r s hr hs => ?_) (inv_of_live (s := s) rfl i)
  extract_lets m s2 lostT lostR s3 s4 s5 g0 s6 s7
  have e : core s5 = core s := by
    simp only [s5, s4, s3, s2, core_thresherRestart, core_tamperEntry, hr, core_copyLatch, core_startEntries,
      core_tallyScan, core_journalScan]
  have h6 : Still s6 := still_warmState _ (by
    show Memory.wf s5.hostMem = true
    rw [show s5.hostMem = s.hostMem from congrArg Core.mem e]
    exact hs.memory)
  clear_value s6
  have e7 : core s7 = core s6 := by
    simp only [s7]
    split
    · exact core_rereadConfig _ _
    · exact core_dropPackage _
  exact (still_haltedStart _ (still_warmScan _ _ (still_of_core ((core_deriveSecrets _).trans ((core_repartition _).trans e7)) h6))).inv

theorem still_enterTest (s : State) (m : Memory.wf s.hostMem = true) : Still (enterTest s) := by
  unfold enterTest
  extract_lets s1 g0 p0 s2
  have h1 : Memory.wf s1.hostMem = true := by
    unfold s1; split
    · exact m
    · exact m
  exact still_of_core (by simp only [core_zeroSecrets, core_sticky]) (still_tokenByState _ (quiet_releaseWires s2) rfl h1)

theorem inv_beginSheaves (k ms : Nat) (l : List Nat) (s : State) (i : Invariant s) : Invariant (beginSheaves k ms l s) := by
  unfold beginSheaves
  have e : core (takeFree (fillStart k ms (loadConfig s))).2 = core s :=
    (core_takeFree _).trans ((core_fillStart _ _ _).trans (core_loadConfig s))
  generalize takeFree (fillStart k ms (loadConfig s)) = r at e ⊢
  obtain ⟨w, u⟩ := r
  dsimp only
  refine inv_of_core (core_foldl _ (fun s p => core_pairChange _ _ _) _ _) ?_
  exact inv_of_live (s := u) rfl (inv_of_core e i)

theorem inv_releaseReset (b : Bool) (f : StartFindings) (s : State) (i : Invariant s) : Invariant (releaseReset b f s) := by
  unfold releaseReset
  split
  · exact (still_enterTest s i.memory).inv
  · split
    · exact (still_coldStart _ _ _ i.memory).inv
    · exact inv_warmStart _ _ i

end Sys2Proof.Machine
end

