-- ==== Sys2Proof/Laws/State.lean ====
section
/-!
SUPPORT. One lemma for each field of State and each shared update of one part of it: what the update leaves alone, so
that no later proof unfolds a record update. The field an update writes has a lemma of its own where it is a table.
-/
namespace Sys2Proof.Machine

@[simp] theorem count_pending (i n : Nat) (s : State) : (count i n s).pending = s.pending := rfl
@[simp] theorem count_pf0 (i n : Nat) (s : State) : (count i n s).pf0 = s.pf0 := rfl
@[simp] theorem count_pf1 (i n : Nat) (s : State) : (count i n s).pf1 = s.pf1 := rfl
@[simp] theorem count_bells (i n : Nat) (s : State) : (count i n s).bells = s.bells := rfl
@[simp] theorem count_glb (i n : Nat) (s : State) : (count i n s).glb = s.glb := rfl
@[simp] theorem count_stk (i n : Nat) (s : State) : (count i n s).stk = s.stk := rfl
@[simp] theorem count_cfg (i n : Nat) (s : State) : (count i n s).cfg = s.cfg := rfl
@[simp] theorem count_samp (i n : Nat) (s : State) : (count i n s).samp = s.samp := rfl
@[simp] theorem count_ing (i n : Nat) (s : State) : (count i n s).ing = s.ing := rfl
@[simp] theorem count_tb (i n : Nat) (s : State) : (count i n s).tb = s.tb := rfl
@[simp] theorem count_ldf (i n : Nat) (s : State) : (count i n s).ldf = s.ldf := rfl
@[simp] theorem count_dovetail (i n : Nat) (s : State) : (count i n s).dovetail = s.dovetail := rfl
@[simp] theorem count_zones (i n : Nat) (s : State) : (count i n s).zones = s.zones := rfl
@[simp] theorem count_tenon (i n : Nat) (s : State) : (count i n s).tenon = s.tenon := rfl
@[simp] theorem count_insts (i n : Nat) (s : State) : (count i n s).insts = s.insts := rfl
@[simp] theorem count_results (i n : Nat) (s : State) : (count i n s).results = s.results := rfl
@[simp] theorem count_logic (i n : Nat) (s : State) : (count i n s).logic = s.logic := rfl
@[simp] theorem count_wires (i n : Nat) (s : State) : (count i n s).wires = s.wires := rfl
@[simp] theorem count_bi (i n : Nat) (s : State) : (count i n s).bi = s.bi := rfl
@[simp] theorem count_thr (i n : Nat) (s : State) : (count i n s).thr = s.thr := rfl
@[simp] theorem count_lanes (i n : Nat) (s : State) : (count i n s).lanes = s.lanes := rfl
@[simp] theorem count_pair (i n : Nat) (s : State) : (count i n s).pair = s.pair := rfl
@[simp] theorem count_tally (i n : Nat) (s : State) : (count i n s).tally = s.tally := rfl
@[simp] theorem count_granary (i n : Nat) (s : State) : (count i n s).granary = s.granary := rfl
@[simp] theorem count_bist (i n : Nat) (s : State) : (count i n s).bist = s.bist := rfl
@[simp] theorem count_dumpDdr (i n : Nat) (s : State) : (count i n s).dumpDdr = s.dumpDdr := rfl
@[simp] theorem count_dumpEmmc (i n : Nat) (s : State) : (count i n s).dumpEmmc = s.dumpEmmc := rfl
@[simp] theorem count_dumpBusy (i n : Nat) (s : State) : (count i n s).dumpBusy = s.dumpBusy := rfl
@[simp] theorem count_zst (i n : Nat) (s : State) : (count i n s).zst = s.zst := rfl
@[simp] theorem count_zstHidden (i n : Nat) (s : State) : (count i n s).zstHidden = s.zstHidden := rfl
@[simp] theorem count_dumpNo (i n : Nat) (s : State) : (count i n s).dumpNo = s.dumpNo := rfl
@[simp] theorem count_trust (i n : Nat) (s : State) : (count i n s).trust = s.trust := rfl
@[simp] theorem count_store (i n : Nat) (s : State) : (count i n s).store = s.store := rfl
@[simp] theorem count_power (i n : Nat) (s : State) : (count i n s).power = s.power := rfl
@[simp] theorem count_trace (i n : Nat) (s : State) : (count i n s).trace = s.trace := rfl
@[simp] theorem count_sent (i n : Nat) (s : State) : (count i n s).sent = s.sent := rfl
@[simp] theorem count_hostMem (i n : Nat) (s : State) : (count i n s).hostMem = s.hostMem := rfl

@[simp] theorem setZone_pending (z : Nat) (x : Zone) (s : State) : (setZone z x s).pending = s.pending := rfl
@[simp] theorem setZone_pf0 (z : Nat) (x : Zone) (s : State) : (setZone z x s).pf0 = s.pf0 := rfl
@[simp] theorem setZone_pf1 (z : Nat) (x : Zone) (s : State) : (setZone z x s).pf1 = s.pf1 := rfl
@[simp] theorem setZone_bells (z : Nat) (x : Zone) (s : State) : (setZone z x s).bells = s.bells := rfl
@[simp] theorem setZone_glb (z : Nat) (x : Zone) (s : State) : (setZone z x s).glb = s.glb := rfl
@[simp] theorem setZone_stk (z : Nat) (x : Zone) (s : State) : (setZone z x s).stk = s.stk := rfl
@[simp] theorem setZone_cnt (z : Nat) (x : Zone) (s : State) : (setZone z x s).cnt = s.cnt := rfl
@[simp] theorem setZone_cfg (z : Nat) (x : Zone) (s : State) : (setZone z x s).cfg = s.cfg := rfl
@[simp] theorem setZone_samp (z : Nat) (x : Zone) (s : State) : (setZone z x s).samp = s.samp := rfl
@[simp] theorem setZone_ing (z : Nat) (x : Zone) (s : State) : (setZone z x s).ing = s.ing := rfl
@[simp] theorem setZone_tb (z : Nat) (x : Zone) (s : State) : (setZone z x s).tb = s.tb := rfl
@[simp] theorem setZone_ldf (z : Nat) (x : Zone) (s : State) : (setZone z x s).ldf = s.ldf := rfl
@[simp] theorem setZone_dovetail (z : Nat) (x : Zone) (s : State) : (setZone z x s).dovetail = s.dovetail := rfl
@[simp] theorem setZone_tenon (z : Nat) (x : Zone) (s : State) : (setZone z x s).tenon = s.tenon := rfl
@[simp] theorem setZone_insts (z : Nat) (x : Zone) (s : State) : (setZone z x s).insts = s.insts := rfl
@[simp] theorem setZone_results (z : Nat) (x : Zone) (s : State) : (setZone z x s).results = s.results := rfl
@[simp] theorem setZone_logic (z : Nat) (x : Zone) (s : State) : (setZone z x s).logic = s.logic := rfl
@[simp] theorem setZone_wires (z : Nat) (x : Zone) (s : State) : (setZone z x s).wires = s.wires := rfl
@[simp] theorem setZone_bi (z : Nat) (x : Zone) (s : State) : (setZone z x s).bi = s.bi := rfl
@[simp] theorem setZone_thr (z : Nat) (x : Zone) (s : State) : (setZone z x s).thr = s.thr := rfl
@[simp] theorem setZone_lanes (z : Nat) (x : Zone) (s : State) : (setZone z x s).lanes = s.lanes := rfl
@[simp] theorem setZone_pair (z : Nat) (x : Zone) (s : State) : (setZone z x s).pair = s.pair := rfl
@[simp] theorem setZone_tally (z : Nat) (x : Zone) (s : State) : (setZone z x s).tally = s.tally := rfl
@[simp] theorem setZone_granary (z : Nat) (x : Zone) (s : State) : (setZone z x s).granary = s.granary := rfl
@[simp] theorem setZone_bist (z : Nat) (x : Zone) (s : State) : (setZone z x s).bist = s.bist := rfl
@[simp] theorem setZone_dumpDdr (z : Nat) (x : Zone) (s : State) : (setZone z x s).dumpDdr = s.dumpDdr := rfl
@[simp] theorem setZone_dumpEmmc (z : Nat) (x : Zone) (s : State) : (setZone z x s).dumpEmmc = s.dumpEmmc := rfl
@[simp] theorem setZone_dumpBusy (z : Nat) (x : Zone) (s : State) : (setZone z x s).dumpBusy = s.dumpBusy := rfl
@[simp] theorem setZone_zst (z : Nat) (x : Zone) (s : State) : (setZone z x s).zst = s.zst := rfl
@[simp] theorem setZone_zstHidden (z : Nat) (x : Zone) (s : State) : (setZone z x s).zstHidden = s.zstHidden := rfl
@[simp] theorem setZone_dumpNo (z : Nat) (x : Zone) (s : State) : (setZone z x s).dumpNo = s.dumpNo := rfl
@[simp] theorem setZone_trust (z : Nat) (x : Zone) (s : State) : (setZone z x s).trust = s.trust := rfl
@[simp] theorem setZone_store (z : Nat) (x : Zone) (s : State) : (setZone z x s).store = s.store := rfl
@[simp] theorem setZone_power (z : Nat) (x : Zone) (s : State) : (setZone z x s).power = s.power := rfl
@[simp] theorem setZone_trace (z : Nat) (x : Zone) (s : State) : (setZone z x s).trace = s.trace := rfl
@[simp] theorem setZone_sent (z : Nat) (x : Zone) (s : State) : (setZone z x s).sent = s.sent := rfl
@[simp] theorem setZone_hostMem (z : Nat) (x : Zone) (s : State) : (setZone z x s).hostMem = s.hostMem := rfl

@[simp] theorem setLdf_pending (d : Nat) (x : Ldf) (s : State) : (setLdf d x s).pending = s.pending := rfl
@[simp] theorem setLdf_pf0 (d : Nat) (x : Ldf) (s : State) : (setLdf d x s).pf0 = s.pf0 := rfl
@[simp] theorem setLdf_pf1 (d : Nat) (x : Ldf) (s : State) : (setLdf d x s).pf1 = s.pf1 := rfl
@[simp] theorem setLdf_bells (d : Nat) (x : Ldf) (s : State) : (setLdf d x s).bells = s.bells := rfl
@[simp] theorem setLdf_glb (d : Nat) (x : Ldf) (s : State) : (setLdf d x s).glb = s.glb := rfl
@[simp] theorem setLdf_stk (d : Nat) (x : Ldf) (s : State) : (setLdf d x s).stk = s.stk := rfl
@[simp] theorem setLdf_cnt (d : Nat) (x : Ldf) (s : State) : (setLdf d x s).cnt = s.cnt := rfl
@[simp] theorem setLdf_cfg (d : Nat) (x : Ldf) (s : State) : (setLdf d x s).cfg = s.cfg := rfl
@[simp] theorem setLdf_samp (d : Nat) (x : Ldf) (s : State) : (setLdf d x s).samp = s.samp := rfl
@[simp] theorem setLdf_ing (d : Nat) (x : Ldf) (s : State) : (setLdf d x s).ing = s.ing := rfl
@[simp] theorem setLdf_tb (d : Nat) (x : Ldf) (s : State) : (setLdf d x s).tb = s.tb := rfl
@[simp] theorem setLdf_dovetail (d : Nat) (x : Ldf) (s : State) : (setLdf d x s).dovetail = s.dovetail := rfl
@[simp] theorem setLdf_zones (d : Nat) (x : Ldf) (s : State) : (setLdf d x s).zones = s.zones := rfl
@[simp] theorem setLdf_tenon (d : Nat) (x : Ldf) (s : State) : (setLdf d x s).tenon = s.tenon := rfl
@[simp] theorem setLdf_insts (d : Nat) (x : Ldf) (s : State) : (setLdf d x s).insts = s.insts := rfl
@[simp] theorem setLdf_results (d : Nat) (x : Ldf) (s : State) : (setLdf d x s).results = s.results := rfl
@[simp] theorem setLdf_logic (d : Nat) (x : Ldf) (s : State) : (setLdf d x s).logic = s.logic := rfl
@[simp] theorem setLdf_wires (d : Nat) (x : Ldf) (s : State) : (setLdf d x s).wires = s.wires := rfl
@[simp] theorem setLdf_bi (d : Nat) (x : Ldf) (s : State) : (setLdf d x s).bi = s.bi := rfl
@[simp] theorem setLdf_thr (d : Nat) (x : Ldf) (s : State) : (setLdf d x s).thr = s.thr := rfl
@[simp] theorem setLdf_lanes (d : Nat) (x : Ldf) (s : State) : (setLdf d x s).lanes = s.lanes := rfl
@[simp] theorem setLdf_pair (d : Nat) (x : Ldf) (s : State) : (setLdf d x s).pair = s.pair := rfl
@[simp] theorem setLdf_tally (d : Nat) (x : Ldf) (s : State) : (setLdf d x s).tally = s.tally := rfl
@[simp] theorem setLdf_granary (d : Nat) (x : Ldf) (s : State) : (setLdf d x s).granary = s.granary := rfl
@[simp] theorem setLdf_bist (d : Nat) (x : Ldf) (s : State) : (setLdf d x s).bist = s.bist := rfl
@[simp] theorem setLdf_dumpDdr (d : Nat) (x : Ldf) (s : State) : (setLdf d x s).dumpDdr = s.dumpDdr := rfl
@[simp] theorem setLdf_dumpEmmc (d : Nat) (x : Ldf) (s : State) : (setLdf d x s).dumpEmmc = s.dumpEmmc := rfl
@[simp] theorem setLdf_dumpBusy (d : Nat) (x : Ldf) (s : State) : (setLdf d x s).dumpBusy = s.dumpBusy := rfl
@[simp] theorem setLdf_zst (d : Nat) (x : Ldf) (s : State) : (setLdf d x s).zst = s.zst := rfl
@[simp] theorem setLdf_zstHidden (d : Nat) (x : Ldf) (s : State) : (setLdf d x s).zstHidden = s.zstHidden := rfl
@[simp] theorem setLdf_dumpNo (d : Nat) (x : Ldf) (s : State) : (setLdf d x s).dumpNo = s.dumpNo := rfl
@[simp] theorem setLdf_trust (d : Nat) (x : Ldf) (s : State) : (setLdf d x s).trust = s.trust := rfl
@[simp] theorem setLdf_store (d : Nat) (x : Ldf) (s : State) : (setLdf d x s).store = s.store := rfl
@[simp] theorem setLdf_power (d : Nat) (x : Ldf) (s : State) : (setLdf d x s).power = s.power := rfl
@[simp] theorem setLdf_trace (d : Nat) (x : Ldf) (s : State) : (setLdf d x s).trace = s.trace := rfl
@[simp] theorem setLdf_sent (d : Nat) (x : Ldf) (s : State) : (setLdf d x s).sent = s.sent := rfl
@[simp] theorem setLdf_hostMem (d : Nat) (x : Ldf) (s : State) : (setLdf d x s).hostMem = s.hostMem := rfl

@[simp] theorem setWire_pending (n : Nat) (x : Wire) (s : State) : (setWire n x s).pending = s.pending := rfl
@[simp] theorem setWire_pf0 (n : Nat) (x : Wire) (s : State) : (setWire n x s).pf0 = s.pf0 := rfl
@[simp] theorem setWire_pf1 (n : Nat) (x : Wire) (s : State) : (setWire n x s).pf1 = s.pf1 := rfl
@[simp] theorem setWire_bells (n : Nat) (x : Wire) (s : State) : (setWire n x s).bells = s.bells := rfl
@[simp] theorem setWire_glb (n : Nat) (x : Wire) (s : State) : (setWire n x s).glb = s.glb := rfl
@[simp] theorem setWire_stk (n : Nat) (x : Wire) (s : State) : (setWire n x s).stk = s.stk := rfl
@[simp] theorem setWire_cnt (n : Nat) (x : Wire) (s : State) : (setWire n x s).cnt = s.cnt := rfl
@[simp] theorem setWire_cfg (n : Nat) (x : Wire) (s : State) : (setWire n x s).cfg = s.cfg := rfl
@[simp] theorem setWire_samp (n : Nat) (x : Wire) (s : State) : (setWire n x s).samp = s.samp := rfl
@[simp] theorem setWire_ing (n : Nat) (x : Wire) (s : State) : (setWire n x s).ing = s.ing := rfl
@[simp] theorem setWire_tb (n : Nat) (x : Wire) (s : State) : (setWire n x s).tb = s.tb := rfl
@[simp] theorem setWire_ldf (n : Nat) (x : Wire) (s : State) : (setWire n x s).ldf = s.ldf := rfl
@[simp] theorem setWire_dovetail (n : Nat) (x : Wire) (s : State) : (setWire n x s).dovetail = s.dovetail := rfl
@[simp] theorem setWire_zones (n : Nat) (x : Wire) (s : State) : (setWire n x s).zones = s.zones := rfl
@[simp] theorem setWire_tenon (n : Nat) (x : Wire) (s : State) : (setWire n x s).tenon = s.tenon := rfl
@[simp] theorem setWire_insts (n : Nat) (x : Wire) (s : State) : (setWire n x s).insts = s.insts := rfl
@[simp] theorem setWire_results (n : Nat) (x : Wire) (s : State) : (setWire n x s).results = s.results := rfl
@[simp] theorem setWire_logic (n : Nat) (x : Wire) (s : State) : (setWire n x s).logic = s.logic := rfl
@[simp] theorem setWire_bi (n : Nat) (x : Wire) (s : State) : (setWire n x s).bi = s.bi := rfl
@[simp] theorem setWire_thr (n : Nat) (x : Wire) (s : State) : (setWire n x s).thr = s.thr := rfl
@[simp] theorem setWire_lanes (n : Nat) (x : Wire) (s : State) : (setWire n x s).lanes = s.lanes := rfl
@[simp] theorem setWire_pair (n : Nat) (x : Wire) (s : State) : (setWire n x s).pair = s.pair := rfl
@[simp] theorem setWire_tally (n : Nat) (x : Wire) (s : State) : (setWire n x s).tally = s.tally := rfl
@[simp] theorem setWire_granary (n : Nat) (x : Wire) (s : State) : (setWire n x s).granary = s.granary := rfl
@[simp] theorem setWire_bist (n : Nat) (x : Wire) (s : State) : (setWire n x s).bist = s.bist := rfl
@[simp] theorem setWire_dumpDdr (n : Nat) (x : Wire) (s : State) : (setWire n x s).dumpDdr = s.dumpDdr := rfl
@[simp] theorem setWire_dumpEmmc (n : Nat) (x : Wire) (s : State) : (setWire n x s).dumpEmmc = s.dumpEmmc := rfl
@[simp] theorem setWire_dumpBusy (n : Nat) (x : Wire) (s : State) : (setWire n x s).dumpBusy = s.dumpBusy := rfl
@[simp] theorem setWire_zst (n : Nat) (x : Wire) (s : State) : (setWire n x s).zst = s.zst := rfl
@[simp] theorem setWire_zstHidden (n : Nat) (x : Wire) (s : State) : (setWire n x s).zstHidden = s.zstHidden := rfl
@[simp] theorem setWire_dumpNo (n : Nat) (x : Wire) (s : State) : (setWire n x s).dumpNo = s.dumpNo := rfl
@[simp] theorem setWire_trust (n : Nat) (x : Wire) (s : State) : (setWire n x s).trust = s.trust := rfl
@[simp] theorem setWire_store (n : Nat) (x : Wire) (s : State) : (setWire n x s).store = s.store := rfl
@[simp] theorem setWire_power (n : Nat) (x : Wire) (s : State) : (setWire n x s).power = s.power := rfl
@[simp] theorem setWire_trace (n : Nat) (x : Wire) (s : State) : (setWire n x s).trace = s.trace := rfl
@[simp] theorem setWire_sent (n : Nat) (x : Wire) (s : State) : (setWire n x s).sent = s.sent := rfl
@[simp] theorem setWire_hostMem (n : Nat) (x : Wire) (s : State) : (setWire n x s).hostMem = s.hostMem := rfl

@[simp] theorem setPair_pending (p : Nat) (x : BiPair) (s : State) : (setPair p x s).pending = s.pending := rfl
@[simp] theorem setPair_pf0 (p : Nat) (x : BiPair) (s : State) : (setPair p x s).pf0 = s.pf0 := rfl
@[simp] theorem setPair_pf1 (p : Nat) (x : BiPair) (s : State) : (setPair p x s).pf1 = s.pf1 := rfl
@[simp] theorem setPair_bells (p : Nat) (x : BiPair) (s : State) : (setPair p x s).bells = s.bells := rfl
@[simp] theorem setPair_glb (p : Nat) (x : BiPair) (s : State) : (setPair p x s).glb = s.glb := rfl
@[simp] theorem setPair_stk (p : Nat) (x : BiPair) (s : State) : (setPair p x s).stk = s.stk := rfl
@[simp] theorem setPair_cnt (p : Nat) (x : BiPair) (s : State) : (setPair p x s).cnt = s.cnt := rfl
@[simp] theorem setPair_cfg (p : Nat) (x : BiPair) (s : State) : (setPair p x s).cfg = s.cfg := rfl
@[simp] theorem setPair_samp (p : Nat) (x : BiPair) (s : State) : (setPair p x s).samp = s.samp := rfl
@[simp] theorem setPair_ing (p : Nat) (x : BiPair) (s : State) : (setPair p x s).ing = s.ing := rfl
@[simp] theorem setPair_tb (p : Nat) (x : BiPair) (s : State) : (setPair p x s).tb = s.tb := rfl
@[simp] theorem setPair_ldf (p : Nat) (x : BiPair) (s : State) : (setPair p x s).ldf = s.ldf := rfl
@[simp] theorem setPair_dovetail (p : Nat) (x : BiPair) (s : State) : (setPair p x s).dovetail = s.dovetail := rfl
@[simp] theorem setPair_zones (p : Nat) (x : BiPair) (s : State) : (setPair p x s).zones = s.zones := rfl
@[simp] theorem setPair_tenon (p : Nat) (x : BiPair) (s : State) : (setPair p x s).tenon = s.tenon := rfl
@[simp] theorem setPair_insts (p : Nat) (x : BiPair) (s : State) : (setPair p x s).insts = s.insts := rfl
@[simp] theorem setPair_results (p : Nat) (x : BiPair) (s : State) : (setPair p x s).results = s.results := rfl
@[simp] theorem setPair_logic (p : Nat) (x : BiPair) (s : State) : (setPair p x s).logic = s.logic := rfl
@[simp] theorem setPair_wires (p : Nat) (x : BiPair) (s : State) : (setPair p x s).wires = s.wires := rfl
@[simp] theorem setPair_thr (p : Nat) (x : BiPair) (s : State) : (setPair p x s).thr = s.thr := rfl
@[simp] theorem setPair_lanes (p : Nat) (x : BiPair) (s : State) : (setPair p x s).lanes = s.lanes := rfl
@[simp] theorem setPair_pair (p : Nat) (x : BiPair) (s : State) : (setPair p x s).pair = s.pair := rfl
@[simp] theorem setPair_tally (p : Nat) (x : BiPair) (s : State) : (setPair p x s).tally = s.tally := rfl
@[simp] theorem setPair_granary (p : Nat) (x : BiPair) (s : State) : (setPair p x s).granary = s.granary := rfl
@[simp] theorem setPair_bist (p : Nat) (x : BiPair) (s : State) : (setPair p x s).bist = s.bist := rfl
@[simp] theorem setPair_dumpDdr (p : Nat) (x : BiPair) (s : State) : (setPair p x s).dumpDdr = s.dumpDdr := rfl
@[simp] theorem setPair_dumpEmmc (p : Nat) (x : BiPair) (s : State) : (setPair p x s).dumpEmmc = s.dumpEmmc := rfl
@[simp] theorem setPair_dumpBusy (p : Nat) (x : BiPair) (s : State) : (setPair p x s).dumpBusy = s.dumpBusy := rfl
@[simp] theorem setPair_zst (p : Nat) (x : BiPair) (s : State) : (setPair p x s).zst = s.zst := rfl
@[simp] theorem setPair_zstHidden (p : Nat) (x : BiPair) (s : State) : (setPair p x s).zstHidden = s.zstHidden := rfl
@[simp] theorem setPair_dumpNo (p : Nat) (x : BiPair) (s : State) : (setPair p x s).dumpNo = s.dumpNo := rfl
@[simp] theorem setPair_trust (p : Nat) (x : BiPair) (s : State) : (setPair p x s).trust = s.trust := rfl
@[simp] theorem setPair_store (p : Nat) (x : BiPair) (s : State) : (setPair p x s).store = s.store := rfl
@[simp] theorem setPair_power (p : Nat) (x : BiPair) (s : State) : (setPair p x s).power = s.power := rfl
@[simp] theorem setPair_trace (p : Nat) (x : BiPair) (s : State) : (setPair p x s).trace = s.trace := rfl
@[simp] theorem setPair_sent (p : Nat) (x : BiPair) (s : State) : (setPair p x s).sent = s.sent := rfl
@[simp] theorem setPair_hostMem (p : Nat) (x : BiPair) (s : State) : (setPair p x s).hostMem = s.hostMem := rfl

@[simp] theorem setTrig_pending (p : Nat) (x : Trig) (s : State) : (setTrig p x s).pending = s.pending := rfl
@[simp] theorem setTrig_pf0 (p : Nat) (x : Trig) (s : State) : (setTrig p x s).pf0 = s.pf0 := rfl
@[simp] theorem setTrig_pf1 (p : Nat) (x : Trig) (s : State) : (setTrig p x s).pf1 = s.pf1 := rfl
@[simp] theorem setTrig_bells (p : Nat) (x : Trig) (s : State) : (setTrig p x s).bells = s.bells := rfl
@[simp] theorem setTrig_glb (p : Nat) (x : Trig) (s : State) : (setTrig p x s).glb = s.glb := rfl
@[simp] theorem setTrig_stk (p : Nat) (x : Trig) (s : State) : (setTrig p x s).stk = s.stk := rfl
@[simp] theorem setTrig_cnt (p : Nat) (x : Trig) (s : State) : (setTrig p x s).cnt = s.cnt := rfl
@[simp] theorem setTrig_cfg (p : Nat) (x : Trig) (s : State) : (setTrig p x s).cfg = s.cfg := rfl
@[simp] theorem setTrig_samp (p : Nat) (x : Trig) (s : State) : (setTrig p x s).samp = s.samp := rfl
@[simp] theorem setTrig_ing (p : Nat) (x : Trig) (s : State) : (setTrig p x s).ing = s.ing := rfl
@[simp] theorem setTrig_tb (p : Nat) (x : Trig) (s : State) : (setTrig p x s).tb = s.tb := rfl
@[simp] theorem setTrig_ldf (p : Nat) (x : Trig) (s : State) : (setTrig p x s).ldf = s.ldf := rfl
@[simp] theorem setTrig_dovetail (p : Nat) (x : Trig) (s : State) : (setTrig p x s).dovetail = s.dovetail := rfl
@[simp] theorem setTrig_zones (p : Nat) (x : Trig) (s : State) : (setTrig p x s).zones = s.zones := rfl
@[simp] theorem setTrig_tenon (p : Nat) (x : Trig) (s : State) : (setTrig p x s).tenon = s.tenon := rfl
@[simp] theorem setTrig_insts (p : Nat) (x : Trig) (s : State) : (setTrig p x s).insts = s.insts := rfl
@[simp] theorem setTrig_results (p : Nat) (x : Trig) (s : State) : (setTrig p x s).results = s.results := rfl
@[simp] theorem setTrig_logic (p : Nat) (x : Trig) (s : State) : (setTrig p x s).logic = s.logic := rfl
@[simp] theorem setTrig_wires (p : Nat) (x : Trig) (s : State) : (setTrig p x s).wires = s.wires := rfl
@[simp] theorem setTrig_bi (p : Nat) (x : Trig) (s : State) : (setTrig p x s).bi = s.bi := rfl
@[simp] theorem setTrig_lanes (p : Nat) (x : Trig) (s : State) : (setTrig p x s).lanes = s.lanes := rfl
@[simp] theorem setTrig_pair (p : Nat) (x : Trig) (s : State) : (setTrig p x s).pair = s.pair := rfl
@[simp] theorem setTrig_tally (p : Nat) (x : Trig) (s : State) : (setTrig p x s).tally = s.tally := rfl
@[simp] theorem setTrig_granary (p : Nat) (x : Trig) (s : State) : (setTrig p x s).granary = s.granary := rfl
@[simp] theorem setTrig_bist (p : Nat) (x : Trig) (s : State) : (setTrig p x s).bist = s.bist := rfl
@[simp] theorem setTrig_dumpDdr (p : Nat) (x : Trig) (s : State) : (setTrig p x s).dumpDdr = s.dumpDdr := rfl
@[simp] theorem setTrig_dumpEmmc (p : Nat) (x : Trig) (s : State) : (setTrig p x s).dumpEmmc = s.dumpEmmc := rfl
@[simp] theorem setTrig_dumpBusy (p : Nat) (x : Trig) (s : State) : (setTrig p x s).dumpBusy = s.dumpBusy := rfl
@[simp] theorem setTrig_zst (p : Nat) (x : Trig) (s : State) : (setTrig p x s).zst = s.zst := rfl
@[simp] theorem setTrig_zstHidden (p : Nat) (x : Trig) (s : State) : (setTrig p x s).zstHidden = s.zstHidden := rfl
@[simp] theorem setTrig_dumpNo (p : Nat) (x : Trig) (s : State) : (setTrig p x s).dumpNo = s.dumpNo := rfl
@[simp] theorem setTrig_trust (p : Nat) (x : Trig) (s : State) : (setTrig p x s).trust = s.trust := rfl
@[simp] theorem setTrig_store (p : Nat) (x : Trig) (s : State) : (setTrig p x s).store = s.store := rfl
@[simp] theorem setTrig_power (p : Nat) (x : Trig) (s : State) : (setTrig p x s).power = s.power := rfl
@[simp] theorem setTrig_trace (p : Nat) (x : Trig) (s : State) : (setTrig p x s).trace = s.trace := rfl
@[simp] theorem setTrig_sent (p : Nat) (x : Trig) (s : State) : (setTrig p x s).sent = s.sent := rfl
@[simp] theorem setTrig_hostMem (p : Nat) (x : Trig) (s : State) : (setTrig p x s).hostMem = s.hostMem := rfl

@[simp] theorem setPtp_pending (n : Nat) (x : PtpPort) (s : State) : (setPtp n x s).pending = s.pending := rfl
@[simp] theorem setPtp_pf0 (n : Nat) (x : PtpPort) (s : State) : (setPtp n x s).pf0 = s.pf0 := rfl
@[simp] theorem setPtp_pf1 (n : Nat) (x : PtpPort) (s : State) : (setPtp n x s).pf1 = s.pf1 := rfl
@[simp] theorem setPtp_bells (n : Nat) (x : PtpPort) (s : State) : (setPtp n x s).bells = s.bells := rfl
@[simp] theorem setPtp_glb (n : Nat) (x : PtpPort) (s : State) : (setPtp n x s).glb = s.glb := rfl
@[simp] theorem setPtp_stk (n : Nat) (x : PtpPort) (s : State) : (setPtp n x s).stk = s.stk := rfl
@[simp] theorem setPtp_cnt (n : Nat) (x : PtpPort) (s : State) : (setPtp n x s).cnt = s.cnt := rfl
@[simp] theorem setPtp_cfg (n : Nat) (x : PtpPort) (s : State) : (setPtp n x s).cfg = s.cfg := rfl
@[simp] theorem setPtp_samp (n : Nat) (x : PtpPort) (s : State) : (setPtp n x s).samp = s.samp := rfl
@[simp] theorem setPtp_ing (n : Nat) (x : PtpPort) (s : State) : (setPtp n x s).ing = s.ing := rfl
@[simp] theorem setPtp_ldf (n : Nat) (x : PtpPort) (s : State) : (setPtp n x s).ldf = s.ldf := rfl
@[simp] theorem setPtp_dovetail (n : Nat) (x : PtpPort) (s : State) : (setPtp n x s).dovetail = s.dovetail := rfl
@[simp] theorem setPtp_zones (n : Nat) (x : PtpPort) (s : State) : (setPtp n x s).zones = s.zones := rfl
@[simp] theorem setPtp_tenon (n : Nat) (x : PtpPort) (s : State) : (setPtp n x s).tenon = s.tenon := rfl
@[simp] theorem setPtp_insts (n : Nat) (x : PtpPort) (s : State) : (setPtp n x s).insts = s.insts := rfl
@[simp] theorem setPtp_results (n : Nat) (x : PtpPort) (s : State) : (setPtp n x s).results = s.results := rfl
@[simp] theorem setPtp_logic (n : Nat) (x : PtpPort) (s : State) : (setPtp n x s).logic = s.logic := rfl
@[simp] theorem setPtp_wires (n : Nat) (x : PtpPort) (s : State) : (setPtp n x s).wires = s.wires := rfl
@[simp] theorem setPtp_bi (n : Nat) (x : PtpPort) (s : State) : (setPtp n x s).bi = s.bi := rfl
@[simp] theorem setPtp_thr (n : Nat) (x : PtpPort) (s : State) : (setPtp n x s).thr = s.thr := rfl
@[simp] theorem setPtp_lanes (n : Nat) (x : PtpPort) (s : State) : (setPtp n x s).lanes = s.lanes := rfl
@[simp] theorem setPtp_pair (n : Nat) (x : PtpPort) (s : State) : (setPtp n x s).pair = s.pair := rfl
@[simp] theorem setPtp_tally (n : Nat) (x : PtpPort) (s : State) : (setPtp n x s).tally = s.tally := rfl
@[simp] theorem setPtp_granary (n : Nat) (x : PtpPort) (s : State) : (setPtp n x s).granary = s.granary := rfl
@[simp] theorem setPtp_bist (n : Nat) (x : PtpPort) (s : State) : (setPtp n x s).bist = s.bist := rfl
@[simp] theorem setPtp_dumpDdr (n : Nat) (x : PtpPort) (s : State) : (setPtp n x s).dumpDdr = s.dumpDdr := rfl
@[simp] theorem setPtp_dumpEmmc (n : Nat) (x : PtpPort) (s : State) : (setPtp n x s).dumpEmmc = s.dumpEmmc := rfl
@[simp] theorem setPtp_dumpBusy (n : Nat) (x : PtpPort) (s : State) : (setPtp n x s).dumpBusy = s.dumpBusy := rfl
@[simp] theorem setPtp_zst (n : Nat) (x : PtpPort) (s : State) : (setPtp n x s).zst = s.zst := rfl
@[simp] theorem setPtp_zstHidden (n : Nat) (x : PtpPort) (s : State) : (setPtp n x s).zstHidden = s.zstHidden := rfl
@[simp] theorem setPtp_dumpNo (n : Nat) (x : PtpPort) (s : State) : (setPtp n x s).dumpNo = s.dumpNo := rfl
@[simp] theorem setPtp_trust (n : Nat) (x : PtpPort) (s : State) : (setPtp n x s).trust = s.trust := rfl
@[simp] theorem setPtp_store (n : Nat) (x : PtpPort) (s : State) : (setPtp n x s).store = s.store := rfl
@[simp] theorem setPtp_power (n : Nat) (x : PtpPort) (s : State) : (setPtp n x s).power = s.power := rfl
@[simp] theorem setPtp_trace (n : Nat) (x : PtpPort) (s : State) : (setPtp n x s).trace = s.trace := rfl
@[simp] theorem setPtp_sent (n : Nat) (x : PtpPort) (s : State) : (setPtp n x s).sent = s.sent := rfl
@[simp] theorem setPtp_hostMem (n : Nat) (x : PtpPort) (s : State) : (setPtp n x s).hostMem = s.hostMem := rfl

@[simp] theorem setPort_pending (n : Nat) (x : Port) (s : State) : (setPort n x s).pending = s.pending := rfl
@[simp] theorem setPort_pf0 (n : Nat) (x : Port) (s : State) : (setPort n x s).pf0 = s.pf0 := rfl
@[simp] theorem setPort_pf1 (n : Nat) (x : Port) (s : State) : (setPort n x s).pf1 = s.pf1 := rfl
@[simp] theorem setPort_bells (n : Nat) (x : Port) (s : State) : (setPort n x s).bells = s.bells := rfl
@[simp] theorem setPort_glb (n : Nat) (x : Port) (s : State) : (setPort n x s).glb = s.glb := rfl
@[simp] theorem setPort_stk (n : Nat) (x : Port) (s : State) : (setPort n x s).stk = s.stk := rfl
@[simp] theorem setPort_cnt (n : Nat) (x : Port) (s : State) : (setPort n x s).cnt = s.cnt := rfl
@[simp] theorem setPort_cfg (n : Nat) (x : Port) (s : State) : (setPort n x s).cfg = s.cfg := rfl
@[simp] theorem setPort_samp (n : Nat) (x : Port) (s : State) : (setPort n x s).samp = s.samp := rfl
@[simp] theorem setPort_tb (n : Nat) (x : Port) (s : State) : (setPort n x s).tb = s.tb := rfl
@[simp] theorem setPort_ldf (n : Nat) (x : Port) (s : State) : (setPort n x s).ldf = s.ldf := rfl
@[simp] theorem setPort_dovetail (n : Nat) (x : Port) (s : State) : (setPort n x s).dovetail = s.dovetail := rfl
@[simp] theorem setPort_zones (n : Nat) (x : Port) (s : State) : (setPort n x s).zones = s.zones := rfl
@[simp] theorem setPort_tenon (n : Nat) (x : Port) (s : State) : (setPort n x s).tenon = s.tenon := rfl
@[simp] theorem setPort_insts (n : Nat) (x : Port) (s : State) : (setPort n x s).insts = s.insts := rfl
@[simp] theorem setPort_results (n : Nat) (x : Port) (s : State) : (setPort n x s).results = s.results := rfl
@[simp] theorem setPort_logic (n : Nat) (x : Port) (s : State) : (setPort n x s).logic = s.logic := rfl
@[simp] theorem setPort_wires (n : Nat) (x : Port) (s : State) : (setPort n x s).wires = s.wires := rfl
@[simp] theorem setPort_bi (n : Nat) (x : Port) (s : State) : (setPort n x s).bi = s.bi := rfl
@[simp] theorem setPort_thr (n : Nat) (x : Port) (s : State) : (setPort n x s).thr = s.thr := rfl
@[simp] theorem setPort_lanes (n : Nat) (x : Port) (s : State) : (setPort n x s).lanes = s.lanes := rfl
@[simp] theorem setPort_pair (n : Nat) (x : Port) (s : State) : (setPort n x s).pair = s.pair := rfl
@[simp] theorem setPort_tally (n : Nat) (x : Port) (s : State) : (setPort n x s).tally = s.tally := rfl
@[simp] theorem setPort_granary (n : Nat) (x : Port) (s : State) : (setPort n x s).granary = s.granary := rfl
@[simp] theorem setPort_bist (n : Nat) (x : Port) (s : State) : (setPort n x s).bist = s.bist := rfl
@[simp] theorem setPort_dumpDdr (n : Nat) (x : Port) (s : State) : (setPort n x s).dumpDdr = s.dumpDdr := rfl
@[simp] theorem setPort_dumpEmmc (n : Nat) (x : Port) (s : State) : (setPort n x s).dumpEmmc = s.dumpEmmc := rfl
@[simp] theorem setPort_dumpBusy (n : Nat) (x : Port) (s : State) : (setPort n x s).dumpBusy = s.dumpBusy := rfl
@[simp] theorem setPort_zst (n : Nat) (x : Port) (s : State) : (setPort n x s).zst = s.zst := rfl
@[simp] theorem setPort_zstHidden (n : Nat) (x : Port) (s : State) : (setPort n x s).zstHidden = s.zstHidden := rfl
@[simp] theorem setPort_dumpNo (n : Nat) (x : Port) (s : State) : (setPort n x s).dumpNo = s.dumpNo := rfl
@[simp] theorem setPort_trust (n : Nat) (x : Port) (s : State) : (setPort n x s).trust = s.trust := rfl
@[simp] theorem setPort_store (n : Nat) (x : Port) (s : State) : (setPort n x s).store = s.store := rfl
@[simp] theorem setPort_power (n : Nat) (x : Port) (s : State) : (setPort n x s).power = s.power := rfl
@[simp] theorem setPort_trace (n : Nat) (x : Port) (s : State) : (setPort n x s).trace = s.trace := rfl
@[simp] theorem setPort_sent (n : Nat) (x : Port) (s : State) : (setPort n x s).sent = s.sent := rfl
@[simp] theorem setPort_hostMem (n : Nat) (x : Port) (s : State) : (setPort n x s).hostMem = s.hostMem := rfl

@[simp] theorem setSub_pending (n : Nat) (x : GooseSub) (s : State) : (setSub n x s).pending = s.pending := rfl
@[simp] theorem setSub_pf0 (n : Nat) (x : GooseSub) (s : State) : (setSub n x s).pf0 = s.pf0 := rfl
@[simp] theorem setSub_pf1 (n : Nat) (x : GooseSub) (s : State) : (setSub n x s).pf1 = s.pf1 := rfl
@[simp] theorem setSub_bells (n : Nat) (x : GooseSub) (s : State) : (setSub n x s).bells = s.bells := rfl
@[simp] theorem setSub_glb (n : Nat) (x : GooseSub) (s : State) : (setSub n x s).glb = s.glb := rfl
@[simp] theorem setSub_stk (n : Nat) (x : GooseSub) (s : State) : (setSub n x s).stk = s.stk := rfl
@[simp] theorem setSub_cnt (n : Nat) (x : GooseSub) (s : State) : (setSub n x s).cnt = s.cnt := rfl
@[simp] theorem setSub_cfg (n : Nat) (x : GooseSub) (s : State) : (setSub n x s).cfg = s.cfg := rfl
@[simp] theorem setSub_samp (n : Nat) (x : GooseSub) (s : State) : (setSub n x s).samp = s.samp := rfl
@[simp] theorem setSub_tb (n : Nat) (x : GooseSub) (s : State) : (setSub n x s).tb = s.tb := rfl
@[simp] theorem setSub_ldf (n : Nat) (x : GooseSub) (s : State) : (setSub n x s).ldf = s.ldf := rfl
@[simp] theorem setSub_dovetail (n : Nat) (x : GooseSub) (s : State) : (setSub n x s).dovetail = s.dovetail := rfl
@[simp] theorem setSub_zones (n : Nat) (x : GooseSub) (s : State) : (setSub n x s).zones = s.zones := rfl
@[simp] theorem setSub_tenon (n : Nat) (x : GooseSub) (s : State) : (setSub n x s).tenon = s.tenon := rfl
@[simp] theorem setSub_insts (n : Nat) (x : GooseSub) (s : State) : (setSub n x s).insts = s.insts := rfl
@[simp] theorem setSub_results (n : Nat) (x : GooseSub) (s : State) : (setSub n x s).results = s.results := rfl
@[simp] theorem setSub_logic (n : Nat) (x : GooseSub) (s : State) : (setSub n x s).logic = s.logic := rfl
@[simp] theorem setSub_wires (n : Nat) (x : GooseSub) (s : State) : (setSub n x s).wires = s.wires := rfl
@[simp] theorem setSub_bi (n : Nat) (x : GooseSub) (s : State) : (setSub n x s).bi = s.bi := rfl
@[simp] theorem setSub_thr (n : Nat) (x : GooseSub) (s : State) : (setSub n x s).thr = s.thr := rfl
@[simp] theorem setSub_lanes (n : Nat) (x : GooseSub) (s : State) : (setSub n x s).lanes = s.lanes := rfl
@[simp] theorem setSub_pair (n : Nat) (x : GooseSub) (s : State) : (setSub n x s).pair = s.pair := rfl
@[simp] theorem setSub_tally (n : Nat) (x : GooseSub) (s : State) : (setSub n x s).tally = s.tally := rfl
@[simp] theorem setSub_granary (n : Nat) (x : GooseSub) (s : State) : (setSub n x s).granary = s.granary := rfl
@[simp] theorem setSub_bist (n : Nat) (x : GooseSub) (s : State) : (setSub n x s).bist = s.bist := rfl
@[simp] theorem setSub_dumpDdr (n : Nat) (x : GooseSub) (s : State) : (setSub n x s).dumpDdr = s.dumpDdr := rfl
@[simp] theorem setSub_dumpEmmc (n : Nat) (x : GooseSub) (s : State) : (setSub n x s).dumpEmmc = s.dumpEmmc := rfl
@[simp] theorem setSub_dumpBusy (n : Nat) (x : GooseSub) (s : State) : (setSub n x s).dumpBusy = s.dumpBusy := rfl
@[simp] theorem setSub_zst (n : Nat) (x : GooseSub) (s : State) : (setSub n x s).zst = s.zst := rfl
@[simp] theorem setSub_zstHidden (n : Nat) (x : GooseSub) (s : State) : (setSub n x s).zstHidden = s.zstHidden := rfl
@[simp] theorem setSub_dumpNo (n : Nat) (x : GooseSub) (s : State) : (setSub n x s).dumpNo = s.dumpNo := rfl
@[simp] theorem setSub_trust (n : Nat) (x : GooseSub) (s : State) : (setSub n x s).trust = s.trust := rfl
@[simp] theorem setSub_store (n : Nat) (x : GooseSub) (s : State) : (setSub n x s).store = s.store := rfl
@[simp] theorem setSub_power (n : Nat) (x : GooseSub) (s : State) : (setSub n x s).power = s.power := rfl
@[simp] theorem setSub_trace (n : Nat) (x : GooseSub) (s : State) : (setSub n x s).trace = s.trace := rfl
@[simp] theorem setSub_sent (n : Nat) (x : GooseSub) (s : State) : (setSub n x s).sent = s.sent := rfl
@[simp] theorem setSub_hostMem (n : Nat) (x : GooseSub) (s : State) : (setSub n x s).hostMem = s.hostMem := rfl

@[simp] theorem setPub_pending (n : Nat) (x : GoosePub) (s : State) : (setPub n x s).pending = s.pending := rfl
@[simp] theorem setPub_pf0 (n : Nat) (x : GoosePub) (s : State) : (setPub n x s).pf0 = s.pf0 := rfl
@[simp] theorem setPub_pf1 (n : Nat) (x : GoosePub) (s : State) : (setPub n x s).pf1 = s.pf1 := rfl
@[simp] theorem setPub_bells (n : Nat) (x : GoosePub) (s : State) : (setPub n x s).bells = s.bells := rfl
@[simp] theorem setPub_glb (n : Nat) (x : GoosePub) (s : State) : (setPub n x s).glb = s.glb := rfl
@[simp] theorem setPub_stk (n : Nat) (x : GoosePub) (s : State) : (setPub n x s).stk = s.stk := rfl
@[simp] theorem setPub_cnt (n : Nat) (x : GoosePub) (s : State) : (setPub n x s).cnt = s.cnt := rfl
@[simp] theorem setPub_cfg (n : Nat) (x : GoosePub) (s : State) : (setPub n x s).cfg = s.cfg := rfl
@[simp] theorem setPub_samp (n : Nat) (x : GoosePub) (s : State) : (setPub n x s).samp = s.samp := rfl
@[simp] theorem setPub_tb (n : Nat) (x : GoosePub) (s : State) : (setPub n x s).tb = s.tb := rfl
@[simp] theorem setPub_ldf (n : Nat) (x : GoosePub) (s : State) : (setPub n x s).ldf = s.ldf := rfl
@[simp] theorem setPub_dovetail (n : Nat) (x : GoosePub) (s : State) : (setPub n x s).dovetail = s.dovetail := rfl
@[simp] theorem setPub_zones (n : Nat) (x : GoosePub) (s : State) : (setPub n x s).zones = s.zones := rfl
@[simp] theorem setPub_tenon (n : Nat) (x : GoosePub) (s : State) : (setPub n x s).tenon = s.tenon := rfl
@[simp] theorem setPub_insts (n : Nat) (x : GoosePub) (s : State) : (setPub n x s).insts = s.insts := rfl
@[simp] theorem setPub_results (n : Nat) (x : GoosePub) (s : State) : (setPub n x s).results = s.results := rfl
@[simp] theorem setPub_logic (n : Nat) (x : GoosePub) (s : State) : (setPub n x s).logic = s.logic := rfl
@[simp] theorem setPub_wires (n : Nat) (x : GoosePub) (s : State) : (setPub n x s).wires = s.wires := rfl
@[simp] theorem setPub_bi (n : Nat) (x : GoosePub) (s : State) : (setPub n x s).bi = s.bi := rfl
@[simp] theorem setPub_thr (n : Nat) (x : GoosePub) (s : State) : (setPub n x s).thr = s.thr := rfl
@[simp] theorem setPub_lanes (n : Nat) (x : GoosePub) (s : State) : (setPub n x s).lanes = s.lanes := rfl
@[simp] theorem setPub_pair (n : Nat) (x : GoosePub) (s : State) : (setPub n x s).pair = s.pair := rfl
@[simp] theorem setPub_tally (n : Nat) (x : GoosePub) (s : State) : (setPub n x s).tally = s.tally := rfl
@[simp] theorem setPub_granary (n : Nat) (x : GoosePub) (s : State) : (setPub n x s).granary = s.granary := rfl
@[simp] theorem setPub_bist (n : Nat) (x : GoosePub) (s : State) : (setPub n x s).bist = s.bist := rfl
@[simp] theorem setPub_dumpDdr (n : Nat) (x : GoosePub) (s : State) : (setPub n x s).dumpDdr = s.dumpDdr := rfl
@[simp] theorem setPub_dumpEmmc (n : Nat) (x : GoosePub) (s : State) : (setPub n x s).dumpEmmc = s.dumpEmmc := rfl
@[simp] theorem setPub_dumpBusy (n : Nat) (x : GoosePub) (s : State) : (setPub n x s).dumpBusy = s.dumpBusy := rfl
@[simp] theorem setPub_zst (n : Nat) (x : GoosePub) (s : State) : (setPub n x s).zst = s.zst := rfl
@[simp] theorem setPub_zstHidden (n : Nat) (x : GoosePub) (s : State) : (setPub n x s).zstHidden = s.zstHidden := rfl
@[simp] theorem setPub_dumpNo (n : Nat) (x : GoosePub) (s : State) : (setPub n x s).dumpNo = s.dumpNo := rfl
@[simp] theorem setPub_trust (n : Nat) (x : GoosePub) (s : State) : (setPub n x s).trust = s.trust := rfl
@[simp] theorem setPub_store (n : Nat) (x : GoosePub) (s : State) : (setPub n x s).store = s.store := rfl
@[simp] theorem setPub_power (n : Nat) (x : GoosePub) (s : State) : (setPub n x s).power = s.power := rfl
@[simp] theorem setPub_trace (n : Nat) (x : GoosePub) (s : State) : (setPub n x s).trace = s.trace := rfl
@[simp] theorem setPub_sent (n : Nat) (x : GoosePub) (s : State) : (setPub n x s).sent = s.sent := rfl
@[simp] theorem setPub_hostMem (n : Nat) (x : GoosePub) (s : State) : (setPub n x s).hostMem = s.hostMem := rfl

@[simp] theorem setNode_pending (x : PrpNode) (s : State) : (setNode x s).pending = s.pending := rfl
@[simp] theorem setNode_pf0 (x : PrpNode) (s : State) : (setNode x s).pf0 = s.pf0 := rfl
@[simp] theorem setNode_pf1 (x : PrpNode) (s : State) : (setNode x s).pf1 = s.pf1 := rfl
@[simp] theorem setNode_bells (x : PrpNode) (s : State) : (setNode x s).bells = s.bells := rfl
@[simp] theorem setNode_glb (x : PrpNode) (s : State) : (setNode x s).glb = s.glb := rfl
@[simp] theorem setNode_stk (x : PrpNode) (s : State) : (setNode x s).stk = s.stk := rfl
@[simp] theorem setNode_cnt (x : PrpNode) (s : State) : (setNode x s).cnt = s.cnt := rfl
@[simp] theorem setNode_cfg (x : PrpNode) (s : State) : (setNode x s).cfg = s.cfg := rfl
@[simp] theorem setNode_samp (x : PrpNode) (s : State) : (setNode x s).samp = s.samp := rfl
@[simp] theorem setNode_tb (x : PrpNode) (s : State) : (setNode x s).tb = s.tb := rfl
@[simp] theorem setNode_ldf (x : PrpNode) (s : State) : (setNode x s).ldf = s.ldf := rfl
@[simp] theorem setNode_dovetail (x : PrpNode) (s : State) : (setNode x s).dovetail = s.dovetail := rfl
@[simp] theorem setNode_zones (x : PrpNode) (s : State) : (setNode x s).zones = s.zones := rfl
@[simp] theorem setNode_tenon (x : PrpNode) (s : State) : (setNode x s).tenon = s.tenon := rfl
@[simp] theorem setNode_insts (x : PrpNode) (s : State) : (setNode x s).insts = s.insts := rfl
@[simp] theorem setNode_results (x : PrpNode) (s : State) : (setNode x s).results = s.results := rfl
@[simp] theorem setNode_logic (x : PrpNode) (s : State) : (setNode x s).logic = s.logic := rfl
@[simp] theorem setNode_wires (x : PrpNode) (s : State) : (setNode x s).wires = s.wires := rfl
@[simp] theorem setNode_bi (x : PrpNode) (s : State) : (setNode x s).bi = s.bi := rfl
@[simp] theorem setNode_thr (x : PrpNode) (s : State) : (setNode x s).thr = s.thr := rfl
@[simp] theorem setNode_lanes (x : PrpNode) (s : State) : (setNode x s).lanes = s.lanes := rfl
@[simp] theorem setNode_pair (x : PrpNode) (s : State) : (setNode x s).pair = s.pair := rfl
@[simp] theorem setNode_tally (x : PrpNode) (s : State) : (setNode x s).tally = s.tally := rfl
@[simp] theorem setNode_granary (x : PrpNode) (s : State) : (setNode x s).granary = s.granary := rfl
@[simp] theorem setNode_bist (x : PrpNode) (s : State) : (setNode x s).bist = s.bist := rfl
@[simp] theorem setNode_dumpDdr (x : PrpNode) (s : State) : (setNode x s).dumpDdr = s.dumpDdr := rfl
@[simp] theorem setNode_dumpEmmc (x : PrpNode) (s : State) : (setNode x s).dumpEmmc = s.dumpEmmc := rfl
@[simp] theorem setNode_dumpBusy (x : PrpNode) (s : State) : (setNode x s).dumpBusy = s.dumpBusy := rfl
@[simp] theorem setNode_zst (x : PrpNode) (s : State) : (setNode x s).zst = s.zst := rfl
@[simp] theorem setNode_zstHidden (x : PrpNode) (s : State) : (setNode x s).zstHidden = s.zstHidden := rfl
@[simp] theorem setNode_dumpNo (x : PrpNode) (s : State) : (setNode x s).dumpNo = s.dumpNo := rfl
@[simp] theorem setNode_trust (x : PrpNode) (s : State) : (setNode x s).trust = s.trust := rfl
@[simp] theorem setNode_store (x : PrpNode) (s : State) : (setNode x s).store = s.store := rfl
@[simp] theorem setNode_power (x : PrpNode) (s : State) : (setNode x s).power = s.power := rfl
@[simp] theorem setNode_trace (x : PrpNode) (s : State) : (setNode x s).trace = s.trace := rfl
@[simp] theorem setNode_sent (x : PrpNode) (s : State) : (setNode x s).sent = s.sent := rfl
@[simp] theorem setNode_hostMem (x : PrpNode) (s : State) : (setNode x s).hostMem = s.hostMem := rfl

@[simp] theorem setLane_pending (n : Nat) (x : LaneState) (s : State) : (setLane n x s).pending = s.pending := rfl
@[simp] theorem setLane_pf0 (n : Nat) (x : LaneState) (s : State) : (setLane n x s).pf0 = s.pf0 := rfl
@[simp] theorem setLane_pf1 (n : Nat) (x : LaneState) (s : State) : (setLane n x s).pf1 = s.pf1 := rfl
@[simp] theorem setLane_bells (n : Nat) (x : LaneState) (s : State) : (setLane n x s).bells = s.bells := rfl
@[simp] theorem setLane_glb (n : Nat) (x : LaneState) (s : State) : (setLane n x s).glb = s.glb := rfl
@[simp] theorem setLane_stk (n : Nat) (x : LaneState) (s : State) : (setLane n x s).stk = s.stk := rfl
@[simp] theorem setLane_cnt (n : Nat) (x : LaneState) (s : State) : (setLane n x s).cnt = s.cnt := rfl
@[simp] theorem setLane_cfg (n : Nat) (x : LaneState) (s : State) : (setLane n x s).cfg = s.cfg := rfl
@[simp] theorem setLane_samp (n : Nat) (x : LaneState) (s : State) : (setLane n x s).samp = s.samp := rfl
@[simp] theorem setLane_ing (n : Nat) (x : LaneState) (s : State) : (setLane n x s).ing = s.ing := rfl
@[simp] theorem setLane_tb (n : Nat) (x : LaneState) (s : State) : (setLane n x s).tb = s.tb := rfl
@[simp] theorem setLane_ldf (n : Nat) (x : LaneState) (s : State) : (setLane n x s).ldf = s.ldf := rfl
@[simp] theorem setLane_dovetail (n : Nat) (x : LaneState) (s : State) : (setLane n x s).dovetail = s.dovetail := rfl
@[simp] theorem setLane_zones (n : Nat) (x : LaneState) (s : State) : (setLane n x s).zones = s.zones := rfl
@[simp] theorem setLane_tenon (n : Nat) (x : LaneState) (s : State) : (setLane n x s).tenon = s.tenon := rfl
@[simp] theorem setLane_insts (n : Nat) (x : LaneState) (s : State) : (setLane n x s).insts = s.insts := rfl
@[simp] theorem setLane_results (n : Nat) (x : LaneState) (s : State) : (setLane n x s).results = s.results := rfl
@[simp] theorem setLane_logic (n : Nat) (x : LaneState) (s : State) : (setLane n x s).logic = s.logic := rfl
@[simp] theorem setLane_wires (n : Nat) (x : LaneState) (s : State) : (setLane n x s).wires = s.wires := rfl
@[simp] theorem setLane_bi (n : Nat) (x : LaneState) (s : State) : (setLane n x s).bi = s.bi := rfl
@[simp] theorem setLane_thr (n : Nat) (x : LaneState) (s : State) : (setLane n x s).thr = s.thr := rfl
@[simp] theorem setLane_pair (n : Nat) (x : LaneState) (s : State) : (setLane n x s).pair = s.pair := rfl
@[simp] theorem setLane_tally (n : Nat) (x : LaneState) (s : State) : (setLane n x s).tally = s.tally := rfl
@[simp] theorem setLane_granary (n : Nat) (x : LaneState) (s : State) : (setLane n x s).granary = s.granary := rfl
@[simp] theorem setLane_bist (n : Nat) (x : LaneState) (s : State) : (setLane n x s).bist = s.bist := rfl
@[simp] theorem setLane_dumpDdr (n : Nat) (x : LaneState) (s : State) : (setLane n x s).dumpDdr = s.dumpDdr := rfl
@[simp] theorem setLane_dumpEmmc (n : Nat) (x : LaneState) (s : State) : (setLane n x s).dumpEmmc = s.dumpEmmc := rfl
@[simp] theorem setLane_dumpBusy (n : Nat) (x : LaneState) (s : State) : (setLane n x s).dumpBusy = s.dumpBusy := rfl
@[simp] theorem setLane_zst (n : Nat) (x : LaneState) (s : State) : (setLane n x s).zst = s.zst := rfl
@[simp] theorem setLane_zstHidden (n : Nat) (x : LaneState) (s : State) : (setLane n x s).zstHidden = s.zstHidden := rfl
@[simp] theorem setLane_dumpNo (n : Nat) (x : LaneState) (s : State) : (setLane n x s).dumpNo = s.dumpNo := rfl
@[simp] theorem setLane_trust (n : Nat) (x : LaneState) (s : State) : (setLane n x s).trust = s.trust := rfl
@[simp] theorem setLane_store (n : Nat) (x : LaneState) (s : State) : (setLane n x s).store = s.store := rfl
@[simp] theorem setLane_power (n : Nat) (x : LaneState) (s : State) : (setLane n x s).power = s.power := rfl
@[simp] theorem setLane_trace (n : Nat) (x : LaneState) (s : State) : (setLane n x s).trace = s.trace := rfl
@[simp] theorem setLane_sent (n : Nat) (x : LaneState) (s : State) : (setLane n x s).sent = s.sent := rfl
@[simp] theorem setLane_hostMem (n : Nat) (x : LaneState) (s : State) : (setLane n x s).hostMem = s.hostMem := rfl

@[simp] theorem setPosition_pending (p : Nat) (n : Option Nat) (s : State) : (setPosition p n s).pending = s.pending := rfl
@[simp] theorem setPosition_pf0 (p : Nat) (n : Option Nat) (s : State) : (setPosition p n s).pf0 = s.pf0 := rfl
@[simp] theorem setPosition_pf1 (p : Nat) (n : Option Nat) (s : State) : (setPosition p n s).pf1 = s.pf1 := rfl
@[simp] theorem setPosition_bells (p : Nat) (n : Option Nat) (s : State) : (setPosition p n s).bells = s.bells := rfl
@[simp] theorem setPosition_glb (p : Nat) (n : Option Nat) (s : State) : (setPosition p n s).glb = s.glb := rfl
@[simp] theorem setPosition_stk (p : Nat) (n : Option Nat) (s : State) : (setPosition p n s).stk = s.stk := rfl
@[simp] theorem setPosition_cnt (p : Nat) (n : Option Nat) (s : State) : (setPosition p n s).cnt = s.cnt := rfl
@[simp] theorem setPosition_cfg (p : Nat) (n : Option Nat) (s : State) : (setPosition p n s).cfg = s.cfg := rfl
@[simp] theorem setPosition_samp (p : Nat) (n : Option Nat) (s : State) : (setPosition p n s).samp = s.samp := rfl
@[simp] theorem setPosition_ing (p : Nat) (n : Option Nat) (s : State) : (setPosition p n s).ing = s.ing := rfl
@[simp] theorem setPosition_tb (p : Nat) (n : Option Nat) (s : State) : (setPosition p n s).tb = s.tb := rfl
@[simp] theorem setPosition_ldf (p : Nat) (n : Option Nat) (s : State) : (setPosition p n s).ldf = s.ldf := rfl
@[simp] theorem setPosition_dovetail (p : Nat) (n : Option Nat) (s : State) : (setPosition p n s).dovetail = s.dovetail := rfl
@[simp] theorem setPosition_zones (p : Nat) (n : Option Nat) (s : State) : (setPosition p n s).zones = s.zones := rfl
@[simp] theorem setPosition_tenon (p : Nat) (n : Option Nat) (s : State) : (setPosition p n s).tenon = s.tenon := rfl
@[simp] theorem setPosition_insts (p : Nat) (n : Option Nat) (s : State) : (setPosition p n s).insts = s.insts := rfl
@[simp] theorem setPosition_results (p : Nat) (n : Option Nat) (s : State) : (setPosition p n s).results = s.results := rfl
@[simp] theorem setPosition_logic (p : Nat) (n : Option Nat) (s : State) : (setPosition p n s).logic = s.logic := rfl
@[simp] theorem setPosition_wires (p : Nat) (n : Option Nat) (s : State) : (setPosition p n s).wires = s.wires := rfl
@[simp] theorem setPosition_bi (p : Nat) (n : Option Nat) (s : State) : (setPosition p n s).bi = s.bi := rfl
@[simp] theorem setPosition_thr (p : Nat) (n : Option Nat) (s : State) : (setPosition p n s).thr = s.thr := rfl
@[simp] theorem setPosition_pair (p : Nat) (n : Option Nat) (s : State) : (setPosition p n s).pair = s.pair := rfl
@[simp] theorem setPosition_tally (p : Nat) (n : Option Nat) (s : State) : (setPosition p n s).tally = s.tally := rfl
@[simp] theorem setPosition_granary (p : Nat) (n : Option Nat) (s : State) : (setPosition p n s).granary = s.granary := rfl
@[simp] theorem setPosition_bist (p : Nat) (n : Option Nat) (s : State) : (setPosition p n s).bist = s.bist := rfl
@[simp] theorem setPosition_dumpDdr (p : Nat) (n : Option Nat) (s : State) : (setPosition p n s).dumpDdr = s.dumpDdr := rfl
@[simp] theorem setPosition_dumpEmmc (p : Nat) (n : Option Nat) (s : State) : (setPosition p n s).dumpEmmc = s.dumpEmmc := rfl
@[simp] theorem setPosition_dumpBusy (p : Nat) (n : Option Nat) (s : State) : (setPosition p n s).dumpBusy = s.dumpBusy := rfl
@[simp] theorem setPosition_zst (p : Nat) (n : Option Nat) (s : State) : (setPosition p n s).zst = s.zst := rfl
@[simp] theorem setPosition_zstHidden (p : Nat) (n : Option Nat) (s : State) : (setPosition p n s).zstHidden = s.zstHidden := rfl
@[simp] theorem setPosition_dumpNo (p : Nat) (n : Option Nat) (s : State) : (setPosition p n s).dumpNo = s.dumpNo := rfl
@[simp] theorem setPosition_trust (p : Nat) (n : Option Nat) (s : State) : (setPosition p n s).trust = s.trust := rfl
@[simp] theorem setPosition_store (p : Nat) (n : Option Nat) (s : State) : (setPosition p n s).store = s.store := rfl
@[simp] theorem setPosition_power (p : Nat) (n : Option Nat) (s : State) : (setPosition p n s).power = s.power := rfl
@[simp] theorem setPosition_trace (p : Nat) (n : Option Nat) (s : State) : (setPosition p n s).trace = s.trace := rfl
@[simp] theorem setPosition_sent (p : Nat) (n : Option Nat) (s : State) : (setPosition p n s).sent = s.sent := rfl
@[simp] theorem setPosition_hostMem (p : Nat) (n : Option Nat) (s : State) : (setPosition p n s).hostMem = s.hostMem := rfl

@[simp] theorem setSlice_pending (n : Nat) (x : Slice) (s : State) : (setSlice n x s).pending = s.pending := rfl
@[simp] theorem setSlice_pf0 (n : Nat) (x : Slice) (s : State) : (setSlice n x s).pf0 = s.pf0 := rfl
@[simp] theorem setSlice_pf1 (n : Nat) (x : Slice) (s : State) : (setSlice n x s).pf1 = s.pf1 := rfl
@[simp] theorem setSlice_bells (n : Nat) (x : Slice) (s : State) : (setSlice n x s).bells = s.bells := rfl
@[simp] theorem setSlice_glb (n : Nat) (x : Slice) (s : State) : (setSlice n x s).glb = s.glb := rfl
@[simp] theorem setSlice_stk (n : Nat) (x : Slice) (s : State) : (setSlice n x s).stk = s.stk := rfl
@[simp] theorem setSlice_cnt (n : Nat) (x : Slice) (s : State) : (setSlice n x s).cnt = s.cnt := rfl
@[simp] theorem setSlice_cfg (n : Nat) (x : Slice) (s : State) : (setSlice n x s).cfg = s.cfg := rfl
@[simp] theorem setSlice_ing (n : Nat) (x : Slice) (s : State) : (setSlice n x s).ing = s.ing := rfl
@[simp] theorem setSlice_tb (n : Nat) (x : Slice) (s : State) : (setSlice n x s).tb = s.tb := rfl
@[simp] theorem setSlice_ldf (n : Nat) (x : Slice) (s : State) : (setSlice n x s).ldf = s.ldf := rfl
@[simp] theorem setSlice_dovetail (n : Nat) (x : Slice) (s : State) : (setSlice n x s).dovetail = s.dovetail := rfl
@[simp] theorem setSlice_zones (n : Nat) (x : Slice) (s : State) : (setSlice n x s).zones = s.zones := rfl
@[simp] theorem setSlice_tenon (n : Nat) (x : Slice) (s : State) : (setSlice n x s).tenon = s.tenon := rfl
@[simp] theorem setSlice_insts (n : Nat) (x : Slice) (s : State) : (setSlice n x s).insts = s.insts := rfl
@[simp] theorem setSlice_results (n : Nat) (x : Slice) (s : State) : (setSlice n x s).results = s.results := rfl
@[simp] theorem setSlice_logic (n : Nat) (x : Slice) (s : State) : (setSlice n x s).logic = s.logic := rfl
@[simp] theorem setSlice_wires (n : Nat) (x : Slice) (s : State) : (setSlice n x s).wires = s.wires := rfl
@[simp] theorem setSlice_bi (n : Nat) (x : Slice) (s : State) : (setSlice n x s).bi = s.bi := rfl
@[simp] theorem setSlice_thr (n : Nat) (x : Slice) (s : State) : (setSlice n x s).thr = s.thr := rfl
@[simp] theorem setSlice_lanes (n : Nat) (x : Slice) (s : State) : (setSlice n x s).lanes = s.lanes := rfl
@[simp] theorem setSlice_pair (n : Nat) (x : Slice) (s : State) : (setSlice n x s).pair = s.pair := rfl
@[simp] theorem setSlice_tally (n : Nat) (x : Slice) (s : State) : (setSlice n x s).tally = s.tally := rfl
@[simp] theorem setSlice_granary (n : Nat) (x : Slice) (s : State) : (setSlice n x s).granary = s.granary := rfl
@[simp] theorem setSlice_bist (n : Nat) (x : Slice) (s : State) : (setSlice n x s).bist = s.bist := rfl
@[simp] theorem setSlice_dumpDdr (n : Nat) (x : Slice) (s : State) : (setSlice n x s).dumpDdr = s.dumpDdr := rfl
@[simp] theorem setSlice_dumpEmmc (n : Nat) (x : Slice) (s : State) : (setSlice n x s).dumpEmmc = s.dumpEmmc := rfl
@[simp] theorem setSlice_dumpBusy (n : Nat) (x : Slice) (s : State) : (setSlice n x s).dumpBusy = s.dumpBusy := rfl
@[simp] theorem setSlice_zst (n : Nat) (x : Slice) (s : State) : (setSlice n x s).zst = s.zst := rfl
@[simp] theorem setSlice_zstHidden (n : Nat) (x : Slice) (s : State) : (setSlice n x s).zstHidden = s.zstHidden := rfl
@[simp] theorem setSlice_dumpNo (n : Nat) (x : Slice) (s : State) : (setSlice n x s).dumpNo = s.dumpNo := rfl
@[simp] theorem setSlice_trust (n : Nat) (x : Slice) (s : State) : (setSlice n x s).trust = s.trust := rfl
@[simp] theorem setSlice_store (n : Nat) (x : Slice) (s : State) : (setSlice n x s).store = s.store := rfl
@[simp] theorem setSlice_power (n : Nat) (x : Slice) (s : State) : (setSlice n x s).power = s.power := rfl
@[simp] theorem setSlice_trace (n : Nat) (x : Slice) (s : State) : (setSlice n x s).trace = s.trace := rfl
@[simp] theorem setSlice_sent (n : Nat) (x : Slice) (s : State) : (setSlice n x s).sent = s.sent := rfl
@[simp] theorem setSlice_hostMem (n : Nat) (x : Slice) (s : State) : (setSlice n x s).hostMem = s.hostMem := rfl

@[simp] theorem setChannel_pending (c : Nat) (x : Channel) (s : State) : (setChannel c x s).pending = s.pending := rfl
@[simp] theorem setChannel_pf0 (c : Nat) (x : Channel) (s : State) : (setChannel c x s).pf0 = s.pf0 := rfl
@[simp] theorem setChannel_pf1 (c : Nat) (x : Channel) (s : State) : (setChannel c x s).pf1 = s.pf1 := rfl
@[simp] theorem setChannel_bells (c : Nat) (x : Channel) (s : State) : (setChannel c x s).bells = s.bells := rfl
@[simp] theorem setChannel_glb (c : Nat) (x : Channel) (s : State) : (setChannel c x s).glb = s.glb := rfl
@[simp] theorem setChannel_stk (c : Nat) (x : Channel) (s : State) : (setChannel c x s).stk = s.stk := rfl
@[simp] theorem setChannel_cnt (c : Nat) (x : Channel) (s : State) : (setChannel c x s).cnt = s.cnt := rfl
@[simp] theorem setChannel_cfg (c : Nat) (x : Channel) (s : State) : (setChannel c x s).cfg = s.cfg := rfl
@[simp] theorem setChannel_ing (c : Nat) (x : Channel) (s : State) : (setChannel c x s).ing = s.ing := rfl
@[simp] theorem setChannel_tb (c : Nat) (x : Channel) (s : State) : (setChannel c x s).tb = s.tb := rfl
@[simp] theorem setChannel_ldf (c : Nat) (x : Channel) (s : State) : (setChannel c x s).ldf = s.ldf := rfl
@[simp] theorem setChannel_dovetail (c : Nat) (x : Channel) (s : State) : (setChannel c x s).dovetail = s.dovetail := rfl
@[simp] theorem setChannel_zones (c : Nat) (x : Channel) (s : State) : (setChannel c x s).zones = s.zones := rfl
@[simp] theorem setChannel_tenon (c : Nat) (x : Channel) (s : State) : (setChannel c x s).tenon = s.tenon := rfl
@[simp] theorem setChannel_insts (c : Nat) (x : Channel) (s : State) : (setChannel c x s).insts = s.insts := rfl
@[simp] theorem setChannel_results (c : Nat) (x : Channel) (s : State) : (setChannel c x s).results = s.results := rfl
@[simp] theorem setChannel_logic (c : Nat) (x : Channel) (s : State) : (setChannel c x s).logic = s.logic := rfl
@[simp] theorem setChannel_wires (c : Nat) (x : Channel) (s : State) : (setChannel c x s).wires = s.wires := rfl
@[simp] theorem setChannel_bi (c : Nat) (x : Channel) (s : State) : (setChannel c x s).bi = s.bi := rfl
@[simp] theorem setChannel_thr (c : Nat) (x : Channel) (s : State) : (setChannel c x s).thr = s.thr := rfl
@[simp] theorem setChannel_lanes (c : Nat) (x : Channel) (s : State) : (setChannel c x s).lanes = s.lanes := rfl
@[simp] theorem setChannel_pair (c : Nat) (x : Channel) (s : State) : (setChannel c x s).pair = s.pair := rfl
@[simp] theorem setChannel_tally (c : Nat) (x : Channel) (s : State) : (setChannel c x s).tally = s.tally := rfl
@[simp] theorem setChannel_granary (c : Nat) (x : Channel) (s : State) : (setChannel c x s).granary = s.granary := rfl
@[simp] theorem setChannel_bist (c : Nat) (x : Channel) (s : State) : (setChannel c x s).bist = s.bist := rfl
@[simp] theorem setChannel_dumpDdr (c : Nat) (x : Channel) (s : State) : (setChannel c x s).dumpDdr = s.dumpDdr := rfl
@[simp] theorem setChannel_dumpEmmc (c : Nat) (x : Channel) (s : State) : (setChannel c x s).dumpEmmc = s.dumpEmmc := rfl
@[simp] theorem setChannel_dumpBusy (c : Nat) (x : Channel) (s : State) : (setChannel c x s).dumpBusy = s.dumpBusy := rfl
@[simp] theorem setChannel_zst (c : Nat) (x : Channel) (s : State) : (setChannel c x s).zst = s.zst := rfl
@[simp] theorem setChannel_zstHidden (c : Nat) (x : Channel) (s : State) : (setChannel c x s).zstHidden = s.zstHidden := rfl
@[simp] theorem setChannel_dumpNo (c : Nat) (x : Channel) (s : State) : (setChannel c x s).dumpNo = s.dumpNo := rfl
@[simp] theorem setChannel_trust (c : Nat) (x : Channel) (s : State) : (setChannel c x s).trust = s.trust := rfl
@[simp] theorem setChannel_store (c : Nat) (x : Channel) (s : State) : (setChannel c x s).store = s.store := rfl
@[simp] theorem setChannel_power (c : Nat) (x : Channel) (s : State) : (setChannel c x s).power = s.power := rfl
@[simp] theorem setChannel_trace (c : Nat) (x : Channel) (s : State) : (setChannel c x s).trace = s.trace := rfl
@[simp] theorem setChannel_sent (c : Nat) (x : Channel) (s : State) : (setChannel c x s).sent = s.sent := rfl
@[simp] theorem setChannel_hostMem (c : Nat) (x : Channel) (s : State) : (setChannel c x s).hostMem = s.hostMem := rfl

@[simp] theorem storeSample_pending (k m : Nat) (x : Sample) (s : State) : (storeSample k m x s).pending = s.pending := rfl
@[simp] theorem storeSample_pf0 (k m : Nat) (x : Sample) (s : State) : (storeSample k m x s).pf0 = s.pf0 := rfl
@[simp] theorem storeSample_pf1 (k m : Nat) (x : Sample) (s : State) : (storeSample k m x s).pf1 = s.pf1 := rfl
@[simp] theorem storeSample_bells (k m : Nat) (x : Sample) (s : State) : (storeSample k m x s).bells = s.bells := rfl
@[simp] theorem storeSample_glb (k m : Nat) (x : Sample) (s : State) : (storeSample k m x s).glb = s.glb := rfl
@[simp] theorem storeSample_stk (k m : Nat) (x : Sample) (s : State) : (storeSample k m x s).stk = s.stk := rfl
@[simp] theorem storeSample_cnt (k m : Nat) (x : Sample) (s : State) : (storeSample k m x s).cnt = s.cnt := rfl
@[simp] theorem storeSample_cfg (k m : Nat) (x : Sample) (s : State) : (storeSample k m x s).cfg = s.cfg := rfl
@[simp] theorem storeSample_ing (k m : Nat) (x : Sample) (s : State) : (storeSample k m x s).ing = s.ing := rfl
@[simp] theorem storeSample_tb (k m : Nat) (x : Sample) (s : State) : (storeSample k m x s).tb = s.tb := rfl
@[simp] theorem storeSample_ldf (k m : Nat) (x : Sample) (s : State) : (storeSample k m x s).ldf = s.ldf := rfl
@[simp] theorem storeSample_dovetail (k m : Nat) (x : Sample) (s : State) : (storeSample k m x s).dovetail = s.dovetail := rfl
@[simp] theorem storeSample_zones (k m : Nat) (x : Sample) (s : State) : (storeSample k m x s).zones = s.zones := rfl
@[simp] theorem storeSample_tenon (k m : Nat) (x : Sample) (s : State) : (storeSample k m x s).tenon = s.tenon := rfl
@[simp] theorem storeSample_insts (k m : Nat) (x : Sample) (s : State) : (storeSample k m x s).insts = s.insts := rfl
@[simp] theorem storeSample_results (k m : Nat) (x : Sample) (s : State) : (storeSample k m x s).results = s.results := rfl
@[simp] theorem storeSample_logic (k m : Nat) (x : Sample) (s : State) : (storeSample k m x s).logic = s.logic := rfl
@[simp] theorem storeSample_wires (k m : Nat) (x : Sample) (s : State) : (storeSample k m x s).wires = s.wires := rfl
@[simp] theorem storeSample_bi (k m : Nat) (x : Sample) (s : State) : (storeSample k m x s).bi = s.bi := rfl
@[simp] theorem storeSample_thr (k m : Nat) (x : Sample) (s : State) : (storeSample k m x s).thr = s.thr := rfl
@[simp] theorem storeSample_lanes (k m : Nat) (x : Sample) (s : State) : (storeSample k m x s).lanes = s.lanes := rfl
@[simp] theorem storeSample_pair (k m : Nat) (x : Sample) (s : State) : (storeSample k m x s).pair = s.pair := rfl
@[simp] theorem storeSample_tally (k m : Nat) (x : Sample) (s : State) : (storeSample k m x s).tally = s.tally := rfl
@[simp] theorem storeSample_granary (k m : Nat) (x : Sample) (s : State) : (storeSample k m x s).granary = s.granary := rfl
@[simp] theorem storeSample_bist (k m : Nat) (x : Sample) (s : State) : (storeSample k m x s).bist = s.bist := rfl
@[simp] theorem storeSample_dumpDdr (k m : Nat) (x : Sample) (s : State) : (storeSample k m x s).dumpDdr = s.dumpDdr := rfl
@[simp] theorem storeSample_dumpEmmc (k m : Nat) (x : Sample) (s : State) : (storeSample k m x s).dumpEmmc = s.dumpEmmc := rfl
@[simp] theorem storeSample_dumpBusy (k m : Nat) (x : Sample) (s : State) : (storeSample k m x s).dumpBusy = s.dumpBusy := rfl
@[simp] theorem storeSample_zst (k m : Nat) (x : Sample) (s : State) : (storeSample k m x s).zst = s.zst := rfl
@[simp] theorem storeSample_zstHidden (k m : Nat) (x : Sample) (s : State) : (storeSample k m x s).zstHidden = s.zstHidden := rfl
@[simp] theorem storeSample_dumpNo (k m : Nat) (x : Sample) (s : State) : (storeSample k m x s).dumpNo = s.dumpNo := rfl
@[simp] theorem storeSample_trust (k m : Nat) (x : Sample) (s : State) : (storeSample k m x s).trust = s.trust := rfl
@[simp] theorem storeSample_store (k m : Nat) (x : Sample) (s : State) : (storeSample k m x s).store = s.store := rfl
@[simp] theorem storeSample_power (k m : Nat) (x : Sample) (s : State) : (storeSample k m x s).power = s.power := rfl
@[simp] theorem storeSample_trace (k m : Nat) (x : Sample) (s : State) : (storeSample k m x s).trace = s.trace := rfl
@[simp] theorem storeSample_sent (k m : Nat) (x : Sample) (s : State) : (storeSample k m x s).sent = s.sent := rfl
@[simp] theorem storeSample_hostMem (k m : Nat) (x : Sample) (s : State) : (storeSample k m x s).hostMem = s.hostMem := rfl

@[simp] theorem storeRaw_pending (k m : Nat) (x : RawSample) (s : State) : (storeRaw k m x s).pending = s.pending := rfl
@[simp] theorem storeRaw_pf0 (k m : Nat) (x : RawSample) (s : State) : (storeRaw k m x s).pf0 = s.pf0 := rfl
@[simp] theorem storeRaw_pf1 (k m : Nat) (x : RawSample) (s : State) : (storeRaw k m x s).pf1 = s.pf1 := rfl
@[simp] theorem storeRaw_bells (k m : Nat) (x : RawSample) (s : State) : (storeRaw k m x s).bells = s.bells := rfl
@[simp] theorem storeRaw_glb (k m : Nat) (x : RawSample) (s : State) : (storeRaw k m x s).glb = s.glb := rfl
@[simp] theorem storeRaw_stk (k m : Nat) (x : RawSample) (s : State) : (storeRaw k m x s).stk = s.stk := rfl
@[simp] theorem storeRaw_cnt (k m : Nat) (x : RawSample) (s : State) : (storeRaw k m x s).cnt = s.cnt := rfl
@[simp] theorem storeRaw_cfg (k m : Nat) (x : RawSample) (s : State) : (storeRaw k m x s).cfg = s.cfg := rfl
@[simp] theorem storeRaw_ing (k m : Nat) (x : RawSample) (s : State) : (storeRaw k m x s).ing = s.ing := rfl
@[simp] theorem storeRaw_tb (k m : Nat) (x : RawSample) (s : State) : (storeRaw k m x s).tb = s.tb := rfl
@[simp] theorem storeRaw_ldf (k m : Nat) (x : RawSample) (s : State) : (storeRaw k m x s).ldf = s.ldf := rfl
@[simp] theorem storeRaw_dovetail (k m : Nat) (x : RawSample) (s : State) : (storeRaw k m x s).dovetail = s.dovetail := rfl
@[simp] theorem storeRaw_zones (k m : Nat) (x : RawSample) (s : State) : (storeRaw k m x s).zones = s.zones := rfl
@[simp] theorem storeRaw_tenon (k m : Nat) (x : RawSample) (s : State) : (storeRaw k m x s).tenon = s.tenon := rfl
@[simp] theorem storeRaw_insts (k m : Nat) (x : RawSample) (s : State) : (storeRaw k m x s).insts = s.insts := rfl
@[simp] theorem storeRaw_results (k m : Nat) (x : RawSample) (s : State) : (storeRaw k m x s).results = s.results := rfl
@[simp] theorem storeRaw_logic (k m : Nat) (x : RawSample) (s : State) : (storeRaw k m x s).logic = s.logic := rfl
@[simp] theorem storeRaw_wires (k m : Nat) (x : RawSample) (s : State) : (storeRaw k m x s).wires = s.wires := rfl
@[simp] theorem storeRaw_bi (k m : Nat) (x : RawSample) (s : State) : (storeRaw k m x s).bi = s.bi := rfl
@[simp] theorem storeRaw_thr (k m : Nat) (x : RawSample) (s : State) : (storeRaw k m x s).thr = s.thr := rfl
@[simp] theorem storeRaw_lanes (k m : Nat) (x : RawSample) (s : State) : (storeRaw k m x s).lanes = s.lanes := rfl
@[simp] theorem storeRaw_pair (k m : Nat) (x : RawSample) (s : State) : (storeRaw k m x s).pair = s.pair := rfl
@[simp] theorem storeRaw_tally (k m : Nat) (x : RawSample) (s : State) : (storeRaw k m x s).tally = s.tally := rfl
@[simp] theorem storeRaw_granary (k m : Nat) (x : RawSample) (s : State) : (storeRaw k m x s).granary = s.granary := rfl
@[simp] theorem storeRaw_bist (k m : Nat) (x : RawSample) (s : State) : (storeRaw k m x s).bist = s.bist := rfl
@[simp] theorem storeRaw_dumpDdr (k m : Nat) (x : RawSample) (s : State) : (storeRaw k m x s).dumpDdr = s.dumpDdr := rfl
@[simp] theorem storeRaw_dumpEmmc (k m : Nat) (x : RawSample) (s : State) : (storeRaw k m x s).dumpEmmc = s.dumpEmmc := rfl
@[simp] theorem storeRaw_dumpBusy (k m : Nat) (x : RawSample) (s : State) : (storeRaw k m x s).dumpBusy = s.dumpBusy := rfl
@[simp] theorem storeRaw_zst (k m : Nat) (x : RawSample) (s : State) : (storeRaw k m x s).zst = s.zst := rfl
@[simp] theorem storeRaw_zstHidden (k m : Nat) (x : RawSample) (s : State) : (storeRaw k m x s).zstHidden = s.zstHidden := rfl
@[simp] theorem storeRaw_dumpNo (k m : Nat) (x : RawSample) (s : State) : (storeRaw k m x s).dumpNo = s.dumpNo := rfl
@[simp] theorem storeRaw_trust (k m : Nat) (x : RawSample) (s : State) : (storeRaw k m x s).trust = s.trust := rfl
@[simp] theorem storeRaw_store (k m : Nat) (x : RawSample) (s : State) : (storeRaw k m x s).store = s.store := rfl
@[simp] theorem storeRaw_power (k m : Nat) (x : RawSample) (s : State) : (storeRaw k m x s).power = s.power := rfl
@[simp] theorem storeRaw_trace (k m : Nat) (x : RawSample) (s : State) : (storeRaw k m x s).trace = s.trace := rfl
@[simp] theorem storeRaw_sent (k m : Nat) (x : RawSample) (s : State) : (storeRaw k m x s).sent = s.sent := rfl
@[simp] theorem storeRaw_hostMem (k m : Nat) (x : RawSample) (s : State) : (storeRaw k m x s).hostMem = s.hostMem := rfl

@[simp] theorem traceMsg_pending (t : Nat) (b : List Byte) (s : State) : (traceMsg t b s).pending = s.pending := rfl
@[simp] theorem traceMsg_pf0 (t : Nat) (b : List Byte) (s : State) : (traceMsg t b s).pf0 = s.pf0 := rfl
@[simp] theorem traceMsg_pf1 (t : Nat) (b : List Byte) (s : State) : (traceMsg t b s).pf1 = s.pf1 := rfl
@[simp] theorem traceMsg_bells (t : Nat) (b : List Byte) (s : State) : (traceMsg t b s).bells = s.bells := rfl
@[simp] theorem traceMsg_glb (t : Nat) (b : List Byte) (s : State) : (traceMsg t b s).glb = s.glb := rfl
@[simp] theorem traceMsg_stk (t : Nat) (b : List Byte) (s : State) : (traceMsg t b s).stk = s.stk := rfl
@[simp] theorem traceMsg_cnt (t : Nat) (b : List Byte) (s : State) : (traceMsg t b s).cnt = s.cnt := rfl
@[simp] theorem traceMsg_cfg (t : Nat) (b : List Byte) (s : State) : (traceMsg t b s).cfg = s.cfg := rfl
@[simp] theorem traceMsg_samp (t : Nat) (b : List Byte) (s : State) : (traceMsg t b s).samp = s.samp := rfl
@[simp] theorem traceMsg_ing (t : Nat) (b : List Byte) (s : State) : (traceMsg t b s).ing = s.ing := rfl
@[simp] theorem traceMsg_tb (t : Nat) (b : List Byte) (s : State) : (traceMsg t b s).tb = s.tb := rfl
@[simp] theorem traceMsg_ldf (t : Nat) (b : List Byte) (s : State) : (traceMsg t b s).ldf = s.ldf := rfl
@[simp] theorem traceMsg_dovetail (t : Nat) (b : List Byte) (s : State) : (traceMsg t b s).dovetail = s.dovetail := rfl
@[simp] theorem traceMsg_zones (t : Nat) (b : List Byte) (s : State) : (traceMsg t b s).zones = s.zones := rfl
@[simp] theorem traceMsg_tenon (t : Nat) (b : List Byte) (s : State) : (traceMsg t b s).tenon = s.tenon := rfl
@[simp] theorem traceMsg_insts (t : Nat) (b : List Byte) (s : State) : (traceMsg t b s).insts = s.insts := rfl
@[simp] theorem traceMsg_results (t : Nat) (b : List Byte) (s : State) : (traceMsg t b s).results = s.results := rfl
@[simp] theorem traceMsg_logic (t : Nat) (b : List Byte) (s : State) : (traceMsg t b s).logic = s.logic := rfl
@[simp] theorem traceMsg_wires (t : Nat) (b : List Byte) (s : State) : (traceMsg t b s).wires = s.wires := rfl
@[simp] theorem traceMsg_bi (t : Nat) (b : List Byte) (s : State) : (traceMsg t b s).bi = s.bi := rfl
@[simp] theorem traceMsg_thr (t : Nat) (b : List Byte) (s : State) : (traceMsg t b s).thr = s.thr := rfl
@[simp] theorem traceMsg_lanes (t : Nat) (b : List Byte) (s : State) : (traceMsg t b s).lanes = s.lanes := rfl
@[simp] theorem traceMsg_pair (t : Nat) (b : List Byte) (s : State) : (traceMsg t b s).pair = s.pair := rfl
@[simp] theorem traceMsg_tally (t : Nat) (b : List Byte) (s : State) : (traceMsg t b s).tally = s.tally := rfl
@[simp] theorem traceMsg_granary (t : Nat) (b : List Byte) (s : State) : (traceMsg t b s).granary = s.granary := rfl
@[simp] theorem traceMsg_bist (t : Nat) (b : List Byte) (s : State) : (traceMsg t b s).bist = s.bist := rfl
@[simp] theorem traceMsg_dumpDdr (t : Nat) (b : List Byte) (s : State) : (traceMsg t b s).dumpDdr = s.dumpDdr := rfl
@[simp] theorem traceMsg_dumpEmmc (t : Nat) (b : List Byte) (s : State) : (traceMsg t b s).dumpEmmc = s.dumpEmmc := rfl
@[simp] theorem traceMsg_dumpBusy (t : Nat) (b : List Byte) (s : State) : (traceMsg t b s).dumpBusy = s.dumpBusy := rfl
@[simp] theorem traceMsg_zst (t : Nat) (b : List Byte) (s : State) : (traceMsg t b s).zst = s.zst := rfl
@[simp] theorem traceMsg_zstHidden (t : Nat) (b : List Byte) (s : State) : (traceMsg t b s).zstHidden = s.zstHidden := rfl
@[simp] theorem traceMsg_dumpNo (t : Nat) (b : List Byte) (s : State) : (traceMsg t b s).dumpNo = s.dumpNo := rfl
@[simp] theorem traceMsg_trust (t : Nat) (b : List Byte) (s : State) : (traceMsg t b s).trust = s.trust := rfl
@[simp] theorem traceMsg_store (t : Nat) (b : List Byte) (s : State) : (traceMsg t b s).store = s.store := rfl
@[simp] theorem traceMsg_power (t : Nat) (b : List Byte) (s : State) : (traceMsg t b s).power = s.power := rfl
@[simp] theorem traceMsg_sent (t : Nat) (b : List Byte) (s : State) : (traceMsg t b s).sent = s.sent := rfl
@[simp] theorem traceMsg_hostMem (t : Nat) (b : List Byte) (s : State) : (traceMsg t b s).hostMem = s.hostMem := rfl

@[simp] theorem setView_pending (v : View) (x : ViewState) (s : State) : (s.setView v x).pending = s.pending := by cases v <;> rfl
@[simp] theorem setView_bells (v : View) (x : ViewState) (s : State) : (s.setView v x).bells = s.bells := by cases v <;> rfl
@[simp] theorem setView_glb (v : View) (x : ViewState) (s : State) : (s.setView v x).glb = s.glb := by cases v <;> rfl
@[simp] theorem setView_stk (v : View) (x : ViewState) (s : State) : (s.setView v x).stk = s.stk := by cases v <;> rfl
@[simp] theorem setView_cnt (v : View) (x : ViewState) (s : State) : (s.setView v x).cnt = s.cnt := by cases v <;> rfl
@[simp] theorem setView_cfg (v : View) (x : ViewState) (s : State) : (s.setView v x).cfg = s.cfg := by cases v <;> rfl
@[simp] theorem setView_samp (v : View) (x : ViewState) (s : State) : (s.setView v x).samp = s.samp := by cases v <;> rfl
@[simp] theorem setView_ing (v : View) (x : ViewState) (s : State) : (s.setView v x).ing = s.ing := by cases v <;> rfl
@[simp] theorem setView_tb (v : View) (x : ViewState) (s : State) : (s.setView v x).tb = s.tb := by cases v <;> rfl
@[simp] theorem setView_ldf (v : View) (x : ViewState) (s : State) : (s.setView v x).ldf = s.ldf := by cases v <;> rfl
@[simp] theorem setView_dovetail (v : View) (x : ViewState) (s : State) : (s.setView v x).dovetail = s.dovetail := by cases v <;> rfl
@[simp] theorem setView_zones (v : View) (x : ViewState) (s : State) : (s.setView v x).zones = s.zones := by cases v <;> rfl
@[simp] theorem setView_tenon (v : View) (x : ViewState) (s : State) : (s.setView v x).tenon = s.tenon := by cases v <;> rfl
@[simp] theorem setView_insts (v : View) (x : ViewState) (s : State) : (s.setView v x).insts = s.insts := by cases v <;> rfl
@[simp] theorem setView_results (v : View) (x : ViewState) (s : State) : (s.setView v x).results = s.results := by cases v <;> rfl
@[simp] theorem setView_logic (v : View) (x : ViewState) (s : State) : (s.setView v x).logic = s.logic := by cases v <;> rfl
@[simp] theorem setView_wires (v : View) (x : ViewState) (s : State) : (s.setView v x).wires = s.wires := by cases v <;> rfl
@[simp] theorem setView_bi (v : View) (x : ViewState) (s : State) : (s.setView v x).bi = s.bi := by cases v <;> rfl
@[simp] theorem setView_thr (v : View) (x : ViewState) (s : State) : (s.setView v x).thr = s.thr := by cases v <;> rfl
@[simp] theorem setView_lanes (v : View) (x : ViewState) (s : State) : (s.setView v x).lanes = s.lanes := by cases v <;> rfl
@[simp] theorem setView_pair (v : View) (x : ViewState) (s : State) : (s.setView v x).pair = s.pair := by cases v <;> rfl
@[simp] theorem setView_tally (v : View) (x : ViewState) (s : State) : (s.setView v x).tally = s.tally := by cases v <;> rfl
@[simp] theorem setView_granary (v : View) (x : ViewState) (s : State) : (s.setView v x).granary = s.granary := by cases v <;> rfl
@[simp] theorem setView_bist (v : View) (x : ViewState) (s : State) : (s.setView v x).bist = s.bist := by cases v <;> rfl
@[simp] theorem setView_dumpDdr (v : View) (x : ViewState) (s : State) : (s.setView v x).dumpDdr = s.dumpDdr := by cases v <;> rfl
@[simp] theorem setView_dumpEmmc (v : View) (x : ViewState) (s : State) : (s.setView v x).dumpEmmc = s.dumpEmmc := by cases v <;> rfl
@[simp] theorem setView_dumpBusy (v : View) (x : ViewState) (s : State) : (s.setView v x).dumpBusy = s.dumpBusy := by cases v <;> rfl
@[simp] theorem setView_zst (v : View) (x : ViewState) (s : State) : (s.setView v x).zst = s.zst := by cases v <;> rfl
@[simp] theorem setView_zstHidden (v : View) (x : ViewState) (s : State) : (s.setView v x).zstHidden = s.zstHidden := by cases v <;> rfl
@[simp] theorem setView_dumpNo (v : View) (x : ViewState) (s : State) : (s.setView v x).dumpNo = s.dumpNo := by cases v <;> rfl
@[simp] theorem setView_trust (v : View) (x : ViewState) (s : State) : (s.setView v x).trust = s.trust := by cases v <;> rfl
@[simp] theorem setView_store (v : View) (x : ViewState) (s : State) : (s.setView v x).store = s.store := by cases v <;> rfl
@[simp] theorem setView_power (v : View) (x : ViewState) (s : State) : (s.setView v x).power = s.power := by cases v <;> rfl
@[simp] theorem setView_trace (v : View) (x : ViewState) (s : State) : (s.setView v x).trace = s.trace := by cases v <;> rfl
@[simp] theorem setView_sent (v : View) (x : ViewState) (s : State) : (s.setView v x).sent = s.sent := by cases v <;> rfl
@[simp] theorem setView_hostMem (v : View) (x : ViewState) (s : State) : (s.setView v x).hostMem = s.hostMem := by cases v <;> rfl

@[simp] theorem view_setView (v w : View) (x : ViewState) (s : State) :
    (s.setView v x).view w = if w = v then x else s.view w := by cases v <;> cases w <;> rfl


@[simp] theorem setZone_zones (z : Nat) (x : Zone) (s : State) : (setZone z x s).zones = FMap.set s.zones z x := rfl
@[simp] theorem setLdf_ldf (d : Nat) (x : Ldf) (s : State) : (setLdf d x s).ldf = FMap.set s.ldf d x := rfl
@[simp] theorem setWire_wires (n : Nat) (x : Wire) (s : State) : (setWire n x s).wires = FMap.set s.wires n x := rfl
@[simp] theorem count_cnt (i n : Nat) (s : State) : (count i n s).cnt = FMap.set s.cnt i (FMap.get s.cnt 0 i + n) := rfl

@[simp] theorem setGroup_pending (g : Nat) (x : CalGroup) (s : State) : (setGroup g x s).pending = s.pending := rfl
@[simp] theorem setGroup_pf0 (g : Nat) (x : CalGroup) (s : State) : (setGroup g x s).pf0 = s.pf0 := rfl
@[simp] theorem setGroup_pf1 (g : Nat) (x : CalGroup) (s : State) : (setGroup g x s).pf1 = s.pf1 := rfl
@[simp] theorem setGroup_bells (g : Nat) (x : CalGroup) (s : State) : (setGroup g x s).bells = s.bells := rfl
@[simp] theorem setGroup_glb (g : Nat) (x : CalGroup) (s : State) : (setGroup g x s).glb = s.glb := rfl
@[simp] theorem setGroup_stk (g : Nat) (x : CalGroup) (s : State) : (setGroup g x s).stk = s.stk := rfl
@[simp] theorem setGroup_cnt (g : Nat) (x : CalGroup) (s : State) : (setGroup g x s).cnt = s.cnt := rfl
@[simp] theorem setGroup_cfg (g : Nat) (x : CalGroup) (s : State) : (setGroup g x s).cfg = s.cfg := rfl
@[simp] theorem setGroup_ing (g : Nat) (x : CalGroup) (s : State) : (setGroup g x s).ing = s.ing := rfl
@[simp] theorem setGroup_tb (g : Nat) (x : CalGroup) (s : State) : (setGroup g x s).tb = s.tb := rfl
@[simp] theorem setGroup_ldf (g : Nat) (x : CalGroup) (s : State) : (setGroup g x s).ldf = s.ldf := rfl
@[simp] theorem setGroup_dovetail (g : Nat) (x : CalGroup) (s : State) : (setGroup g x s).dovetail = s.dovetail := rfl
@[simp] theorem setGroup_zones (g : Nat) (x : CalGroup) (s : State) : (setGroup g x s).zones = s.zones := rfl
@[simp] theorem setGroup_tenon (g : Nat) (x : CalGroup) (s : State) : (setGroup g x s).tenon = s.tenon := rfl
@[simp] theorem setGroup_insts (g : Nat) (x : CalGroup) (s : State) : (setGroup g x s).insts = s.insts := rfl
@[simp] theorem setGroup_results (g : Nat) (x : CalGroup) (s : State) : (setGroup g x s).results = s.results := rfl
@[simp] theorem setGroup_logic (g : Nat) (x : CalGroup) (s : State) : (setGroup g x s).logic = s.logic := rfl
@[simp] theorem setGroup_wires (g : Nat) (x : CalGroup) (s : State) : (setGroup g x s).wires = s.wires := rfl
@[simp] theorem setGroup_bi (g : Nat) (x : CalGroup) (s : State) : (setGroup g x s).bi = s.bi := rfl
@[simp] theorem setGroup_thr (g : Nat) (x : CalGroup) (s : State) : (setGroup g x s).thr = s.thr := rfl
@[simp] theorem setGroup_lanes (g : Nat) (x : CalGroup) (s : State) : (setGroup g x s).lanes = s.lanes := rfl
@[simp] theorem setGroup_pair (g : Nat) (x : CalGroup) (s : State) : (setGroup g x s).pair = s.pair := rfl
@[simp] theorem setGroup_tally (g : Nat) (x : CalGroup) (s : State) : (setGroup g x s).tally = s.tally := rfl
@[simp] theorem setGroup_granary (g : Nat) (x : CalGroup) (s : State) : (setGroup g x s).granary = s.granary := rfl
@[simp] theorem setGroup_bist (g : Nat) (x : CalGroup) (s : State) : (setGroup g x s).bist = s.bist := rfl
@[simp] theorem setGroup_dumpDdr (g : Nat) (x : CalGroup) (s : State) : (setGroup g x s).dumpDdr = s.dumpDdr := rfl
@[simp] theorem setGroup_dumpEmmc (g : Nat) (x : CalGroup) (s : State) : (setGroup g x s).dumpEmmc = s.dumpEmmc := rfl
@[simp] theorem setGroup_dumpBusy (g : Nat) (x : CalGroup) (s : State) : (setGroup g x s).dumpBusy = s.dumpBusy := rfl
@[simp] theorem setGroup_zst (g : Nat) (x : CalGroup) (s : State) : (setGroup g x s).zst = s.zst := rfl
@[simp] theorem setGroup_zstHidden (g : Nat) (x : CalGroup) (s : State) : (setGroup g x s).zstHidden = s.zstHidden := rfl
@[simp] theorem setGroup_dumpNo (g : Nat) (x : CalGroup) (s : State) : (setGroup g x s).dumpNo = s.dumpNo := rfl
@[simp] theorem setGroup_trust (g : Nat) (x : CalGroup) (s : State) : (setGroup g x s).trust = s.trust := rfl
@[simp] theorem setGroup_store (g : Nat) (x : CalGroup) (s : State) : (setGroup g x s).store = s.store := rfl
@[simp] theorem setGroup_power (g : Nat) (x : CalGroup) (s : State) : (setGroup g x s).power = s.power := rfl
@[simp] theorem setGroup_trace (g : Nat) (x : CalGroup) (s : State) : (setGroup g x s).trace = s.trace := rfl
@[simp] theorem setGroup_sent (g : Nat) (x : CalGroup) (s : State) : (setGroup g x s).sent = s.sent := rfl
@[simp] theorem setGroup_hostMem (g : Nat) (x : CalGroup) (s : State) : (setGroup g x s).hostMem = s.hostMem := rfl

@[simp] theorem setStream_pending (new : Bool) (i : Nat) (x : Stream) (s : State) : (setStream new i x s).pending = s.pending := by cases new <;> rfl
@[simp] theorem setStream_pf0 (new : Bool) (i : Nat) (x : Stream) (s : State) : (setStream new i x s).pf0 = s.pf0 := by cases new <;> rfl
@[simp] theorem setStream_pf1 (new : Bool) (i : Nat) (x : Stream) (s : State) : (setStream new i x s).pf1 = s.pf1 := by cases new <;> rfl
@[simp] theorem setStream_bells (new : Bool) (i : Nat) (x : Stream) (s : State) : (setStream new i x s).bells = s.bells := by cases new <;> rfl
@[simp] theorem setStream_glb (new : Bool) (i : Nat) (x : Stream) (s : State) : (setStream new i x s).glb = s.glb := by cases new <;> rfl
@[simp] theorem setStream_stk (new : Bool) (i : Nat) (x : Stream) (s : State) : (setStream new i x s).stk = s.stk := by cases new <;> rfl
@[simp] theorem setStream_cnt (new : Bool) (i : Nat) (x : Stream) (s : State) : (setStream new i x s).cnt = s.cnt := by cases new <;> rfl
@[simp] theorem setStream_cfg (new : Bool) (i : Nat) (x : Stream) (s : State) : (setStream new i x s).cfg = s.cfg := by cases new <;> rfl
@[simp] theorem setStream_tb (new : Bool) (i : Nat) (x : Stream) (s : State) : (setStream new i x s).tb = s.tb := by cases new <;> rfl
@[simp] theorem setStream_ldf (new : Bool) (i : Nat) (x : Stream) (s : State) : (setStream new i x s).ldf = s.ldf := by cases new <;> rfl
@[simp] theorem setStream_dovetail (new : Bool) (i : Nat) (x : Stream) (s : State) : (setStream new i x s).dovetail = s.dovetail := by cases new <;> rfl
@[simp] theorem setStream_zones (new : Bool) (i : Nat) (x : Stream) (s : State) : (setStream new i x s).zones = s.zones := by cases new <;> rfl
@[simp] theorem setStream_tenon (new : Bool) (i : Nat) (x : Stream) (s : State) : (setStream new i x s).tenon = s.tenon := by cases new <;> rfl
@[simp] theorem setStream_insts (new : Bool) (i : Nat) (x : Stream) (s : State) : (setStream new i x s).insts = s.insts := by cases new <;> rfl
@[simp] theorem setStream_results (new : Bool) (i : Nat) (x : Stream) (s : State) : (setStream new i x s).results = s.results := by cases new <;> rfl
@[simp] theorem setStream_logic (new : Bool) (i : Nat) (x : Stream) (s : State) : (setStream new i x s).logic = s.logic := by cases new <;> rfl
@[simp] theorem setStream_wires (new : Bool) (i : Nat) (x : Stream) (s : State) : (setStream new i x s).wires = s.wires := by cases new <;> rfl
@[simp] theorem setStream_bi (new : Bool) (i : Nat) (x : Stream) (s : State) : (setStream new i x s).bi = s.bi := by cases new <;> rfl
@[simp] theorem setStream_thr (new : Bool) (i : Nat) (x : Stream) (s : State) : (setStream new i x s).thr = s.thr := by cases new <;> rfl
@[simp] theorem setStream_lanes (new : Bool) (i : Nat) (x : Stream) (s : State) : (setStream new i x s).lanes = s.lanes := by cases new <;> rfl
@[simp] theorem setStream_pair (new : Bool) (i : Nat) (x : Stream) (s : State) : (setStream new i x s).pair = s.pair := by cases new <;> rfl
@[simp] theorem setStream_tally (new : Bool) (i : Nat) (x : Stream) (s : State) : (setStream new i x s).tally = s.tally := by cases new <;> rfl
@[simp] theorem setStream_granary (new : Bool) (i : Nat) (x : Stream) (s : State) : (setStream new i x s).granary = s.granary := by cases new <;> rfl
@[simp] theorem setStream_bist (new : Bool) (i : Nat) (x : Stream) (s : State) : (setStream new i x s).bist = s.bist := by cases new <;> rfl
@[simp] theorem setStream_dumpDdr (new : Bool) (i : Nat) (x : Stream) (s : State) : (setStream new i x s).dumpDdr = s.dumpDdr := by cases new <;> rfl
@[simp] theorem setStream_dumpEmmc (new : Bool) (i : Nat) (x : Stream) (s : State) : (setStream new i x s).dumpEmmc = s.dumpEmmc := by cases new <;> rfl
@[simp] theorem setStream_dumpBusy (new : Bool) (i : Nat) (x : Stream) (s : State) : (setStream new i x s).dumpBusy = s.dumpBusy := by cases new <;> rfl
@[simp] theorem setStream_zst (new : Bool) (i : Nat) (x : Stream) (s : State) : (setStream new i x s).zst = s.zst := by cases new <;> rfl
@[simp] theorem setStream_zstHidden (new : Bool) (i : Nat) (x : Stream) (s : State) : (setStream new i x s).zstHidden = s.zstHidden := by cases new <;> rfl
@[simp] theorem setStream_dumpNo (new : Bool) (i : Nat) (x : Stream) (s : State) : (setStream new i x s).dumpNo = s.dumpNo := by cases new <;> rfl
@[simp] theorem setStream_trust (new : Bool) (i : Nat) (x : Stream) (s : State) : (setStream new i x s).trust = s.trust := by cases new <;> rfl
@[simp] theorem setStream_store (new : Bool) (i : Nat) (x : Stream) (s : State) : (setStream new i x s).store = s.store := by cases new <;> rfl
@[simp] theorem setStream_power (new : Bool) (i : Nat) (x : Stream) (s : State) : (setStream new i x s).power = s.power := by cases new <;> rfl
@[simp] theorem setStream_trace (new : Bool) (i : Nat) (x : Stream) (s : State) : (setStream new i x s).trace = s.trace := by cases new <;> rfl
@[simp] theorem setStream_sent (new : Bool) (i : Nat) (x : Stream) (s : State) : (setStream new i x s).sent = s.sent := by cases new <;> rfl
@[simp] theorem setStream_hostMem (new : Bool) (i : Nat) (x : Stream) (s : State) : (setStream new i x s).hostMem = s.hostMem := by cases new <;> rfl
@[simp] theorem setStream_samp (new : Bool) (i : Nat) (x : Stream) (s : State) : (setStream new i x s).samp = s.samp := by cases new <;> rfl

@[simp] theorem sendNow_pending (n : Nat) (e : Launch) (t : Time) (s : State) : (sendNow n e t s).pending = s.pending := rfl
@[simp] theorem sendNow_pf0 (n : Nat) (e : Launch) (t : Time) (s : State) : (sendNow n e t s).pf0 = s.pf0 := rfl
@[simp] theorem sendNow_pf1 (n : Nat) (e : Launch) (t : Time) (s : State) : (sendNow n e t s).pf1 = s.pf1 := rfl
@[simp] theorem sendNow_bells (n : Nat) (e : Launch) (t : Time) (s : State) : (sendNow n e t s).bells = s.bells := rfl
@[simp] theorem sendNow_glb (n : Nat) (e : Launch) (t : Time) (s : State) : (sendNow n e t s).glb = s.glb := rfl
@[simp] theorem sendNow_stk (n : Nat) (e : Launch) (t : Time) (s : State) : (sendNow n e t s).stk = s.stk := rfl
@[simp] theorem sendNow_cfg (n : Nat) (e : Launch) (t : Time) (s : State) : (sendNow n e t s).cfg = s.cfg := rfl
@[simp] theorem sendNow_ing (n : Nat) (e : Launch) (t : Time) (s : State) : (sendNow n e t s).ing = s.ing := rfl
@[simp] theorem sendNow_tb (n : Nat) (e : Launch) (t : Time) (s : State) : (sendNow n e t s).tb = s.tb := rfl
@[simp] theorem sendNow_ldf (n : Nat) (e : Launch) (t : Time) (s : State) : (sendNow n e t s).ldf = s.ldf := rfl
@[simp] theorem sendNow_dovetail (n : Nat) (e : Launch) (t : Time) (s : State) : (sendNow n e t s).dovetail = s.dovetail := rfl
@[simp] theorem sendNow_zones (n : Nat) (e : Launch) (t : Time) (s : State) : (sendNow n e t s).zones = s.zones := rfl
@[simp] theorem sendNow_tenon (n : Nat) (e : Launch) (t : Time) (s : State) : (sendNow n e t s).tenon = s.tenon := rfl
@[simp] theorem sendNow_insts (n : Nat) (e : Launch) (t : Time) (s : State) : (sendNow n e t s).insts = s.insts := rfl
@[simp] theorem sendNow_results (n : Nat) (e : Launch) (t : Time) (s : State) : (sendNow n e t s).results = s.results := rfl
@[simp] theorem sendNow_logic (n : Nat) (e : Launch) (t : Time) (s : State) : (sendNow n e t s).logic = s.logic := rfl
@[simp] theorem sendNow_wires (n : Nat) (e : Launch) (t : Time) (s : State) : (sendNow n e t s).wires = s.wires := rfl
@[simp] theorem sendNow_bi (n : Nat) (e : Launch) (t : Time) (s : State) : (sendNow n e t s).bi = s.bi := rfl
@[simp] theorem sendNow_thr (n : Nat) (e : Launch) (t : Time) (s : State) : (sendNow n e t s).thr = s.thr := rfl
@[simp] theorem sendNow_lanes (n : Nat) (e : Launch) (t : Time) (s : State) : (sendNow n e t s).lanes = s.lanes := rfl
@[simp] theorem sendNow_pair (n : Nat) (e : Launch) (t : Time) (s : State) : (sendNow n e t s).pair = s.pair := rfl
@[simp] theorem sendNow_tally (n : Nat) (e : Launch) (t : Time) (s : State) : (sendNow n e t s).tally = s.tally := rfl
@[simp] theorem sendNow_granary (n : Nat) (e : Launch) (t : Time) (s : State) : (sendNow n e t s).granary = s.granary := rfl
@[simp] theorem sendNow_bist (n : Nat) (e : Launch) (t : Time) (s : State) : (sendNow n e t s).bist = s.bist := rfl
@[simp] theorem sendNow_dumpDdr (n : Nat) (e : Launch) (t : Time) (s : State) : (sendNow n e t s).dumpDdr = s.dumpDdr := rfl
@[simp] theorem sendNow_dumpEmmc (n : Nat) (e : Launch) (t : Time) (s : State) : (sendNow n e t s).dumpEmmc = s.dumpEmmc := rfl
@[simp] theorem sendNow_dumpBusy (n : Nat) (e : Launch) (t : Time) (s : State) : (sendNow n e t s).dumpBusy = s.dumpBusy := rfl
@[simp] theorem sendNow_zst (n : Nat) (e : Launch) (t : Time) (s : State) : (sendNow n e t s).zst = s.zst := rfl
@[simp] theorem sendNow_zstHidden (n : Nat) (e : Launch) (t : Time) (s : State) : (sendNow n e t s).zstHidden = s.zstHidden := rfl
@[simp] theorem sendNow_dumpNo (n : Nat) (e : Launch) (t : Time) (s : State) : (sendNow n e t s).dumpNo = s.dumpNo := rfl
@[simp] theorem sendNow_trust (n : Nat) (e : Launch) (t : Time) (s : State) : (sendNow n e t s).trust = s.trust := rfl
@[simp] theorem sendNow_store (n : Nat) (e : Launch) (t : Time) (s : State) : (sendNow n e t s).store = s.store := rfl
@[simp] theorem sendNow_power (n : Nat) (e : Launch) (t : Time) (s : State) : (sendNow n e t s).power = s.power := rfl
@[simp] theorem sendNow_trace (n : Nat) (e : Launch) (t : Time) (s : State) : (sendNow n e t s).trace = s.trace := rfl
@[simp] theorem sendNow_hostMem (n : Nat) (e : Launch) (t : Time) (s : State) : (sendNow n e t s).hostMem = s.hostMem := rfl
@[simp] theorem sendNow_samp (n : Nat) (e : Launch) (t : Time) (s : State) : (sendNow n e t s).samp = s.samp := rfl

end Sys2Proof.Machine
end

