-- ==== Sys2Proof/Laws/Ops.lean ====
section
/-!
SUPPORT. Each shared operation of Ops.lean, said once: what it changes and what it leaves alone.
-/
namespace Sys2Proof.Machine

/-- A counter grows by n and every other counter keeps its value (R327). -/
theorem count_spec (i n : Nat) (s : State) :
    (∀ j, FMap.get (count i n s).cnt 0 j = if j = i then FMap.get s.cnt 0 i + n else FMap.get s.cnt 0 j) ∧
      { count i n s with cnt := s.cnt } = s := by
  refine ⟨fun j => ?_, rfl⟩
  simp [eq_comm]

/-- Setting a sticky bit touches the sticky record alone (R281). -/
theorem sticky_spec (r b : Nat) (s : State) : { sticky r b s with stk := s.stk } = s := by
  unfold sticky
  split
  · rfl
  · split
    · split <;> rfl
    · rfl

/-- While boundaries run, the bit waits for the next one and no readable register changes yet (R281). -/
theorem sticky_running (r b : Nat) (s : State) (h : s.glb.running = true) :
    (sticky r b s).stk = { s.stk with sets := modAt (fun w => setBit w b) r s.stk.sets } := by
  simp [sticky, h]

/-- An event either waits at the end of the queue or is counted as dropped; settings, zones, wires and host memory stay
(R273, R275). -/
theorem tally_spec (event : Half) (detail : List Quad) (s : State) :
    (tallyWaiting s.tally < 1023 →
      tally event detail s =
        { s with
          tally :=
            { s.tally with
              queue := s.tally.queue ++
                [⟨event, detail.take 6, s.glb.opsec, s.glb.pwrcyc, snapsetFor s event detail, [], false, 0,
                  eventOffsets s (snapsetFor s event detail)⟩] } }) ∧
      (1023 ≤ tallyWaiting s.tally → tally event detail s = dropEvent s) := by
  constructor
  · intro h
    have h' : ¬ 1023 ≤ tallyWaiting s.tally := by omega
    simp [tally, h']
  · intro h
    simp [tally, h]

/-- An asynchronous event touches the two views and the events kept for the mailbox's return, and nothing else (R353). -/
theorem postEvent_spec (code : Half) (arg : Quad) (s : State) :
    { postEvent code arg s with pf0 := s.pf0, pf1 := s.pf1, power := s.power } = s ∧
      (s.power.online = true → (postEvent code arg s).power = s.power) ∧
      (s.power.online = false → (postEvent code arg s).pf0 = s.pf0 ∧ (postEvent code arg s).pf1 = s.pf1) := by
  unfold postEvent
  split
  · next h => exact ⟨rfl, fun _ => rfl, fun h' => by simp [h] at h'⟩
  · next h => exact ⟨rfl, fun h' => absurd h' h, fun _ => ⟨rfl, rfl⟩⟩

/-- Raising a vector never touches the ring (R319). -/
theorem raiseIn_spec (vec : Nat) (x : ViewState) :
    { raiseIn vec x with msixPending := x.msixPending, messages := x.messages } = x := by
  unfold raiseIn
  split
  · rfl
  · split <;> rfl

/-- An entry that finds room stands at HEAD mod 256, and HEAD grows by one (R340). -/
theorem ringPut_spec (e : RingEntry) (x : ViewState) :
    (ringPut e x).cplHead = x.cplHead + 1 ∧ FMap.get? (ringPut e x).ring (x.cplHead.toNat % 256) = some e ∧
      (ringPut e x).held = x.held := by
  simp [ringPut]

/-- An entry that finds no room waits behind the others (R323). -/
theorem postIn_held (up : Bool) (e : RingEntry) (x : ViewState)
    (h : x.held ≠ [] ∨ 256 ≤ ringUsed x ∨ x.d3hot ∨ up = false) : postIn up e x = { x with held := x.held ++ [e] } := by
  simp only [postIn, if_pos h]

/-- Time moves forward only (R36 alone steps it back). -/
theorem advance_spec (t : Time) (s : State) :
    (advance t s).tb.now = max s.tb.now t ∧ { advance t s with tb := s.tb } = s := by
  unfold advance
  split
  · next h => exact ⟨(max_eq_right h).symm, rfl⟩
  · next h => exact ⟨(max_eq_left (le_of_not_ge h)).symm, rfl⟩

/-- The frame whose turn has come, and no other, is served (R63): it leaves its buffer, and the timebase reads its arrival
unless it came before the last timebase step. -/
theorem serve_spec (n : Nat) (p : Frame → Bool) (s : State) :
    (∀ f, nextServed s = some (n, f) → p f = true →
      serve n p s = some ((frameShift s f).isSome,
        if (frameShift s f).isSome then takeFrame n f s else advance f.tArr (takeFrame n f s))) ∧
      ((∀ f, nextServed s = some (n, f) → p f = false) → serve n p s = none) := by
  refine ⟨fun f h hp => by simp [serve, h, hp], fun h => ?_⟩
  unfold serve
  split
  · next m f hn =>
    by_cases hm : m = n
    · subst hm; simp [h f hn]
    · simp [hm]
  · rfl

/-- Serving a frame touches the buffers alone. -/
theorem takeFrame_spec (n : Nat) (f : Frame) (s : State) : { takeFrame n f s with ing := s.ing } = s := rfl

/-- Sending untimed frames touches the buffers, the counters and the record of what was sent alone (R107). -/
theorem sendUntimed_spec (n fuel : Nat) (t : Time) (l : List Launch) (s : State) :
    { sendUntimed n fuel t l s with ing := s.ing, cnt := s.cnt, sent := s.sent } = s := by
  induction fuel generalizing t l s with
  | zero => rfl
  | succ f ih =>
    cases l with
    | nil => rfl
    | cons e rest =>
      unfold sendUntimed
      split
      · exact congrArg (fun x : State => { x with ing := s.ing, cnt := s.cnt, sent := s.sent })
          (ih _ _ (sendNow n e t s))
      · rfl

/-- A free value advances the free counter alone (log 9). -/
theorem takeFree_spec (s : State) :
    (takeFree s).1 = Config.freeWord s.glb.free ∧ (takeFree s).2.glb.free = s.glb.free + 1 ∧
      { (takeFree s).2 with glb := s.glb } = s := ⟨rfl, rfl, rfl⟩

/-- The last entry and the last seal under PFAIL_N are notes in the supply state alone (R266, R278). -/
theorem finishEntry_spec (s : State) :
    { finishEntry s with power := s.power } = s ∧ (s.power.pfail = false → finishEntry s = s) ∧
      (s.power.pfail = true → (finishEntry s).power = { s.power with lastEntry := false }) := by
  unfold finishEntry
  split <;> simp_all
theorem finishSeal_spec (s : State) :
    { finishSeal s with power := s.power } = s ∧ (s.power.pfail = false → finishSeal s = s) ∧
      (s.power.pfail = true → (finishSeal s).power = { s.power with lastSeal := false }) := by
  unfold finishSeal
  split <;> simp_all

/-- Noting the facts of a sheaf touches Thresher alone (R251). -/
theorem noteFacts_spec (k : Nat) (s : State) : { noteFacts k s with thr := s.thr } = s := by
  simp only [noteFacts]
  by_cases h : s.thr.facts.head?.map (fun x => x.2) = some (s.tb.state.code, packageDigest s, programDigest s)
  · rw [if_pos h]
  · rw [if_neg h]

/-- An aborted run looks for its rerun again: the self-test's queue alone changes (R312). -/
theorem resumeRun_spec (r : BistRun) (m : Nat) (s : State) : { resumeRun r m s with bist := s.bist } = s := by
  unfold resumeRun setHead
  repeat' (first | rfl | split)

end Sys2Proof.Machine
end

