-- ==== Sys2Proof/WellFormed.lean ====
section
/-!
DEFINITION. Which commands the outside can form: every operand within the numbers the spec gives (slots R330, ports R59,
wires R207, zones R113, element slots R123, lanes R284, slices R38, inputs R221, pairs R223, trigger programs R231,
descriptors R154, stream and GOOSE entries R65, R349, MSI-X vectors R319). exec is total and does not read this.
-/
namespace Sys2Proof

/-- Slots of a view (R330). -/
def View.slots : View → Nat
  | .pf0 => 64
  | .pf1 => 16

/-- A submission names a slot of its view and at most 224 payload bytes (R330). -/
def Submit.wf (c : Submit) : Bool := decide (c.slot < c.view.slots) && decide (c.payload.length ≤ 224)

/-- A frame comes in at one of the 32 ports, with at most two tags (R59, R61). -/
def Frame.wf (f : Frame) : Bool := decide (f.port < 32) && decide (f.tags ≤ 2) && decide (f.vlan ≤ 4095)

/-- A zone and an instance slot (R113, R123). -/
def slotWf (zone slot : Nat) : Bool := decide (zone < 160) && decide (slot < 32)

/-- Each command's operands lie within the numbers the spec gives. -/
def Instr.wf : Instr → Bool
  | .getInfo c => c.wf
  | .getCerts c => c.wf
  | .stageSettings c => c.wf
  | .commitAtSheaf c => c.wf
  | .selectGroup c => c.wf
  | .setLpipe c => c.wf
  | .loadProgram c => c.wf
  | .paramWrite c => c.wf
  | .force c => c.wf
  | .unforce c => c.wf
  | .restartLogic c => c.wf
  | .listRecords c => c.wf
  | .fetchRecord c => c.wf
  | .releaseRecord c => c.wf
  | .manualTrigger c => c.wf
  | .fetchTally c => c.wf
  | .configSnapsets c => c.wf
  | .timeConfig c => c.wf
  | .timeStatus c => c.wf
  | .pairConfig c => c.wf
  | .swapRoles c => c.wf
  | .runBist c => c.wf
  | .spotConvert c => c.wf
  | .calStatus c => c.wf
  | .installFw c => c.wf
  | .activateFw c => c.wf
  | .attest c => c.wf
  | .setOwnerKey c => c.wf
  | .requireSignedSettings c => c.wf
  | .fetchDump c => c.wf
  | .commandAcceptance view slot _ _ => decide (slot < view.slots)
  | .pairCommandMirror c _ _ _ done => c.wf && done.all (fun d => decide (d.result.length ≤ 224))
  | .pairAckTimeout slot => decide (slot < 64)
  | .rlLowRead _ offset => decide (offset < 0x8001008) && offset % 4 == 0
  | .tbNowNsRead _ _ => true
  | .snapshotRequest _ _ => true
  | .snapshotCopyComplete _ => true
  | .stickyW1cWrite _ reg _ => decide (reg < 4)
  | .mbxCplTailWrite _ _ => true
  | .msixUnmask _ vector => decide (vector < 32)
  | .registerWrite _ offset _ _ => decide (offset < 0x102000)
  | .functionLevelReset _ => true
  | .perstNAssert => true
  | .pcieLinkDown => true
  | .d3hotEntry _ => true
  | .d0Return _ => true
  | .busMasterEnableClear _ => true
  | .closeDeadline convs => convs.all (fun c =>
      decide (c.slice < 68) && decide (-131072 ≤ c.code) && decide (c.code ≤ 131071))
  | .laneEvaluationDone lane _ => decide (lane < 13)
  | .commitInstant _ _ _ => true
  | .flipComplete _ => true
  | .commitFailure _ => true
  | .tripWireStartStop wire _ => decide (wire < 192)
  | .readbackWindowEnd wire _ => decide (wire < 192)
  | .laneKnownAnswerTest lane _ _ _ => decide (lane < 13)
  | .sliceStall slice _ => decide (slice < 68)
  | .gleanerCalibrationResult group _ => decide (group < 4)
  | .overlapCompare group _ => decide (group < 4)
  | .vanaDipStart _ => true
  | .vanaDipEnd _ => true
  | .biDebounceChange n since m => decide (n < 128) && decide (since ≤ m)
  | .biPairDiscrepancy p _ => decide (p < 64)
  | .biPairRecovery p _ => decide (p < 64)
  | .definiteTimeOperate zone slot => slotWf zone slot
  | .resetDelayExpiry zone slot => slotWf zone slot
  | .inverseTimeOperate zone slot => slotWf zone slot
  | .autoRecloseTimerExpiry zone slot => slotWf zone slot
  | .logicTimerExpiry timer => decide (timer < 16384)
  | .thresherTimerExpiry program timer => decide (program < 8) && decide (timer < 2)
  | .maskViolation program mask _ => decide (program < 8) && decide (mask < 8)
  | .tenonSealInExpiry zone => decide (zone < 160)
  | .backstopDelayExpiry zone => decide (zone < 160)
  | .portFrameRx f => f.wf
  | .svFrame f => f.wf
  | .svStreamLost stream => decide (stream < 512)
  | .gooseFrame f => f.wf
  | .gooseTalExpiry entry => decide (entry < 1024)
  | .gooseRetransmit block => decide (block < 256)
  | .prpSupervisionTx port => decide (port < 32)
  | .prpNodeExpiry port _ _ => decide (port < 32)
  | .prpLanDown port _ _ => decide (port < 32)
  | .portLinkChange port _ => decide (port < 32)
  | .timedLaunch port _ _ => decide (port < 32)
  | .syncRx m => decide (m.port < 32)
  | .followUpRx m => decide (m.port < 32)
  | .announceRx a => decide (a.port < 32)
  | .pdelayReqRx m => decide (m.port < 32)
  | .pdelayRespRx r => decide (r.port < 32)
  | .pdelayReqTx port _ => decide (port < 32)
  | .announceReceiptTimeout p => decide (p.port < 32)
  | .syncLoss _ => true
  | .holdoverExpiry _ => true
  | .ppsInEdge _ => true
  | .ppsInLoss _ => true
  | .ppsOutPulse _ _ => true
  | .tcxoFail => true
  | .ldfFrameRx f => f.wf
  | .ldfChannelLoss descriptor terminal _ => decide (descriptor < 16) && decide (terminal < 3)
  | .ldfHoldoffEnd descriptor _ => decide (descriptor < 16)
  | .ldfAlignTimeout descriptor => decide (descriptor < 16)
  | .dovetailSampleRx port srcEngine srcSlot _ _ _ =>
    decide (port < 4) && decide (srcEngine < 256) && decide (srcSlot < 2048)
  | .crossTriggerRx port srcEngine program _ => decide (port < 4) && decide (srcEngine < 256) && decide (program < 8)
  | .epochCopyRx _ _ => true
  | .swapNoticeRx _ => true
  | .dovetailLinkChange port _ => decide (port < 4)
  | .releaseClaim _ => true
  | .absenceClaim _ => true
  | .ilkLineFault _ => true
  | .roleSwapDue => true
  | .roleSwapFail _ _ => true
  | .bistRunEnd _ => true
  | .bistRerun _ => true
  | .secretsRederived => true
  | .tallyEntryWritten _ _ => true
  | .retainedBatchWritten => true
  | .recordPersisted _ _ _ => true
  | .granaryStoreRetry _ _ _ => true
  | .granaryWalk => true
  | .ddrError _ _ _ => true
  | .watchdogExpiry _ => true
  | .supervisorFatalError _ _ => true
  | .mailboxReturn => true
  | .dumpComplete => true
  | .powerUp f => decide (f.slotPasses.length ≤ 2)
  | .bootComplete _ _ levels => levels.all (fun n => decide (n < 128))
  | .rstNAssert => true
  | .resetLongHold => true
  | .rstNRelease _ f => decide (f.slotPasses.length ≤ 2)
  | .pfailNAssert => true
  | .flushMarkerVerified => true
  | .pfailNRelease => true
  | .supplyOutOfRange => true
  | .vcoreLow _ => true
  | .tempHigh _ => true
  | .vidStep _ _ _ => true
  | .lockWaitExpiry _ => true
  | .activationWarmRestart f => decide (f.slotPasses.length ≤ 2)
  | .opsecTick => true
  | .tamperDetect _ => true
  | .tapInstruction _ => true
  | .supervisorMemoryError _ => true
  | .epochAcknowledgement _ => true
  | .pairCommandAck slot done => decide (slot < 64) && done.all (fun d => decide (d.result.length ≤ 224))
  | .badOpcodeDoorbell c _ => c.wf
  | .commandExecutionEnd view ended => decide (ended.slot < view.slots)
  | .busMasterEnableSet _ => true
  | .perstNRelease => true
  | .installResumeTimeout => true
  | .bistRerunTimeout => true
  | .backupLatchPowerLoss => true

end Sys2Proof
end

