-- ==== Sys2Proof/Tests/Slice0.lean ====
section
/-!
SUPPORT. Small tests. test_wf_…: an ill-formed command for each check of WellFormed, which the check refuses. witness_…: for
each statement with hypotheses, a concrete state and operands that meet them together, at the ends of their ranges where
clauses meet. test_…: one step or one function on values taken from the tables and worked examples of spec/.
-/
set_option maxRecDepth 20000

namespace Sys2Proof.Tests
open Sys2Proof Sys2Proof.Machine Sys2Proof.Safety

/-- A submission. -/
def sub (v : View) (slot : Nat) (seq : Quad) (len : Half) (payload buffer : List Byte) : Submit :=
  ⟨v, slot, 0, seq, len, payload, buffer⟩

/-- A frame of 64 bytes at a port. -/
def frameOf (port : Nat) (body : Body) : Frame := ⟨port, 64, true, false, 0, 0, 0, 0, 0, 0, none, 1000, 990, body⟩

/-- An engine that evaluates zones with sheaf 100 committed and sheaf 101 open, mailbox online. -/
def up : State := { State.reset with
  glb := { Glb.init with gstate := .protecting, running := true, sheaf := 100, cur := 101, lpipe := 240 }
  power := { Power.init with powered := true, online := true, vid := 7 } }

/-- The same in CONFIG. -/
def conf : State := { up with glb := { up.glb with gstate := .config } }

/-- The same with the sheaf in the pipeline frozen. -/
def frozen : State := { up with glb := { up.glb with frozen := true } }

/-- A setting package of the given records. -/
def pkgOf (l : List (Nat × Nat × List Word)) : Package := ⟨0, l.map (fun x => ⟨x.1, x.2.1, x.2.2⟩), false⟩

/-- The state under a package of the given records. -/
def under (l : List (Nat × Nat × List Word)) (s : State) : State := { s with cfg := { s.cfg with package := some (pkgOf l) } }

/-- The state with one command in flight in a view. -/
def flying (v : View) (e : Inflight) (s : State) : State := s.setView v { s.view v with inflight := [e], busMaster := true }

/-- A command of opcode op in slot 3 with HOST_SEQ 1, being journaled. -/
def fresh (op : Half) (payload : List Byte) : Inflight := ⟨3, op, 0, 1, payload, 0, .journaling, false, false⟩

/-- The same, accepted and running. -/
def runs (op : Half) (payload : List Byte) : Inflight := ⟨3, op, 0, 1, payload, 5, .running, false, false⟩

/-- A descriptor of len bytes at address 4096 (R339). -/
def desc (len : Nat) : List Byte := leBytes 8 4096 ++ leBytes 4 len ++ zeros 4

/-- The paired engine with the interlock token. -/
def holder : State := { up with pair := { up.pair with c0 := 1, token := true } }

/-- The paired engine without it. -/
def standby : State := { up with pair := { up.pair with c0 := 1 } }

/-- A host command in a slot that its view does not have (R330). -/
theorem test_wf_submit : ∀ i ∈ [
    Instr.getInfo (sub .pf0 64 1 0 [] []), .getCerts (sub .pf0 64 1 0 [] []), .stageSettings (sub .pf0 64 1 0 [] []),
    .commitAtSheaf (sub .pf0 64 1 0 [] []), .selectGroup (sub .pf0 64 1 0 [] []), .setLpipe (sub .pf0 64 1 0 [] []),
    .loadProgram (sub .pf0 64 1 0 [] []), .paramWrite (sub .pf0 64 1 0 [] []), .force (sub .pf0 64 1 0 [] []),
    .unforce (sub .pf0 64 1 0 [] []), .restartLogic (sub .pf0 64 1 0 [] []), .listRecords (sub .pf0 64 1 0 [] []),
    .fetchRecord (sub .pf0 64 1 0 [] []), .releaseRecord (sub .pf0 64 1 0 [] []), .manualTrigger (sub .pf0 64 1 0 [] []),
    .fetchTally (sub .pf0 64 1 0 [] []), .configSnapsets (sub .pf0 64 1 0 [] []), .timeConfig (sub .pf0 64 1 0 [] []),
    .timeStatus (sub .pf0 64 1 0 [] []), .pairConfig (sub .pf0 64 1 0 [] []), .swapRoles (sub .pf0 64 1 0 [] []),
    .runBist (sub .pf0 64 1 0 [] []), .spotConvert (sub .pf0 64 1 0 [] []), .calStatus (sub .pf0 64 1 0 [] []),
    .installFw (sub .pf0 64 1 0 [] []), .activateFw (sub .pf0 64 1 0 [] []), .attest (sub .pf0 64 1 0 [] []),
    .setOwnerKey (sub .pf0 64 1 0 [] []), .requireSignedSettings (sub .pf0 64 1 0 [] []), .fetchDump (sub .pf0 64 1 0 [] [])],
    i.wf = false := by decide

/-- PF1 has 16 slots; a payload has at most 224 bytes (R330); a doorbell with an unlisted opcode is held to the same. -/
theorem test_wf_slot : (Instr.getInfo (sub .pf1 16 1 0 [] [])).wf = false ∧ (Instr.getInfo (sub .pf1 15 1 0 [] [])).wf = true ∧
    (Instr.getInfo (sub .pf0 63 1 0 (zeros 225) [])).wf = false ∧ (Instr.badOpcodeDoorbell (sub .pf0 64 1 0 [] []) 0).wf = false := by
  decide

/-- What a start finds, with three firmware slots. -/
def found3 : StartFindings := ⟨true, true, true, 0, [], [], [], [true, true, true], [], [], [], true, true, true, true, false, [], []⟩

/-- Refused: slots, mirrored results, registers and vectors outside their ranges (R317, R319, R330, R326). -/
theorem test_wf_mailbox : ∀ i ∈ [
    Instr.commandAcceptance .pf1 16 false false, .commandExecutionEnd .pf0 ⟨64, false, false⟩,
    .pairCommandMirror (sub .pf0 0 1 0 [] []) 0 0 0 (some ⟨0, 0, zeros 225⟩), .pairAckTimeout 64,
    .pairCommandAck 64 none, .rlLowRead .pf0 2,
    .rlLowRead .pf0 0x8001008, .stickyW1cWrite .pf0 4 0,
    .msixUnmask .pf0 32, .registerWrite .pf0 0x102000 4 0],
    i.wf = false := by decide

/-- Refused: slices, lanes, wires, inputs, pairs, zones and slots outside their ranges (R38, R113, R123, R207, R221, R223, R284). -/
theorem test_wf_protection : ∀ i ∈ [
    Instr.closeDeadline [⟨68, 0, 0⟩], .laneEvaluationDone 13 true,
    .tripWireStartStop 192 0, .readbackWindowEnd 192 0,
    .laneKnownAnswerTest 13 0 0 0, .sliceStall 68 0,
    .gleanerCalibrationResult 4 0, .overlapCompare 4 0,
    .biDebounceChange 128 0 0, .biDebounceChange 0 1 0,
    .biPairDiscrepancy 64 0, .biPairRecovery 64 0,
    .definiteTimeOperate 160 0, .resetDelayExpiry 0 32,
    .inverseTimeOperate 160 0, .autoRecloseTimerExpiry 0 32,
    .logicTimerExpiry 16384, .thresherTimerExpiry 8 0,
    .thresherTimerExpiry 0 2, .maskViolation 8 0 0,
    .maskViolation 0 8 0, .tenonSealInExpiry 160,
    .backstopDelayExpiry 160],
    i.wf = false := by decide

/-- Refused: ports, streams, entries, blocks, descriptors and Dovetail numbers outside their ranges (R59, R65, R137, R154, R349). -/
theorem test_wf_ports : ∀ i ∈ [
    Instr.portFrameRx (frameOf 32 .other), .svFrame (frameOf 32 .other),
    .gooseFrame { frameOf 0 .other with tags := 3 }, .ldfFrameRx { frameOf 0 .other with vlan := 4096 },
    .svStreamLost 512, .gooseTalExpiry 1024,
    .gooseRetransmit 256, .prpSupervisionTx 32,
    .prpNodeExpiry 32 0 0, .prpLanDown 32 0 0,
    .portLinkChange 32 true, .timedLaunch 32 0 false,
    .syncRx ⟨32, 0, 0, 0, 0, 0, 0, false, 0⟩, .followUpRx ⟨32, 0, 0, 0, 0, 0, 0, false, 0⟩,
    .announceRx ⟨32, 0, 0, 0, 0, 0, 0, 0, 0, 0, 0, 0, 0, false, none, 0, [], 0⟩, .pdelayReqRx ⟨32, 0, 0, 0, 0, 0, 0, false, 0⟩,
    .pdelayRespRx ⟨32, 0, 0, 0, 0, 0, 0, true⟩, .pdelayReqTx 32 0,
    .announceReceiptTimeout ⟨32, 0⟩, .ldfChannelLoss 16 0 0,
    .ldfChannelLoss 0 3 0, .ldfHoldoffEnd 16 0,
    .ldfAlignTimeout 16, .dovetailSampleRx 4 0 0 0 0 0,
    .dovetailSampleRx 0 256 0 0 0 0, .dovetailSampleRx 0 0 2048 0 0 0,
    .crossTriggerRx 4 0 0 0, .crossTriggerRx 0 256 0 0,
    .crossTriggerRx 0 0 8 0, .dovetailLinkChange 4 true],
    i.wf = false := by decide

/-- Refused: more firmware slots than the device has, inputs that do not exist (R221, R381). -/
theorem test_wf_starts : ∀ i ∈ [
    Instr.powerUp found3, .rstNRelease false found3,
    .activationWarmRestart found3, .bootComplete 0 0 [128]],
    i.wf = false := by decide

-- Witnesses, in the order of the statements.

theorem witness_StepRunsFrontCommand :
    { up with pending := [.granaryWalk, .opsecTick] }.pending = .granaryWalk :: [.opsecTick] ∧ up.pending = [] := by decide

theorem witness_RlReadLatchesHighWord : barOpen up .pf0 = true ∧ isRlLow 0x30 = true ∧ isRlLow 0x34 = false ∧
    (0x30 : Nat) ≠ 0x5000 ∧ (up.setView .pf0 { up.pf0 with holdingOffset := some 0x30 }).pf0.holdingOffset = some 0x30 := by
  decide

theorem witness_RlPairReadsOneValue : View.pf0 ≠ View.pf1 ∧ isRlLow 0x30 = true ∧ barOpen up .pf0 = true ∧
    (∃ a b, exec (.rlLowRead .pf0 0x30) up = .next a ∧ exec (.rlLowRead .pf1 0x4000) a = .next b ∧
      { b with glb := { b.glb with sheaf := 4294967296 } }.view .pf0 = b.view .pf0) := by
  refine ⟨by decide, by decide, by decide, _, _, rfl, rfl, rfl⟩

theorem witness_TbNowCapture : View.pf0 ≠ View.pf1 ∧ barOpen up .pf0 = true ∧ up.tb.now ≤ 100 ∧ (100 : Time) ≤ 200 := by decide

theorem witness_SnapshotRequestAndCopy : barOpen up .pf1 = true ∧
    (({ up with pf1 := { up.pf1 with snpCopy := some (101, [1#32]), snpIrq := true } }).view .pf1).snpCopy = some (101, [1#32]) := by
  decide

theorem witness_StickyW1cIsPrivileged : (3 < 4) ∧ barOpen up .pf0 = true := by decide

/-- HEAD − TAIL after the write: 256 is taken, 257 is not (R323). -/
theorem witness_CplTailWriteBounds : let s := { up with pf0 := { up.pf0 with cplHead := 300#32, held := [⟨0, 0, 0, 0, 0, 0⟩] } }
    barOpen s .pf0 = true ∧ ((s.view .pf0).cplHead - 44#32).toNat ≤ 256 ∧ 256 < ((s.view .pf0).cplHead - 43#32).toNat ∧
      256 < ((s.view .pf0).cplHead - 301#32).toNat ∧ ((s.view .pf0).cplHead - 300#32).toNat ≤ 256 ∧
      min (s.view .pf0).held.length (256 - ((s.view .pf0).cplHead - 44#32).toNat) = 0 := by decide

theorem witness_PcieEventsAndProtection : (up.view .pf1).held = [] := by decide

theorem witness_HeldEntriesPostedAfterFlr : barOpen { up with pf0 := { up.pf0 with held := [⟨7, 0, 0, 0, 0, 0⟩] } } .pf0 = true := by
  decide

theorem witness_PciePowerAndMessages : (up.view .pf0).held = [] ∧ up.pf0.held = [] ∧ up.pf1.held = [] ∧ barOpen up .pf0 = true ∧
    31 < 32 := by decide

/-- The writable registers stand at the ends of the reserved ranges (R320). -/
theorem witness_RegisterWritesOfBar0 : (4 : Nat) = 4 ∧ 0x1010 % 4 = 0 ∧ ((2 : Nat) ≠ 4 ∨ 0x1010 % 4 ≠ 0) ∧ (0x1011 % 4 ≠ 0) ∧
    barOpen up .pf0 = true ∧ (0x1014 : Nat) > 0x1010 ∧ ¬ (0x1010 < 0x1010) ∧ ¬ (0x2010 < 0x1000) ∧ (0x3030 ≤ 0x7FFC) ∧ 126 < 128 ∧ 126 % 4 ≠ 3 := by decide

theorem witness_ViewsKeepApart : View.pf0 ≠ View.pf1 ∧ privateTo .pf0 (.snapshotRequest .pf0 3) = true ∧
    privateTo .pf0 (.functionLevelReset .pf0) = true ∧ privateTo .pf0 (.functionLevelReset .pf1) = false := by decide

theorem ready (v : View) : MailboxReady v 3 conf := by
  constructor <;> cases v <;> decide

/-- Each of the 30 host commands has its row in the command table. -/
theorem witness_DoorbellTakesCommand : (∀ x ∈ hostCommands (sub .pf0 3 1 0 [] []), (commandSpec x.2.1).isSome = true) ∧
    MailboxReady .pf0 3 conf ∧ MailboxReady .pf1 3 conf ∧ (conf.view .pf1).nextSeq = 1 ∧
    (∃ r, commandSpec 0x0101 = some r ∧ r.both = true) := by
  exact ⟨by decide, ready _, ready _, by decide, _, rfl, by decide⟩

/-- A slot as the host has written it. -/
def slotted (op flags len : Half) (seq : Quad) (s : State) : State :=
  s.setView .pf1 { s.view .pf1 with slots := [(3, ⟨op, flags, seq, len, 0, 0, 0, []⟩)], nextSeq := 100, completed := [⟨99, 0x0101, 0, 0, 5, []⟩] }

theorem bellReady (op flags len : Half) (seq : Quad) : BellReady .pf1 3 (slotted op flags len seq conf) := by
  constructor <;> first
    | exact ⟨nofun, nofun⟩
    | rfl
    | exact (by decide : (0#32 - 0#32).toNat < 256)
    | decide

/-- One slot for each failing check of R334, and for the unlisted opcode at the doorbell. -/
theorem witness_DoorbellChecksRefuse : commandSpec 0x0100 = none ∧
    (∃ r, commandSpec 0x0201 = some r ∧ permitted conf .pf1 r 0 = false) ∧
    (∃ r, commandSpec 0x0101 = some r ∧ permitted conf .pf1 r 0 = true ∧ (r.len + 1) ≠ r.len) ∧
    (∃ r, commandSpec 0x0802 = some r ∧ (0x0802 : Half) ∉ [0x0101, 0x0602, 0x0803, 0x0501, 0x0B01] ∧
      permitted { conf with store := { conf.store with norA := false, norB := false } } .pf0 r 0 = true) ∧
    anyMirror { conf with store := { conf.store with norA := false, norB := false } } = false ∧
    BellReady .pf1 3 (slotted 0x0100 0 0 1 conf) ∧ MailboxReady .pf0 3 conf := by
  refine ⟨by decide, ⟨_, rfl, by decide⟩, ⟨_, rfl, by decide, by decide⟩, ⟨_, rfl, by decide, by decide⟩, by decide, bellReady _ _ _ _, ready _⟩

/-- With N = 100: 100 is next, 101 too far, 36 the oldest kept, 35 stale; 99 is completed. -/
theorem witness_HostSeqJudged : BellReady .pf1 3 (slotted 0x0101 0 0 100 conf) ∧
    (∃ r, commandSpec 0x0101 = some r ∧ permitted (slotted 0x0101 0 0 100 conf) .pf1 r 0 = true ∧ (0 : Half).toNat = r.len) ∧
    anyMirror conf = true ∧ 1 ≤ ((slotted 0x0101 0 0 100 conf).view .pf1).nextSeq.toNat ∧
    (100#64).toNat < (101#64).toNat ∧ (35#64).toNat + 64 < (100#64).toNat ∧ (100#64).toNat ≤ (36#64).toNat + 64 ∧
    (((slotted 0x0101 0 0 99 conf).view .pf1).completed.find? (fun d => d.hostSeq == 99)).isSome = true ∧
    (((slotted 0x0101 0 0 36 conf).view .pf1).completed.find? (fun d => d.hostSeq == 36)).isSome = false := by
  refine ⟨bellReady _ _ _ _, ⟨_, rfl, by decide, by decide⟩, by decide, by decide, by decide, by decide, by decide, by decide, by decide⟩

/-- The parts of a state that the mailbox's readiness rests on, as in up. -/
def Calm (s : State) : Prop :=
  s.power = up.power ∧ s.bells = [] ∧ anyMirror s = true ∧ paired s = false ∧ s.pf0 = up.pf0 ∧ s.pf1 = up.pf1

theorem journaling (v : View) (op : Half) (p : List Byte) (s : State) (h : Calm s) :
    Journaling v (fresh op p) (flying v (fresh op p) s) := by
  obtain ⟨hp, hb, hm, hs, h0, h1⟩ := h
  cases v <;> constructor <;> first
    | rfl
    | assumption
    | (simp only [flying, State.view, State.setView, hp, h0, h1]; first | decide | exact (by decide : (0#32 - 0#32).toNat < 256))
    | exact (fun w hw => by cases w <;> first | exact absurd rfl hw | simp only [flying, State.view, State.setView, h0, h1]; rfl)

theorem running (v : View) (op : Half) (p : List Byte) (s : State) (h : Calm s) :
    Running v (runs op p) (flying v (runs op p) s) := by
  obtain ⟨hp, hb, hm, hs, h0, h1⟩ := h
  cases v <;> constructor <;> first
    | rfl
    | assumption
    | (simp only [flying, State.view, State.setView, hp, h0, h1]; first | decide | exact (by decide : (0#32 - 0#32).toNat < 256))
    | exact (by decide : (5 : Quad) ≠ 0)
    | exact (fun w hw => by cases w <;> first | exact absurd rfl hw | simp only [flying, State.view, State.setView, h0, h1]; rfl)

theorem calm (s : State) (h : s = conf ∨ s = up) : Calm s := by
  rcases h with rfl | rfl <;> exact ⟨rfl, rfl, rfl, rfl, rfl, rfl⟩

/-- A state with all secrets. -/
def keyed : State := { conf with bist := { conf.bist with identityKey := true, sessionKeys := true, settingsKey := true } }

theorem calm_keyed : Calm keyed := ⟨rfl, rfl, rfl, rfl, rfl, rfl⟩

/-- Each reading command with the shortest buffer it takes, and with the ends of the ranges of its operands. -/
theorem witness_ReadCommandsComplete :
    (∀ op p, Journaling .pf0 (fresh op p) (flying .pf0 (fresh op p) keyed)) ∧ keyed.glb.gstate ≠ .boot ∧
      keyed.glb.gstate ≠ .test ∧ keyed.glb.gstate ≠ .halted ∧ (∀ e, ((flying .pf0 e keyed).view .pf0).busMaster = true) ∧
      descLen (fresh 0x0102 (desc 8192)) 0 = 8192 ∧ descLen (fresh 0x0602 (desc 524)) 0 = 524 ∧
      descLen (fresh 0x0803 (desc 3232)) 0 = 3232 ∧
      (∀ n ∈ [16, 64], leAt (fresh 0x0A01 (leBytes 1 n ++ zeros 67 ++ desc 4096)).payload 0 1 = n ∧
        descLen (fresh 0x0A01 (leBytes 1 n ++ zeros 67 ++ desc 4096)) 68 = 4096) ∧
      zeroised keyed = false ∧ keyed.bist.identityKey = true ∧ keyed.bist.sessionKeys = true ∧
      (∀ c ∈ [0, 63], leAt (fresh 0x0802 (leBytes 1 c)).payload 0 1 = c) := by
  refine ⟨fun op p => journaling _ _ _ _ calm_keyed, by decide, by decide, by decide, fun _ => rfl, by decide, by decide, by decide, by decide, by decide, by decide,
    by decide, by decide⟩

/-- Host memory with bytes from address 4096. -/
def filled (bs : List Byte) (s : State) : State := { s with hostMem := memWrite [] 4096 bs }

theorem filled_read (e : Inflight) (o : Nat) (bs : List Byte) (s : State) (ha : descAddr e o = 4096)
    (hl : descLen e o = bs.length) : readBuffer e o (flying .pf0 e (filled bs s)) = bs := by
  simp only [readBuffer, ha, hl, flying, filled, State.setView]
  exact memRead_memWrite 4096 bs (by decide)

/-- An owner key package of generation 1 (R389). -/
def ownerBytes : List Byte := leBytes 4 (ascii4 0x45 0x56 0x4F 0x4B) ++ leBytes 2 1 ++ leBytes 2 0 ++ leBytes 4 1 ++ zeros 500

theorem calm_filled (bs : List Byte) (s : State) (h : Calm s) : Calm (filled bs s) := h

theorem witness_SettingCommandsComplete_lpipe : (∀ p, Journaling .pf0 (fresh 0x0204 p) (flying .pf0 (fresh 0x0204 p) conf)) ∧
    conf.glb.gstate = .config ∧ (∀ n ∈ [240, 3200], leAt (fresh 0x0204 (leBytes 2 n)).payload 0 2 = n ∧ 240 ≤ n ∧ n ≤ 3200) :=
  ⟨fun _ => journaling _ _ _ _ (calm _ (.inl rfl)), by decide, by decide⟩

theorem witness_SettingCommandsComplete_time : let e := fresh 0x0601 (desc 420)
    let s := flying .pf0 e (filled (wordBytes timeConfigReset) up)
    Journaling .pf0 e s ∧ s.pf0.busMaster = true ∧ descLen e 0 = 420 ∧ s.tb.src = 0 ∧
      (let ws := (wordsAt (readBuffer e 0 s) 0 105).zipIdx.map (fun w => w.1 &&& tcMask w.2)
      timeConfigOk ws = true ∧ (tcPpsValid ws = true → stepPermitted s = true)) := by
  intro e s
  have r : readBuffer e 0 s = wordBytes timeConfigReset := filled_read _ _ _ _ (by decide) (by decide +kernel)
  refine ⟨journaling _ _ _ _ (calm_filled _ _ (calm _ (.inr rfl))), rfl, by decide, rfl, ?_, ?_⟩
  · rw [r]; decide +kernel
  · rw [r]; exact fun h => absurd h (by decide +kernel)

/-- PAIR_CONFIG with PAIRED 0 and with PAIRED 1: partner 1 of engine 0 over Dovetail port 0. -/
theorem witness_SettingCommandsComplete_pair :
    (∀ p, Journaling .pf0 (fresh 0x0701 p) (flying .pf0 (fresh 0x0701 p) conf)) ∧ conf.glb.gstate = .config ∧
      wordAt (wordBytes [0x2041#32, 24#32]) 0 = 0x2041#32 ∧ wordAt (wordBytes [0x2041#32, 24#32]) 4 = 24#32 ∧
      wordAt (wordBytes [0x2040#32, 24#32]) 0 = 0x2040#32 ∧ pairRecordOk 0x2041#32 24#32 = true ∧ pairRecordOk 0x2040#32 24#32 = true ∧
      bit 0x2040#32 0 = false ∧ bit 0x2041#32 0 = true :=
  ⟨fun _ => journaling _ _ _ _ (calm _ (.inl rfl)), by decide, by decide +kernel, by decide +kernel, by decide +kernel,
    by decide +kernel, by decide +kernel, by decide, by decide⟩

theorem witness_SettingCommandsComplete_release :
    let s := { up with granary := { up.granary with walked := true, lastNo := 5, releasedThrough := 2 } }
    (∀ p, Journaling .pf0 (fresh 0x0403 p) (flying .pf0 (fresh 0x0403 p) s)) ∧ s.granary.walked = true ∧ emmcBusy s = false ∧
      (∀ n ∈ [3, 5], s.granary.releasedThrough < leAt (fresh 0x0403 (leBytes 8 n)).payload 0 8 ∧
        leAt (fresh 0x0403 (leBytes 8 n)).payload 0 8 ≤ s.granary.lastNo) :=
  ⟨fun _ => journaling _ _ _ _ ⟨rfl, rfl, rfl, rfl, rfl, rfl⟩, by decide, by decide, by decide⟩

theorem witness_SettingCommandsComplete_activate :
    let s := { up with trust := { up.trust with slotState := [2, 2], slotBg := [1, 1] } }
    let e := fresh 0x0902 (leBytes 4 1 ++ zeros 48)
    Journaling .pf0 e (flying .pf0 e s) ∧ leAt e.payload 0 1 = 1 ∧ 1 ≠ s.trust.running ∧ s.trust.slotState[1]? = some 2 ∧
      digestBytes (slotDigestOf s 1) = slice e.payload 4 48 ∧ s.trust.slotBg[1]? = some (runningBg s) ∧
      { s with trust := { s.trust with slotBg := [1, 2] } }.trust.slotBg[1]? ≠ some (runningBg s) := by
  refine ⟨journaling _ _ _ _ ⟨rfl, rfl, rfl, rfl, rfl, rfl⟩, by decide, by decide, by decide, ?_, by decide, by decide⟩
  decide +kernel

theorem witness_SettingCommandsComplete_owner : let e := fresh 0x0A02 (desc 512)
    let s := flying .pf0 e (filled ownerBytes keyed)
    Journaling .pf0 e s ∧ s.glb.gstate = .config ∧ s.pf0.busMaster = true ∧ descLen e 0 = 512 ∧ zeroised s = false ∧
      s.bist.identityKey = true ∧ s.bist.sessionKeys = true ∧ ownerFault s (readBuffer e 0 s) = none := by
  intro e s
  have r : readBuffer e 0 s = ownerBytes := filled_read _ _ _ _ (by decide) (by decide +kernel)
  refine ⟨journaling _ _ _ _ (calm_filled _ _ calm_keyed), rfl, rfl, by decide, by decide, rfl, rfl, ?_⟩
  rw [r]
  show ownerFault keyed ownerBytes = none
  decide +kernel

theorem witness_SettingCommandsComplete_require :
    let s := { conf with trust := { conf.trust with fuses := [1] } }
    let e := fresh 0x0A03 [1]
    Journaling .pf0 e (flying .pf0 e s) ∧ s.glb.gstate = .config ∧ leAt e.payload 0 1 = 1 ∧ ownerSet s = true ∧
      (∀ p, s.cfg.package = some p → p.signed = true) ∧ (∀ p, s.logic.program = some p → p.signed = true) :=
  ⟨journaling _ _ _ _ ⟨rfl, rfl, rfl, rfl, rfl, rfl⟩, rfl, by decide, by decide, nofun, nofun⟩

/-- A zone that is enabled, of group source 0. -/
def zoned : State := under [(secZone, 5, [1])] up

theorem calm_under (l : List (Nat × Nat × List Word)) (s : State) (h : Calm s) : Calm (under l s) := h

theorem witness_BoundaryCommandsWait_group : (∀ p, Journaling .pf0 (fresh 0x0203 p) (flying .pf0 (fresh 0x0203 p) zoned)) ∧
    zoned.cfg.changes = [] ∧ zoned.glb.gstate = .protecting ∧ leAt [5, 0, 7] 2 1 = 7 ∧ leAt [5, 0, 7] 0 2 ∈ enabledZones zoned ∧
    znGroupSrc (zoneWords zoned.cfg.package 5) = 0 ∧ leAt [0xFF, 0xFF, 0] 0 2 = 0xFFFF :=
  ⟨fun _ => journaling _ _ _ _ (calm_under _ _ (calm _ (.inr rfl))), rfl, rfl, by decide, by decide, by decide, by decide⟩

/-- A program of one parameter 0 of type UDINT (R193), 0 to 10. -/
def oneParam : Loaded := ⟨0, ⟨[], [], [⟨2#32, 0#32, 0#32, 10#32⟩], [], [], [], [], []⟩, false⟩

theorem witness_BoundaryCommandsWait_param : let s := { up with logic := { up.logic with program := some oneParam } }
    let e := fresh 0x0302 (zeros 4 ++ leBytes 4 10)
    Journaling .pf0 e (flying .pf0 e s) ∧ 0 < loadedPeriod s.logic.program ∧ s.logic.program = some oneParam ∧
      oneParam.program.params[leAt e.payload 0 2]? = some ⟨2#32, 0#32, 0#32, 10#32⟩ ∧
      paramOk ⟨2#32, 0#32, 0#32, 10#32⟩ (wordAt e.payload 4) = true ∧ paramOk ⟨2#32, 0#32, 0#32, 10#32⟩ 11#32 = false :=
  ⟨journaling _ _ _ _ ⟨rfl, rfl, rfl, rfl, rfl, rfl⟩, by decide, rfl, by decide, by decide, by decide⟩

/-- FORCE of the first general boolean point (R185). -/
theorem witness_BoundaryCommandsWait_logic : let e := fresh 0x0303 (zeros 4 ++ leBytes 4 41472 ++ leBytes 4 1)
    (∀ op p, Journaling .pf0 (fresh op p) (flying .pf0 (fresh op p) up)) ∧ 0 < loadedPeriod up.logic.program ∧
      leAt e.payload 0 1 ≤ 1 ∧ isGeneral (namedPoint e) = true ∧ tripClassSoon up (namedPoint e) = false ∧
      (forcedKeys up).length < 256 ∧ leAt [1] 0 1 ≤ 1 :=
  ⟨fun _ _ => journaling _ _ _ _ (calm _ (.inr rfl)), by decide, by decide, by decide, by decide +kernel, by decide, by decide⟩

theorem witness_BoundaryCommandsWait_trigger : let s := under [(secTrigger, 7, [1])] up
    (∀ p, Journaling .pf0 (fresh 0x0404 p) (flying .pf0 (fresh 0x0404 p) s)) ∧ thresherWorks s = true ∧ leAt [7] 0 1 = 7 ∧
      tgEnabled (tgWords s.cfg.package (leAt [7] 0 1)) = true :=
  ⟨fun _ => journaling _ _ _ _ (calm_under _ _ (calm _ (.inr rfl))), by decide, by decide, by decide⟩

theorem memRead_nil (a n : Nat) : memRead [] a n = List.replicate n 0#8 := by
  induction n generalizing a with
  | zero => rfl
  | succ n ih => simp [memRead, memGet, ih, List.replicate_succ]

theorem wordAt_zeros (n o : Nat) : wordAt (List.replicate n 0#8) o = 0#32 := by
  simp [wordAt, leAt, slice, List.drop_replicate, List.take_replicate]
  rfl

theorem wordsAt_zeros (n o k : Nat) : wordsAt (List.replicate n 0#8) o k = List.replicate k 0#32 := by
  induction k generalizing o with
  | zero => rfl
  | succ k ih => simp [wordsAt, wordAt_zeros, ih, List.replicate_succ]

/-- 64 disabled snapshot sets: a buffer of zeros (R272). -/
theorem witness_BoundaryCommandsWait_snapsets : let e := fresh 0x0502 (desc 8960)
    let s := flying .pf0 e up
    Journaling .pf0 e s ∧ s.pf0.busMaster = true ∧ descLen e 0 = 8960 ∧
      ∀ n < 64, snapsetOk (((wordsAt (readBuffer e 0 s) 0 2240).drop (35 * n)).take 35) = true := by
  refine ⟨journaling _ _ _ _ (calm _ (.inr rfl)), rfl, by decide, fun n _ => ?_⟩
  have r : readBuffer (fresh 0x0502 (desc 8960)) 0 (flying .pf0 (fresh 0x0502 (desc 8960)) up) = List.replicate 8960 0#8 :=
    memRead_nil _ 8960
  rw [r, wordsAt_zeros, List.drop_replicate, List.take_replicate]
  have h : ∀ m i, wAt (List.replicate m 0#32) i = 0#32 := by
    intro m i
    simp only [wAt, List.getElem?_replicate]
    split <;> rfl
  simp only [snapsetOk, h]
  decide

/-- COMMIT_AT_SHEAF of a staged package at the first sheaf it may name, 108, and in CONFIG under the number 0 (R28). -/
theorem witness_BoundaryCommandsWait_commit : let q := pkgOf []
    let s := { conf with cfg := { conf.cfg with staged := some q } }
    (∀ p, Journaling .pf0 (fresh 0x0202 p) (flying .pf0 (fresh 0x0202 p) s)) ∧ s.glb.gstate = .config ∧ s.cfg.staged = some q ∧
      digestBytes q.digest = slice (leBytes 8 108 ++ zeros 48) 8 48 ∧ leAt (leBytes 8 108 ++ zeros 48) 0 8 = 108 ∧
      leAt (zeros 56) 0 8 = 0 ∧ s.glb.sheaf + 8 = 108 ∧ 108 ≤ s.glb.sheaf + 288000 ∧ s.logic.staged = none ∧
      commitFits s q = true ∧ unionOk s.cfg.package q = true ∧ membersDeclared q ((comingProgram s).map (fun l => l.program)) = none ∧
      packageTaintOk q ((comingProgram s).map (fun l => l.program)) (forcedThen s s.logic.staged.isSome) = true :=
  ⟨fun _ => journaling _ _ _ _ ⟨rfl, rfl, rfl, rfl, rfl, rfl⟩, rfl, rfl, by decide +kernel, by decide +kernel, by decide +kernel, rfl, by decide, rfl,
    by decide, by decide⟩

/-- The same while protecting, with a staged program of period 4: sheaf 112 suits it, 110 does not. -/
theorem witness_BoundaryCommandsWait_commitProgram : (112 % 4 = 0 ∧ 110 % 4 ≠ 0) ∧
    (let s := { up with glb := { up.glb with lpipe := lpipeUnder up (some (pkgOf [])) } }
    commitFits s (pkgOf []) = true) := ⟨by decide, by decide +kernel⟩

/-- Each long-running command at the ends of the ranges of its operands. -/
theorem witness_LongCommandsRun_data : let s := { up with granary := { up.granary with walked := true } }
    (∀ v op p, Journaling v (fresh op p) (flying v (fresh op p) s)) ∧ s.glb.gstate = .protecting ∧
      (∀ v e, ((flying v e s).view v).busMaster = true) ∧ s.cfg.changes = [] ∧ emmcBusy s = false ∧ s.trust.requireSigned = false ∧
      s.granary.walked = true ∧
      descLen (fresh 0x0201 (desc 32)) 0 = 32 ∧ descLen (fresh 0x0201 (desc 16777216)) 0 = 16777216 ∧
      descLen (fresh 0x0301 (desc 33554432)) 0 = 33554432 ∧
      (let e := fresh 0x0401 (leBytes 8 1 ++ leBytes 4 1 ++ zeros 4 ++ desc 32)
      leAt e.payload 8 4 = 1 ∧ 32 * leAt e.payload 8 4 ≤ descLen e 16) ∧
      (let e := fresh 0x0401 (leBytes 8 1 ++ leBytes 4 65536 ++ zeros 4 ++ desc 2097152)
      leAt e.payload 8 4 = 65536 ∧ 32 * leAt e.payload 8 4 ≤ descLen e 16) ∧
      (let e := fresh 0x0402 (leBytes 8 1 ++ leBytes 8 4096 ++ desc 4096)
      leAt e.payload 8 8 % 4096 = 0 ∧ descLen e 16 % 4096 = 0) ∧
      (let e := fresh 0x0501 (leBytes 8 1 ++ leBytes 4 16384 ++ leBytes 1 1 ++ zeros 3 ++ desc 4210688)
      leAt e.payload 8 4 = 16384 ∧ leAt e.payload 12 1 = 1 ∧
        256 * leAt e.payload 8 4 + 16384 * leAt e.payload 12 1 = descLen e 16) ∧
      (let e := fresh 0x0B01 (zeros 16 ++ desc 64)
      leAt e.payload 0 1 = 0 ∧ leAt e.payload 8 8 % 4 = 0 ∧ s.dumpBusy = none ∧ s.dumpDdr = none) ∧
      s.granary.walked = true := by
  refine ⟨fun v op p => journaling _ _ _ _ ⟨rfl, rfl, rfl, rfl, rfl, rfl⟩, rfl, fun v e => by cases v <;> rfl, rfl, by decide, rfl, rfl, ?_⟩
  decide +kernel

/-- RUN_BIST of lane 12 and of slice 67, SWAP_ROLES on an unpaired engine, INSTALL_FW of one block and of 8 MiB. -/
theorem witness_LongCommandsRun_tests :
    (∀ v op p, Journaling v (fresh op p) (flying v (fresh op p) up)) ∧ up.bist.queue = [] ∧
      (let r : BistRun := ⟨1, 0x00000C00#32, 0, 0, false, 0, 102, BistValues.none, false, 0⟩
      bistClass r = 0 ∧ bistIndex r = 12 ∧ bistRefused up r = false) ∧
      (let r : BistRun := ⟨1, 0x00004301#32, 0, 0, false, 0, 102, BistValues.none, false, 0⟩
      bistClass r = 1 ∧ bistIndex r = 67 ∧ bistRefused up r = false) ∧
      wordAt (leBytes 4 0x0C00) 0 = 0x00000C00#32 ∧ up.glb.gstate = .protecting ∧ up.trust.install = none ∧
      up.trust.activeSlot = up.trust.running ∧ up.trust.running ≤ 1 ∧ descLen (fresh 0x0901 (desc 65536)) 0 % 65536 = 0 ∧
      descLen (fresh 0x0901 (desc 8388608)) 0 = 8388608 := by
  refine ⟨fun v op p => journaling _ _ _ _ (calm _ (.inr rfl)), rfl, ?_⟩
  decide +kernel

theorem witness_LongCommandsEnd :
    (∀ v op p, Running v (runs op p) (flying v (runs op p) up)) ∧ stageWaits up = false ∧ emmcBusy up = false ∧
      (let s := { up with granary := { up.granary with walked := true, lastNo := 1, stored := [⟨1, 0, 0, 0, 0, zeros 8, zeros 4096⟩] } }
      (∀ v p, Running v (runs 0x0402 p) (flying v (runs 0x0402 p) s)) ∧ s.granary.walked = true ∧ emmcBusy s = false ∧
        (s.granary.stored.find? (fun r => r.no == leAt (leBytes 8 1) 0 8 && decide (s.granary.releasedThrough < r.no))).isSome = true) ∧
      (let s := { up with dumpDdr := some ⟨1, 1, zeros 64⟩ }
      (∀ v p, Running v (runs 0x0B01 p) (flying v (runs 0x0B01 p) s)) ∧ s.dumpBusy = none ∧ s.dumpDdr = some ⟨1, 1, zeros 64⟩ ∧
        stageRuns (.fetching (some 1)) = true ∧ (none : Option Nat) ≠ s.dumpDdr.map (fun d => d.no)) ∧
      up.trust.installResumed = false ∧ (∀ bs, imageSigned up bs = true ∨ imageSigned up bs = false) := by
  refine ⟨fun v op p => running _ _ _ _ (calm _ (.inr rfl)), by decide, by decide, ⟨fun v p => running _ _ _ _ ⟨rfl, rfl, rfl, rfl, rfl, rfl⟩, rfl, by decide, by decide⟩,
    ⟨fun v p => running _ _ _ _ ⟨rfl, rfl, rfl, rfl, rfl, rfl⟩, rfl, rfl, rfl, nofun⟩, rfl, fun bs => (Bool.eq_false_or_eq_true _)⟩

theorem witness_CloseDeadlineFreezes : up.glb.running = true ∧ up.glb.frozen = false ∧ up.glb.cur = up.glb.sheaf + 1 ∧
    protecting conf = false ∧ { up.glb with cur := 103 }.cur ≠ up.glb.sheaf + 1 ∧ frozen.glb.frozen = true ∧
    State.reset.glb.running = false := by decide

theorem witness_CommitPublishesSheaf : frozen.glb.running = true ∧ frozen.glb.frozen = true ∧ frozen.tb.step = none ∧
    State.reset.glb.running = false ∧ up.glb.frozen = false := by decide

theorem witness_CommitAppliesStickyBits : frozen.glb.running = true ∧ frozen.glb.frozen = true ∧ frozen.stk.regs.length = 4 ∧
    frozen.stk.sets.length = 4 ∧ frozen.stk.clears.length = 4 := by decide

theorem witness_FlipCompletesOrIsLate : up.glb.running = true ∧ ¬ 2000 < 2000 ∧ 2000 < 2001 ∧
    20000 ≤ 20000 ∧ State.reset.glb.running = false := by decide

/-- A running engine for the failed flip, a starting one for the oscillator, one in HALTED and one in TEST. -/
theorem witness_FabricFailureHalts : up.bells = [] ∧ up.pf0.inflight = [] ∧ up.pf1.inflight = [] ∧ up.power.inReset = false ∧
    up.glb.running = true ∧ up.glb.gstate ≠ .halted ∧ up.glb.gstate ≠ .test ∧
    20000 ≤ 20000 ∧ 20000 < 20001 ∧ 19999 < 20000 ∧
    (let s := { State.reset with power := { Power.init with powered := true } }
    s.power.powered = true ∧ s.glb.gstate = .boot ∧ s.bells = [] ∧ s.power.inReset = false ∧ s.glb.gstate ≠ .halted ∧ s.glb.gstate ≠ .test) ∧
    (∀ g ∈ [GState.halted, .test], let s := { up with glb := { up.glb with gstate := g } }
      s.bells = [] ∧ s.power.inReset = false ∧ (s.glb.gstate = .halted ∨ s.glb.gstate = .test)) := by decide

theorem witness_LaneDelivers : frozen.glb.running = true ∧ frozen.glb.frozen = true ∧ protecting frozen = true ∧
    (∀ n, ∀ x ∈ frozen.lanes.suspects, x.lane ≠ n) ∧ frozen.lanes.suspects = [] ∧ laneState frozen 11 = .serving ∧ positionOf frozen 11 = some 11 ∧
    laneState frozen 12 = .spare ∧ comparing frozen = true := by
  refine ⟨by decide, by decide, by decide, fun _ => nofun, by decide⟩

/-- Lane 1 at its sheaf 360, with a spare; without one; the spare at its own sheaf 4,320. -/
theorem witness_KnownAnswerTestOutcome : (let s := { up with glb := { up.glb with sheaf := 360 } }
    s.glb.running = true ∧ s.glb.frozen = false ∧ s.glb.sheaf % 4800 = 360 * 1 ∧ laneState s 1 = .serving ∧
      positionOf s 1 = some 1 ∧ (spareLane s).isSome = true ∧ (∀ x ∈ s.lanes.suspects, x.lane ≠ 1)) ∧
    (let s := { up with
      glb := { up.glb with sheaf := 360 }
      lanes := { up.lanes with states := List.replicate 12 .serving ++ [.retired] } }
    s.glb.sheaf % 4800 = 360 * 1 ∧ laneState s 1 = .serving ∧ positionOf s 1 = some 1 ∧ spareLane s = none) ∧
    (let s := { up with glb := { up.glb with sheaf := 4320 } }
    s.glb.sheaf % 4800 = 360 * 12 ∧ laneState s 12 = .spare) ∧ (2112 : Nat) = 2112 ∧ (2111 : Nat) ≠ 2112 ∧
    (∃ d tok, (d, tok) = Config.katExpected ((up.trust.slotDigest[up.trust.running]?).getD 0) Config.silicon) := by
  refine ⟨by decide, by decide, by decide, rfl, by decide, ⟨_, _, rfl⟩⟩

/-- Wire 191, enabled with readback, gate true: 9 edges pass, 8 fail; a first failing window and a second. -/
def wired (w : Wire) : State := { under [(secWire, 191, [0x00020001#32])] up with wires := [(191, w)] }

theorem witness_TripWireFollowsGate :
    (∀ w ∈ [{ Wire.init with gate := true }, { Wire.init with gate := true, failing := 1 }, { Wire.init with fault := true, failing := 1 }],
      let s := wired w
      let x := wireOf s 191
      wrReadback (wireWord s.cfg.package 191) = true ∧ driving s = true ∧
        x = w) ∧
    ¬ (if (Wire.init).gate then 9 ≤ 1 else 1 = 0) ∧ wrReadback (wireWord up.cfg.package 191) = false ∧
    driving State.reset = false := by decide

/-- The first run of a lane test that passes; a run that waits for its rerun; one whose rerun never came; none. -/
theorem witness_SelfTestEnds : let v : BistValues := ⟨7, 8, 9, 100⟩
    (let r : BistRun := ⟨1, 0x00000C00#32, 0, 0, true, 0, 102, v, false, 0⟩
    let s := { up with bist := { up.bist with queue := [r] } }
    s.bist.queue = r :: [] ∧ r.started = true ∧ s.bist.decided = none ∧ bistClass r = 0 ∧ tallyWaiting s.tally < 1023 ∧
      (∃ v : BistValues, (v.misr, v.patterns, v.endToken) = expectedOf s r.target)) ∧
    (∀ c ∈ [2, 3], let r : BistRun := ⟨1, 0x00000C00#32, 1, c, false, 0, 102, v, true, 0⟩
    let s := { up with bist := { up.bist with queue := [r] } }
    s.bist.queue = r :: [] ∧ r.waiting = true ∧ (r.abortCause = 2 ∨ r.abortCause = 3) ∧ bistClass r = 0 ∧ r.started = false ∧
      bistRefused s r = false ∧ r.runs = 1) ∧
    (up.bist.queue = [] ∧ up.glb.gstate ≠ .test ∧ up.power.inReset = false) := by
  refine ⟨⟨rfl, rfl, rfl, by decide, by decide, ⟨⟨_, _, _, 0⟩, rfl⟩⟩, by decide, by decide⟩

theorem witness_DumpIsCompleted : { up with dumpBusy := some ⟨1, 1, zeros 8⟩ }.dumpBusy = some ⟨1, 1, zeros 8⟩ := by decide

/-- A converter of group 0 in its slots, with what it has measured. -/
def slotted0 (sheaf : Nat) (standIn : Bool) (v : OverlapSums) (ps : List (Int × Nat)) : State :=
  setGroup 0 { CalGroup.init with
    started := true, running := true, slotSheaf := sheaf, standIn := standIn, overlap := v, points := ps } up

/-- 192 sub-samples whose differences sum to d and whose squares sum to q. -/
def overlapOf (d : Int) (q : Nat) : OverlapSums := ⟨192, d, q, 0, 0, 0, 0⟩

theorem witness_ConverterEvents : (∀ n ∈ [0, 63, 64, 67], n < 68 ∧ (sliceOf up n).failed = false ∧ scanning up n 0 = false) ∧ up.samp.fixes = [] ∧
    tallyWaiting up.tally < 1023 ∧ up.glb.running = true ∧
    (∀ d ∈ [16 * 64 * 192, 16 * 64 * 192 + 1], let x := groupOf (slotted0 63 false (overlapOf d (192 * 2048 * 2048)) []) 0
    x.running = true ∧ x.started = true ∧ x.slotSheaf = 63 ∧ x.standIn = false ∧ 0 < x.overlap.n ∧
      (x.overlap.sumD.natAbs ≤ 16 * 64 * x.overlap.n ↔ d = 16 * 64 * 192) ∧ x.overlap.sumD2 ≤ x.overlap.n * 2048 * 2048) ∧
    (let x := groupOf (slotted0 2399 true (overlapOf 0 0) []) 0
    x.running = true ∧ x.started = true ∧ x.slotSheaf = 2399 ∧ x.standIn = true ∧ 0 < x.overlap.n ∧
      x.overlap.sumD.natAbs ≤ 16 * 64 * x.overlap.n ∧ x.overlap.sumD2 ≤ x.overlap.n * 2048 * 2048) ∧
    (∀ o ∈ [1024, 1025], let x := groupOf (slotted0 2336 true OverlapSums.init
      [(10 * o, 10), (1048576, 10), (-1048576, 10), (0, 10)]) 0
    x.running = true ∧ x.standIn = true ∧ x.inserted = none ∧ x.slotSheaf = 2336 ∧ (calCoefficients x.points).isSome = true ∧
      (calInRange x.points = true ↔ o = 1024)) ∧
    up.power.vanaDip = none ∧ { up.power with vanaDip := some 3 }.vanaDip = some 3 := by decide

/-- Input 10 with D = 3: its fifth sub-sample in a row is the third from the third on (R222). -/
theorem witness_BinaryInputDebounce :
    (let s := under [(secBi, 10, [3]), (secBiPair, 5, [0])] up
    biDebounce (biWord s.cfg.package 10) = 3 ∧ 4 < 3 + 3 - 1 ∧ 3 + 3 - 1 ≤ 5 ∧ biLast s 10 = none ∧
      biLast { s with bi := { s.bi with log := [(3, 10, true)] } } 10 = some 3 ∧ prEnabled (pairWord s.cfg.package (10 / 2)) = false) ∧
    (let s := { under [(secBi, 10, [3]), (secBi, 11, [3]), (secBiPair, 5, [0x51#32])] up with
      bi := { up.bi with pairs := [(5, { BiPair.init with disagreeSince := some 1000 })] } }
    prEnabled (pairWord s.cfg.package 5) = true ∧ (biPairOf s 5).fault = false ∧ (biPairOf s 5).disagreeSince = some 1000 ∧
      pairLimit (pairWord s.cfg.package 5) = 288) ∧
    (let s := { under [(secBi, 10, [3]), (secBi, 11, [3]), (secBiPair, 5, [0x51#32])] up with
      bi := { up.bi with pairs := [(5, { BiPair.init with fault := true, agreeSince := some 1291 })] } }
    prEnabled (pairWord s.cfg.package 5) = true ∧ (biPairOf s 5).fault = true ∧ (biPairOf s 5).agreeSince = some 1291 ∧
      (1292 + 1 < 1291 + max 3 3 ∧ 1291 + max 3 3 ≤ 1293 + 1)) := by decide

/-- Instance 4 of zone 2: its type, and settings 0 to 23 of group 0. -/
def insted (type : Nat) (set : List Word) (i : Inst) : State :=
  { under [(secInstance, 68, BitVec.ofNat 32 type :: set)] up with insts := [(68, i)] }

theorem witness_ElementTimersOperate_timers :
    (let s := insted 1 [1, 200, 0, 0, 300] { Inst.init with wasOn := true, c := 1441, bools := [Point.invalid, Point.invalid] }
    (liveSettings s 2 4).1 = 1 ∧ delayOf (liveSettings s 2 4).1 (liveSettings s 2 4).2 = some 300 ∧ sheavesOfMs 300 + 1 = 1441 ∧
      (liveInst s 68).wasOn = true ∧ (liveInst s 68).r = 0 ∧ (liveInst s 68).c = 1441) ∧
    (let s := insted 5 [1] { Inst.init with c := 7, r := 1 }
    ¬ (1 ≤ (liveSettings s 2 4).1 ∧ (liveSettings s 2 4).1 ≤ 3) ∧ (liveInst s 68).r = 1) := by decide

/-- Auto-reclose with CB_CLOSED_POINT on input 3, no SYNC_POINT, no BLOCK_POINT. -/
def reclosing (r : Reclose) (closed : Bool) : State :=
  let s := insted 0x0E ([1, 50, 50, 50, 50, 0, 30, 500, 500, 4, 10, 3, 0xFFFFFFFF#32, 0xFFFFFFFF#32])
    { Inst.init with reclose := r, prevInit := true }
  { s with bi := { s.bi with points := [(3, ⟨boolWord closed, 0⟩)] } }

theorem witness_ElementTimersOperate_reclose :
    (∀ r ∈ [Reclose.waitOpen, .closing, .dead, .reclaim, .lockout, .ready, .disabled], ∀ c ∈ [true, false],
      let s := reclosing r c
      let set := (liveSettings s 2 4).2
      (liveSettings s 2 4).1 = 0x0E ∧ set 13 = 0xFFFFFFFF ∧ set 11 ≠ 0xFFFFFFFF ∧ set 12 = 0xFFFFFFFF ∧
        (liveInst s 68).prevInit = true ∧ (liveInst s 68).reclose = r ∧ truth (boolPoint s (set 11).toNat).value = c) := by
  decide

/-- A program of one TON of 10 ms; a trigger program with a mask in violation. -/
theorem witness_ProgramTimersExpire : up.logic.program = none ∧
    (let l : Loaded := ⟨0, ⟨[], [], [], [], [], [], [], [.eval (.ton 0 10) [.point ⟨false, 10⟩] ⟨false, 41500⟩]⟩, false⟩
    let s := { up with logic := { up.logic with program := some l } }
    s.logic.program = some l ∧ l.program.steps.findSome? (logicTimerStep 0) = some (.ton 0 10) ∧
      presetCycles 10 (periodOf s) = 48) ∧
    (let s := { under [(secTrigger, 2, [1, 0, 0, 0, 0, 0x01014800#32])] up with
      thr := { up.thr with trigs := [(2, { Trig.init with masks := [1], k0 := 3 })] } }
    let ws := tgWords s.cfg.package 2
    let t := trigOf s 2
    302 = 3 * s.glb.sheaf + 2 ∧ tgEnabled ws = true ∧ inViolation s ws 0 302 ((t.masks[0]?).getD 0) = true ∧
      mkAction ws 0 = 1 ∧ (mkStates ws 0).testBit t.state = true ∧ stopTrig t ≠ t ∧ t.stepped ≠ some 302 ∧ { t with stepped := some 302 }.stepped = some 302) ∧
    (301 ≠ 3 * up.glb.sheaf + 2 ∧ tgEnabled (tgWords up.cfg.package 2) = false) := by decide

/-- A process-bus port with a link and a port record. -/
def ported (ws : List (Nat × Nat × List Word)) (f : Frame) : State :=
  { under ws up with ing := { up.ing with ports := [(f.port, { Port.init with link := true, waiting := [f] })] } }

/-- A key of zeros at port 0: the SV entry, its frame of one ASDU without channels. -/
def svRec : Nat × Nat × List Word := (secSv, 9, [1, 0x00020000#32, 0, 0, 5])
def asdu : Asdu := ⟨[], 0, 5, 0, none, 0, []⟩
def svF : Frame := { frameOf 0 (.sv [asdu]) with etherType := 0x88BA }

/-- Its class holds 98,304 bytes: with 98,240 of them used a frame of 64 fits, with 98,241 it is shed. -/
theorem witness_PortAcceptsFrames : portOn up 0 = false ∧ (portOf up 0).link = false ∧
    (let s := ported [(secPort, 0, [1, 0]), svRec] svF
    portOn s 0 = true ∧ (portOf s 0).link = true ∧ framePasses svF = true ∧
      framePasses { svF with fcsOk := false } = false ∧ frameClass (tenonExtract svF (count 0 1 (advance 1000 s))) svF = some 2 ∧
      frameClass (tenonExtract { svF with vlan := 1 } (count 0 1 (advance 1000 s))) { svF with vlan := 1 } = none ∧
      98240 + svF.len ≤ classShare 2 ∧ classShare 2 < 98241 + svF.len ∧ prpPair s.cfg.package 0 = none ∧
      endsHere svF = false ∧ endsHere (frameOf 0 .prpSupervision) = true ∧ endsHere (frameOf 0 (.ptp false)) = true ∧
      ldfStray s svF = false) ∧
    ldfStray (under [(secPort, 0, [9, 0])] up) { frameOf 0 .other with etherType := 0x88B5 } = true := by
  decide +kernel

/-- A GOOSE message of no members and its subscription; a TAL that has run out. -/
def gmsg : GooseMsg := ⟨[], [], 5, false, false, 2000, 1, 0, []⟩
def gRec : Nat × Nat × List Word := (secGooseSub, 4, [1, 0, 0, 0, 5])

theorem witness_StreamsFollowTheirFrames :
    (let s := ported [(secPort, 0, [1, 0]), svRec] svF
    nextServed s = some (svF.port, svF) ∧ nextServed s ≠ some (0, frameOf 0 (.goose gmsg)) ∧ armedPackage s = none ∧ (∃ ws, svEntries s.cfg.package = [(9, ws)] ∧ svMatches s.cfg.package svF [asdu] ws = true ∧
      svCheck ws [asdu] = 0 ∧ svMatches s.cfg.package { svF with vlan := 1 } [asdu] ws = false) ∧ (streamOf s false 9).prev = none) ∧
    (let f := frameOf 0 (.goose gmsg)
    let s := ported [(secPort, 0, [1, 0]), gRec] f
    nextServed s = some (f.port, f) ∧ (∃ ws, gsEntries s.cfg.package = [(4, ws)] ∧ gsMatches s.cfg.package f gmsg ws = true ∧ gsShapeOk ws gmsg = true ∧
      gmsg.confRev = gsConfRev ws) ∧ gmsg.ndsCom = false ∧ gmsg.simulation = false ∧ { gmsg with simulation := true }.simulation = true) ∧
    (let s := { up with ing := { up.ing with subs := [(4, { GooseSub.init with accepted := some (0, 2000) })] } }
    (subOf s 4).accepted = some (0, 2000)) := by
  refine ⟨⟨by decide, by decide, by decide, ⟨[1, 0x00020000#32, 0, 0, 5], ?_⟩, by decide⟩, ⟨by decide, ⟨[1, 0, 0, 0, 5], ?_⟩, ?_⟩, ?_⟩ <;> decide

/-- Ports 0 and 1 as a PRP pair with links, and a node heard on LAN A only. -/
def paired01 : State := { under [(secPort, 0, [0x31#32, 0]), (secPort, 1, [0x11#32, 0])] up with
  tb := { up.tb with now := 1000 }
  ing := { up.ing with
    ports := [(0, { Port.init with link := true }), (1, { Port.init with link := true })]
    nodes := [⟨0, 7, 0, [], some 20000000000, none, 20000000000, 0⟩] } }

theorem witness_PrpPairsAndLinks : prpPair paired01.cfg.package 1 = some 0 ∧ portPartner (portWords paired01.cfg.package 0) = 1 ∧
    (0 : Nat) ≠ 1 ∧ (∀ x ∈ [(0, 0xA), (1, 0xB)], mayTransmit paired01 x.1 = true ∧ (portOf paired01 x.1).untimed = [] ∧
      untimedFits x.1 (supervisionLaunch x.1 0 x.2) paired01.tb.now paired01 = true) ∧ (nodeOf paired01 0 7).isSome = true ∧
    (portOf paired01 0).lanDown = none ∧ ptpActive paired01 0 = false ∧
    (portOf paired01 0).link ≠ false ∧
    (let s := ported [(secPort, 0, [1, 0])] svF
    prpPair s.cfg.package 0 = none ∧ (portOf s 0).link ≠ false ∧ ptpActive s 0 = false ∧
      (portOf s 1).link = false ∧ (portOf { s with ing := { s.ing with ports := [] } } 0).link ≠ true) := by decide

/-- A frame of no data for an instant, and a state that has it at the head of port 0. -/
def launchOf (k : TxKind) : Launch := ⟨k, some 900, false, ⟨0, 0, none, 0⟩, .supervision, none⟩
def queued (k : TxKind) (link : Bool) : State := { under [(secPort, 0, [1, 0])] up with
  ing := { up.ing with
    ports := [(0, { Port.init with link := link, queue := [launchOf k] })]
    pubs := [(2, ⟨1, 0, 4, some [(1, 0)], some 900⟩)] } }

/-- An instant at the entry's is due, one 10.16 ns off is not, but late behind a frame it is (R106, R107). -/
theorem witness_LaunchesLeaveInOrder : (portOf (queued (.goose 2) true) 0).queue = launchOf (.goose 2) :: [] ∧
    (let off (t : Time) : Int := egressUnits (queued (.goose 2) true) 0 t - stepUnits 900
    (off 900).natAbs ≤ 655360 ∧ 655360 < (off 965).natAbs ∧ 0 ≤ off 965 ∧ off 835 < 0 ∧ 655360 < (off 835).natAbs) ∧
    mayTransmit (queued (.goose 2) true) 0 = true ∧ (portOf (queued (.goose 2) true) 0).untimed = [] ∧
    mayTransmit (queued (.goose 2) false) 0 = false ∧
    mayLaunch { queued (.goose 2) true with pair := { up.pair with c0 := 1 } } (.goose 2) = false ∧
    mayLaunch (queued (.goose 2) true) (.goose 2) = true ∧ mayLaunch (queued (.ldf 0 0) true) (.ldf 0 0) = true ∧
    (let s := under [(secGoosePub, 2, [1, 0, 0, 0, 1, 0x03E80004#32, 0])] (queued (.goose 2) true)
    (pubOf s 2).next = some 900 ∧ (pubOf s 2).last = some [(1, 0)] ∧ gpEnabled (gpWords s.cfg.package 2) = true) := by
  decide +kernel

/-- A PTP message at port 0, next to be served; a port with PTP, a link and a master heard. -/
def ptpF : Frame := frameOf 0 (.ptp true)
def announce : Announce := ⟨0, 0, 77, 1, 2000, 77, 128, 6, 0x21, 0, 128, 0, 37, true, none, 0, [], 0⟩
def ptped (p : PtpPort) (queue : List Launch) : State := { under [(secPort, 0, [0x401#32, 0])] up with
  ing := { up.ing with ports := [(0, { Port.init with link := true, waiting := [ptpF], queue := queue })] }
  tb := { up.tb with ports := [(0, p)], slave := some 0 } }

theorem witness_PtpMessages : let m : PtpMsg := ⟨0, 0, 77, 5, 2000, 0, 0, true, -3⟩
    let s := ptped { PtpPort.init with announce := some announce, sync := some (5, 0, 0) } []
    let a := (servePtp 0 2000 s).getD up
    nextServed s = some (ptpF.port, ptpF) ∧ ptpF.body = .ptp true ∧ servePtp m.port m.stamp s = some a ∧
      servePtp 0 2000 up = none ∧ fromMaster a 0 0 77 = true ∧ fromMaster a 0 0 78 = false ∧ m.twoStep = true ∧
      (ptpOf a 0).sync = some (5, 0, 0) ∧ (5 : Nat) ≠ 6 ∧ ptpActive a 0 = true ∧ mayTransmit a 0 = true ∧
      (portOf a 0).untimed = [] ∧ (portOf a 0).queue = [] ∧ ptpActive s 0 = true ∧ mayTransmit s 0 = true ∧
      (let b := (servePtp 0 2000 (ptped PtpPort.init [launchOf (.goose 0)])).getD up
      let e := ptpLaunch b 0 (.pdelayResp 5) 3 5 77 (ingressUnits b 0 2000)
      servePtp 0 2000 (ptped PtpPort.init [launchOf (.goose 0)]) = some b ∧ (portOf b 0).untimed = [] ∧
        untimedFits 0 e b.tb.now b = false) ∧
      pdelayDue s 0 2000 = true ∧ pdelayDue (ptped { PtpPort.init with reqAt := some 2000 } []) 0 (2000 + stepsPerSec - 1) = false ∧
      (⟨0, 5, 0, 0, 0, 1000, 0, true⟩ : PdelayResp).valid = true ∧ ptpActive up 0 = false ∧ announce.domain = tcDomain s.tb.config ∧
      1 ≠ tcDomain s.tb.config ∧ (ptpOf (ptped PtpPort.init []) 0).announce = none ∧
      (ptpOf s 0).announce = some announce ∧ (2000 + 3 * stepsPerSec - 1) - announce.stamp < 3 * logSteps announce.logInterval ∧
      3 * logSteps announce.logInterval ≤ (2000 + 3 * stepsPerSec) - announce.stamp := by decide +kernel

/-- Each limit from both sides: three sync intervals (3 s where no master told its own), the holdover limit, half a second,
three seconds, 1 ns about the second and about the fall (R96, R99, R102, R105). -/
theorem witness_TimeSources :
    (let s := { up with tb := { up.tb with lastPtp := some 0, src := 1 } }
    s.tb.lastPtp = some 0 ∧ s.tb.src = 1 ∧ up.tb.lastPtp = none ∧
      3 * logSteps ((s.tb.slave.map (fun n => (ptpOf s n).logSync)).getD 0) = 3 * stepsPerSec ∧ 3 * logSteps (-4) = 1200000000) ∧
    (let s := { up with tb := { up.tb with state := .holdover, lastMeas := some 0 } }
    s.tb.state = .holdover ∧
      ((tcHoLimit s.tb.config * 1000 : Nat) : Int) * (holdoverEstimate s 6400000000000).2 < (holdoverEstimate s 6400000000000).1 ∧
      ¬ ((tcHoLimit s.tb.config * 1000 : Nat) : Int) * (holdoverEstimate s 6400000).2 < (holdoverEstimate s 6400000).1) ∧
    (let t : Time := 3200000000
    (2 * t + stepsPerSec) / (2 * stepsPerSec) = 1 ∧ (stepsPerSec : Int) ≤ 2 * (t - stepsPerSec).natAbs ∧
      ¬ ((stepsPerSec : Int) ≤ 2 * (t + 1 - stepsPerSec).natAbs)) ∧
    (let s := { up with tb := { up.tb with lastPps := some 0, src := 2 } }
    s.tb.lastPps = some 0 ∧ s.tb.src = 2 ∧ 3 * stepsPerSec ≤ (19200000000 : Time) - 0 ∧ (19199999999 : Time) - 0 < 3 * stepsPerSec ∧
      up.tb.src ≠ 2 ∧ up.tb.lastPps = none) ∧
    (let s := { up with tb := { up.tb with config := modAt (fun w => w ||| 0x2000#32) 0 up.tb.config, ppsFall := some 640000000 } }
    tcPpsMode s.tb.config = 2 ∧ s.tb.ppsFall = some 640000000 ∧ up.tb.ppsFall = none ∧
      (5 * 6 + 32 * (tcPpsAdv s.tb.config : Int)) % 32000000000 ≤ 32 ∧
      ¬ (5 * 7 + 32 * (tcPpsAdv s.tb.config : Int)) % 32000000000 ≤ 32) := by decide +kernel

/-- Edges at an interlock input up to C_100: every 8 µs CLAIM, every 32 µs RELEASE (R299). -/
def edges (us n : Nat) : List Time := (List.range n).reverse.map (fun i => commitInstantOf 240 100 - usSteps (us * i))
def claims : IlkInputs := ⟨edges 8 15, edges 8 15, edges 8 15⟩
def releases : IlkInputs := ⟨edges 32 4, edges 32 4, edges 8 15⟩
def absent : IlkInputs := ⟨[], [], []⟩

theorem witness_ClaimsFollowTheInterlock : NothingWaits standby ∧ paired standby = true ∧ protecting standby = true ∧
    standby.glb.running = true ∧ standby.glb.frozen = false ∧ standby.pair.token = false ∧ holder.pair.token = true ∧
    bothRelease (ilkClasses standby 100 releases) = true ∧ bothRelease (ilkClasses standby 100 claims) = false ∧
    allAbsent (ilkClasses standby 100 absent) = true ∧ allAbsent (ilkClasses standby 100 claims) = false ∧
    (∀ n ∈ lineCauses standby.pair (ilkClasses standby 100 absent), n ∈ standby.pair.faults) ∧
    (let s := { standby with pair := { standby.pair with notice := some 99 } }
    ∃ r, s.pair.notice = some r ∧ s.glb.sheaf = r + 1) ∧
    preferActs { standby with pair := { standby.pair with c0 := 0x1001#32 } } = true ∧ preferActs standby = false ∧
    4800 ≤ { standby.pair with relRun := 4800 }.relRun ∧ ¬ 4800 ≤ { standby.pair with relRun := 4799 }.relRun ∧
    24 ≤ { standby.pair with absRun := 24 }.absRun ∧ { standby.pair with absRun := 23 }.absRun < 24 ∧ standby.pair.copied = none ∧
    bothClaim (ilkClasses holder 100 claims) = true ∧ holder.pair.faults = [] ∧
    lineCauses holder.pair (ilkClasses holder 100 claims) = [0] ∧
    preferActs { holder with pair := { holder.pair with c0 := 0x1001#32 } } = true ∧ preferActs holder = false ∧ standby.pair.roleHeld = none := by
  refine ⟨⟨rfl, rfl⟩, by decide, by decide, by decide, by decide, by decide, by decide, by decide, by decide, by decide, by decide, by decide,
    ⟨99, by decide⟩, by decide, by decide, by decide, by decide, by decide, by decide, by decide, by decide, by decide, by decide, by decide, by decide, rfl⟩

/-- A copy of epoch 2, and the partner's words. -/
def copy2 : EpochCopy := ⟨2, [], [], [], [], [], 1, 1⟩
def partnerWords : PartnerInfo := ⟨1, 0, 0, false, 1, 240, 0, 0, 100, 0⟩

theorem witness_EpochCopiesAreCompared : let s := { standby with pair := { standby.pair with partner := some partnerWords, captures := [copy2] } }
    paired s = true ∧ s.pair.token = false ∧ s.pair.partner = some partnerWords ∧ s.pair.seqAdoptDue = false ∧
      s.pair.copied = none ∧ (let x := { copy2 with epoch := 1 }
      x.epoch ≠ copy2.epoch) ∧ { s.pair with copied := some copy2 }.copied = some copy2 ∧ copy2.nextRecord = 1 ∧ s.pair.captures.find? (fun x => x.epoch == copy2.epoch) = some copy2 ∧
      epochDiff copy2 copy2 = 0 ∧ epochDiff copy2 { copy2 with params := [(0, 1)] } ≠ 0 ∧
      { s.pair with seqAdoptDue := true }.seqAdoptDue = true ∧ paired up = false ∧ paired holder = true ∧ holder.pair.token = true ∧
      (∃ x ∈ ({ holder.pair with captures := [copy2], swap := .marked 0 false 97 } : Pair).captures, x.epoch = 2) ∧ 97 / 48 = 2 ∧
      { holder.pair with partner := some partnerWords }.partner = some partnerWords ∧ (∀ t b j, holder.pair.swap ≠ .marked t b j) := by
  refine ⟨by decide, by decide, by decide, by decide, by decide, by decide, by decide, by decide, by decide, by decide, by decide, by decide, by decide, by decide, by decide,
    ⟨copy2, by decide, by decide⟩, by decide, by decide, fun _ _ _ => nofun⟩

/-- A PF0 command that waits for the standby. -/
def waiting (op : Half) (p : List Byte) : Inflight := ⟨3, op, 0, 1, p, 0, .awaitPartner, false, false⟩

theorem witness_RoleSwaps : paired holder = true ∧ holder.pair.token = true ∧ holder.pair.swap = .idle ∧
    (let s := { holder with pair := { holder.pair with swap := .due 0 false } }
    NothingWaits s ∧ s.pair.swap = .due 0 false) ∧
    (let s := { standby with pair := { standby.pair with swap := .handed 0 false 98 } }
    NothingWaits s ∧ paired s = true ∧ s.pair.swap = .handed 0 false 98 ∧ s.pair.token = false ∧ s.glb.running = true ∧
      s.glb.frozen = false ∧ s.glb.sheaf = 98 + 2 ∧ bothClaim (ilkClasses s s.glb.sheaf releases) = false ∧
      bothRelease (ilkClasses s s.glb.sheaf releases) = true ∧ protecting s = true) ∧
    (let e := waiting 0x0702 []
    let s := flying .pf0 e { holder with pair := { holder.pair with inStep := true } }
    s.bells = [] ∧ s.pf0.inflight = [e] ∧ e.stage = .awaitPartner ∧ e.remote = false ∧ e.flags = 0 ∧ e.engineSeq = 0 ∧
      s.power.online = true ∧ paired s = true ∧ s.pair.token = true ∧ s.pair.inStep = true ∧ s.pair.swap = .idle ∧
      protecting s = true) := by
  refine ⟨by decide, by decide, by decide, ⟨⟨rfl, rfl⟩, by decide⟩,
    ⟨⟨rfl, rfl⟩, by decide, by decide, by decide, by decide, by decide, by decide, by decide, by decide, by decide⟩, by decide⟩

theorem witness_PairCommandsReachBothEngines :
    (let s := standby
    s.bells = [] ∧ s.pf0.inflight = [] ∧ paired s = true ∧ s.power.online = true ∧ s.power.pfail = false ∧ s.pair.token = false ∧
      anyMirror s = true ∧ hasCompletion s .pf0 1 = false ∧ partnerFlag 0 = false ∧ s.pf0.nextSeq.toNat ≤ (1#64).toNat + 64 ∧
      (∃ r, commandSpec 0x0302 = some r ∧ r.mirrored = true) ∧ (∃ r, commandSpec 0x0801 = some r ∧ r.mirrored = false)) ∧
    (let e := waiting 0x0404 [7]
    let s := flying .pf0 e (under [(secTrigger, 7, [1])] holder)
    s.bells = [] ∧ s.pf0.inflight = [e] ∧ s.power.online = true ∧ paired s = true ∧ s.pair.token = true ∧ protecting s = true ∧
      s.cfg.changes = [] ∧ thresherWorks s = true ∧ leAt e.payload 0 1 ≤ 7 ∧
      tgEnabled (tgWords s.cfg.package (leAt e.payload 0 1)) = true) := by
  refine ⟨⟨by decide, by decide, by decide, by decide, by decide, by decide, by decide, by decide, by decide, by decide,
    ⟨_, rfl, by decide⟩, ⟨_, rfl, by decide⟩⟩, by decide⟩

/-- Descriptor 1 of two terminals, path 0 on port 2 in the line-differential role; a frame of terminal 1. -/
def ldWords : List Word := [0x00200001#32, 0x00C80000#32, 0x07D00064#32, 0x00320014#32, 5#32, 0x1A2#32, 0#32, 0#32, 0x180#32, 0#32, 0#32]
def ldMsg : LdfMsg := ⟨1, false, false, true, false, 0, 1, 0, false, 1, 9, 0, 0, [], 0, [⟨0, false, false, [], []⟩]⟩
def ldF2 : Frame := { frameOf 2 (.ldf ldMsg) with etherType := 0x88B5#16, len := ldfLength ldWords false }
def lined (x : LdfTerm) : State := { under [(secLdf, 1, ldWords), (secPort, 2, [9, 0])] up with
  ing := { up.ing with ports := [(2, { Port.init with link := true, waiting := [ldF2] })] }
  ldf := [(1, setTerm 1 x Ldf.init)] }

theorem witness_LineDifferentialChannel :
    (let s := lined { LdfTerm.init with lastSeq := some 8 }
    nextServed s = some (ldF2.port, ldF2) ∧ nextServed s ≠ some (2, frameOf 2 (.ldf ldMsg)) ∧
      ldEntries s.cfg.package = [(1, ldWords)] ∧ ldfPath s.cfg.package ldWords ldF2 = some 0 ∧ ldF2.etherType = 0x88B5#16 ∧
      ldfAccepts (served ldF2 s) ldWords (ldfOf s 1) ldF2 ldMsg = true ∧
      ldfAccepts (served ldF2 s) ldWords (ldfOf s 1) ldF2 { ldMsg with frameSeq := 8 } = false ∧
      ldfPath s.cfg.package ldWords { ldF2 with port := 3 } = none) ∧
    (let s := lined { LdfTerm.init with lastIn := some 0 }
    (termOf (ldfOf s 1) 1).lost = none ∧ (termOf (ldfOf s 1) 1).lastIn = some 0 ∧ ldEnabled (ldfWords s.cfg.package 1) = true ∧
      1 ∈ remotes (ldfWords s.cfg.package 1)) := by decide +kernel

/-- Dovetail port 1 with a link, one subscription of it; a sub-sample of the sheaf in the pipeline and one of a closed one. -/
def dovetailed : State := { under [(secDvtSub, 3, [0x85#32, 0x00500007#32])] up with dovetail := [(1, true)] }

theorem witness_DovetailCarriesSamples : FMap.get dovetailed.dovetail false 1 = true ∧ FMap.get dovetailed.dovetail false 0 = false ∧
    acceptsSheaf dovetailed (303 / 3) = true ∧ acceptsSheaf dovetailed (302 / 3) = false ∧ armedPackage dovetailed = none ∧
    storesFor dovetailed false 5 (303 / 3) = true ∧ dvtMatches dovetailed.cfg.package 1 2 7 = [(3, [0x85#32, 0x00500007#32])] ∧ dovetailed.glb.running = true ∧
    dovetailed.glb.cur ≤ 300 / 3 + 1 ∧ 299 / 3 + 1 < dovetailed.glb.cur ∧ FMap.get dovetailed.dovetail false 1 ≠ false ∧
    dvtConfigured dovetailed.cfg.package 1 = true ∧ dvtConfigured up.cfg.package 1 = false ∧ paired up = false ∧
    FMap.get up.dovetail false 1 ≠ true := by decide

/-- A Tally entry whose snapshot has been taken. -/
def entry (event : Half) : TallyEvent := ⟨event, [], 0, 0, 0xFF, [], true, 0, []⟩
def noted (l : List TallyEvent) : State := { up with tally := { up.tally with queue := l } }
def mirrorless (s : State) : State := { s with store := { s.store with norA := false, norB := false } }

/-- PFAIL_N asserted, with writes in progress or without (R266, R278). -/
def dying (b : Bool) : State := { up with power := { up.power with pfail := true, lastEntry := b, lastSeal := b } }

theorem witness_TallyEntriesAreAccepted : up.glb.gstate ≠ .halted ∧ up.tally.queue = [] ∧
    (noted [entry 0x0D01, entry 0x0201]).tally.queue = entry 0x0D01 :: [entry 0x0201] ∧ (entry 0x0D01).filled = true ∧
    { entry 0x0D01 with filled := false }.filled = false ∧ up.power.inReset = false ∧ anyMirror up = true ∧
    (entry 0x0D01).event ≠ evStoreFailover ∧ (∀ t ∈ up.tally.log, t.seq ≠ up.tally.nextSeq + 1) ∧ up.tally.drops.count = 0 ∧
    up.store.norA = true ∧ up.store.norB = true ∧ up.glb.running = true ∧ anyMirror (mirrorless up) = false ∧
    (noted [entry 0x0D01]).tally.queue = entry 0x0D01 :: [] ∧ up.tally.ring.length < 64 ∧ up.power.pfail = false ∧
    (∀ b, (dying b).power.pfail = true ∧ (dying b).power.lastEntry = b ∧ (dying b).power.lastSeal = b) := by decide

theorem witness_RetainedLogAndFlush :
    (let s := { up with store := { up.store with retainedPending := [(41500, 1, 0)], flush := some (100, 64, [(41500, 1, 0)]) } }
    s.store.retainedPending ≠ [] ∧ anyMirror s = true ∧ s.power.inReset = false ∧ s.power.pfail = false ∧
      s.store.flush = some (100, 64, [(41500, 1, 0)])) ∧
    (List.replicate 128 (41500, (1 : Word), (0 : Half))).length ≤ 128 ∧ 128 < (List.replicate 129 (41500, (1 : Word), (0 : Half))).length ∧
    up.store.retainedPending = [] ∧ anyMirror (mirrorless up) = false ∧ up.store.flush = none := by decide

theorem witness_OperatingSeconds : up.power.powered = true ∧ up.power.inReset = false ∧ anyMirror up = true ∧
    up.glb.opsec.toNat / 64 = up.store.opsecStored.toNat / 64 ∧
    (let s := { up with glb := { up.glb with opsec := 127 }, store := { up.store with opsecStored := 64 } }
    s.glb.opsec.toNat / 64 = s.store.opsecStored.toNat / 64 ∧ (s.glb.opsec + 1).toNat % 64 = 0) ∧
    up.power.pfail = false ∧ up.power.online = true ∧
    { up.store with flush := some (100, 70, []) }.flush = some (100, 70, []) ∧
    (let s := { up with power := { up.power with inReset := true, longHold := true } }
    s.power.powered = true ∧ s.power.inReset = true ∧ s.power.longHold = true) := by decide

/-- The last step of sheaf 0 and the first of sheaf 1 (R14). -/
theorem witness_SheafNumbersOfInstants : (0 : Time) ≤ 0 ∧ (1333332 : Time) < sheafEnd 0 ∧ sheafEnd 0 ≤ (1333333 : Time) ∧
    (1333333 : Time) < sheafEnd 1 ∧ frozen.glb.running = true ∧ frozen.glb.frozen = true ∧
    frozen.glb.sheaf < 18446744073709551616 := by decide

/-- A closed record that waits, after no failure, one and two. -/
def recOf : Rec := ⟨1, 0, 0, 300, 290, 310, 0, 0, 0, [], [], 0, 50, [], 0, 0, 0, 64, 0, true, zeros 64⟩
def recorded (failures : Nat) : State := { up with
  granary := { up.granary with closed := [recOf], walked := true, failures := failures } }

theorem witness_RecordsArePersisted : (∀ n ∈ [0, 1, 2], let s := recorded n
    s.granary.closed = recOf :: [] ∧ s.granary.walked = true ∧ s.power.pfail = false ∧ s.power.inReset = false ∧
      emmcBusy s = false ∧ logUsed s + (recOf.body.length + 4096) ≤ s.granary.capacity ∧ s.granary.failures = n) ∧
    up.store.emmcFailed = false ∧ up.granary.slow = false ∧ up.granary.walked = false ∧ 1 < 2 ∧ 2 ≤ 2 ∧
    (∀ b, (dying b).power.pfail = true ∧ (dying b).power.lastSeal = b) := by decide

theorem witness_SupervisorRestarts : mayRestart up = true ∧ mayRestart State.reset = false ∧ up.glb.running = true ∧
    up.stk.sets.length = 4 ∧ up.power.online = true ∧
    (let s := { up with power := { up.power with online := false } }
    s.power.online = false ∧ s.power.parked = false ∧ s.power.inReset = false ∧ s.glb.gstate ≠ .test ∧ s.pf0.inflight = [] ∧
      s.pf1.inflight = [] ∧ s.bells = [] ∧ s.power.heldEvents = []) ∧
    { up.power with parked := true }.parked = true := by decide

/-- What a start finds: the given firmware slots pass. -/
def found (l : List Bool) : StartFindings := ⟨true, true, true, 4294967296, [], [], [], l, [], [], [], true, true, true, true, false, [], []⟩

theorem witness_StartsKeepTheirState : (found [true, false]).slotPasses[up.trust.activeSlot]? = some true ∧
    slotFault (governed (found [true, false]) up) up.trust.activeSlot = none ∧ (governed (found [true, false]) up).trust = up.trust ∧
    (found [true, false]).testEn = false ∧ { found [true, false] with testEn := true }.testEn = true ∧ (found [true, false]).ddrDigestOk = true ∧
    (up.trust.slotBg[up.trust.activeSlot]?).getD 0 = runningBg up ∧
    (let s := { up with trust := { up.trust with activeSlot := 1, slotBg := [1, 2] } }
    (s.trust.slotBg[s.trust.activeSlot]?).getD 0 ≠ runningBg s) ∧
    (∀ n : Nat, (found [false, false]).slotPasses[n]? ≠ some true) ∧
    (let s := { up with glb := { up.glb with gstate := .boot }, power := { up.power with inReset := true } }
    s.power.powered = true ∧ s.power.inReset = true ∧ s.power.longHold = false ∧ s.power.haltedForGood = false ∧
      s.power.fromHalted = false ∧ s.glb.gstate = .boot) ∧
    (let s := { conf with trust := { conf.trust with activationDue := true } }
    s.trust.activationDue = true ∧ s.power.inReset = false ∧ s.power.haltedForGood = false ∧ s.glb.gstate ≠ .halted ∧ s.glb.gstate ≠ .test) ∧
    (let s := { up with
      power := { up.power with configDue := some (true, []) }, store := { up.store with configInForce := some 0 } }
    s.power.configDue = some (true, []) ∧ s.store.configInForce = some 0) ∧ up.power.configDue = none ∧
    up.power.booting = false ∧ { up.power with booting := true }.booting = true := by
  refine ⟨by decide, by decide, by decide, by decide, by decide, by decide, by decide, by decide, fun n => ?_, by decide⟩
  match n with
  | 0 => decide
  | 1 => decide
  | n + 2 => exact nofun

theorem witness_ResetAndSupplyLines : State.reset.power.powered = false ∧ up.power.powered = true ∧ up.power.inReset = false ∧
    up.power.pfail = false ∧ up.bist.queue = [] ∧ { up.power with pfail := true }.pfail = true ∧ NothingWaits up ∧ up.pf1.inflight = [] ∧
    up.power.vid ≠ 0xF ∧ scanRuns up = false ∧ 299 < 300 ∧ 300 ≤ 300 ∧ 600 < 601 ∧ (999 : Int) < 1000 ∧ State.reset.power.vid = 0xF := by
  refine ⟨by decide, by decide, by decide, by decide, by decide, by decide, ⟨rfl, rfl⟩, rfl, by decide⟩

theorem witness_TrustEvents : let e : Inflight := ⟨3, 0x0901, 0, 1, [], 5, .running, false, true⟩
    let s := { up with pf0 := { up.pf0 with inflight := [e] }, trust := { up.trust with installResumed := true, install := some 1 } }
    s.bells = [] ∧ s.pf0.inflight = [e] ∧ e.opcode = 0x0901 ∧ e.resumed = true ∧ e.stage = .running ∧ e.remote = false ∧
      e.engineSeq ≠ 0 ∧ paired s = false ∧ s.power.linkUp = true ∧ s.pf0.d3hot = false ∧ s.pf0.held = [] ∧
      ringUsed s.pf0 < 256 ∧ s.pf0.busMaster = false ∧ s.power.online = true ∧ s.trust.installResumed = true ∧
      s.trust.slotState[otherSlot s]? = some 0 := by decide

/-- A holder that drives a toggling wire meets the invariant, and its step that loses a supply answers a next state. -/
theorem witness_StepKeepsInvariant :
    let s := { holder with wires := [(5, { Wire.init with gate := true, toggling := true, level := true })], pending := [.supplyOutOfRange] }
    Invariant s ∧ ∃ t, step s = .next t := by
  refine ⟨⟨rfl, fun n w h _ => by decide, fun _ => ⟨by decide, by decide⟩⟩, _, rfl⟩

-- One step, or one function, against a table or a worked example of spec/.

/-- The state after a command. -/
def after (c : Instr) (s : State) : State :=
  match exec c s with
  | .next t => t
  | _ => s

/-- 01_sheaf.md, the example after R22: sheaf 4,800,002 is [1,000.000 416 667 s, 1,000.000 625 s); at 1,200 µs its close
deadline is 1,655.000 µs and its commit 1,825.000 µs after 1,000 s, in steps of 156.25 ps. -/
theorem test_sheaf_times : sheafOf (sheafEnd 4800001) = 4800002 ∧ sheafOf (sheafEnd 4800001 - 1) = 4800001 ∧
    sheafEnd 4800002 = 6400004000000 ∧ commitInstantOf 1200 4800002 = 6400011680000 ∧
    closeDeadlineOf 1200 4800002 = 6400010592000 ∧ subInstant 14400007 = 6400003111111 := by decide

/-- 01_sheaf.md, the example after R20: D_max 600 µs at 14,400/s with 6 ASDUs needs 919 µs, 900 µs needs 1,219. -/
theorem test_minimum_lpipe : svMinLpipe [1, 0x000D0000#32, 0, 0, 0, 600] = 919 ∧
    svMinLpipe [1, 0x000D0000#32, 0, 0, 0, 900] = 1219 := by decide

/-- 01_sheaf.md, the example after R32: SELECT_GROUP 3 accepted while GLB_SHEAF reads 9,600,000 governs from 9,600,003. -/
theorem test_select_group_boundary :
    let s := flying .pf0 (fresh 0x0203 [5, 0, 3]) { zoned with glb := { zoned.glb with sheaf := 9600000, cur := 9600001 } }
    (after (.commandAcceptance .pf0 3 false false) s).cfg.changes = [⟨9600003, .pf0, 1, .group 5 3⟩] := by decide

/-- 00_scope.md, the example of RL words: the high word is the one latched. -/
theorem test_rl_latch : let s := { up with glb := { up.glb with sheaf := 0x2FFFFFFFE } }
    let a := after (.rlLowRead .pf1 0x30) s
    let b := after (.rlLowRead .pf1 0x34) { a with glb := { a.glb with sheaf := 0x300000000 } }
    a.pf1.readData = 0xFFFFFFFE#32 ∧ b.pf1.readData = 2#32 := by decide

/-- 05_zones_and_elements.md: 300 ms is 1,440 sheaves and 200 ms 960; 09_trip_path.md: DT_MS 20 is 288 sub-samples;
10_trigger_acquisition.md and 08_logic_program.md count alike. -/
theorem test_counts : sheavesOfMs 300 = 1440 ∧ sheavesOfMs 200 = 960 ∧ pairLimit 0x51#32 = 288 ∧ presetCycles 10 2 = 24 := by decide

/-- 08_logic_program.md: OP of zone 12, slot 5 is boolean 3,369 and its VAL word 1,812. -/
theorem test_point_numbers : let s := { up with insts := [(389, { Inst.init with bools := [⟨0, 0⟩, ⟨1, 0⟩], words := [⟨77, 0⟩] })] }
    imagePoint s ⟨false, 3369⟩ = ⟨1, 0⟩ ∧ imagePoint s ⟨true, 1812⟩ = ⟨77, 0⟩ := by decide

/-- 09_trip_path.md, the example of Tenon: 600 A at 0.0041106 A per unit is 3,226 LSB. -/
theorem test_tenon_threshold : slotThreshold (F32.ofRatio 600 1) (F32.ofRatio 41106 10000000) 0 100 = 3226 := by decide +kernel

/-- 11_granary_winnow.md, the example of S_max: 24 local channels at 14,400/s and 8 digital points, 57 segments, and the 29
of the initial window of the twentieth record. -/
theorem test_record_bytes :
    let chs := (List.range 24).map (BitVec.ofNat 32) ++ List.replicate 8 0x20000#32
    ceilDiv 43200 768 = 57 ∧ recordBytes none chs 57 = 3476839 ∧ recordBytes none chs 29 = 1773319 := by decide +kernel

/-- 04_timebase.md, the example of a two-step Sync: θ = +0.875 ns, in units of 2^-16 ns. -/
theorem test_sync_offset :
    let s := { up with tb := { up.tb with
      config := [0#32, 0x07D001F4#32, 100000#32, 0x01F401F4#32, 0x00006464#32, 10#32, 0#32, 0#32, 0#32] ++
        [0#32, 0#32, 3500#32] ++ List.replicate 29 0#32 ++ List.replicate 32 0#32 ++ [0#32, 0#32, 50000#32]
      ports := [(2, { PtpPort.init with delays := [800 * 65536] })] } }
    syncOffset s 2 (ingressUnits s 2 (640000000000 + 13468)) (100000000000 * 65536) (1250 * 65536) = 57344 := by decide

/-- 15_host_registers.md, the example of a snapshot: CNT_SV_MISSING (131) stands at image offset 0x0618, window 0x2718 on
page 0; the record of zone 100 on page 2 at 0x2600. -/
theorem test_snapshot_window : let x := { up.pf0 with snpImage := (List.range 3200).map (BitVec.ofNat 32) }
    snpReg x 0x718 = BitVec.ofNat 32 (0x618 / 4) ∧ snpReg { x with snpPage := 2 } 0x600 = BitVec.ofNat 32 (0x2300 / 4) ∧
      0x200 + 8 * 131 = 0x618 ∧ 0xA00 + 64 * 100 = 0x2300 := by decide +kernel

/-- CRC-32 of IEEE 802.3 (R261): its published check value over the nine digits. -/
theorem test_crc32 : crc32 [0x31, 0x32, 0x33, 0x34, 0x35, 0x36, 0x37, 0x38, 0x39] = 0xCBF43926#32 := by decide +kernel

/-- SHA-384 of FIPS 180-4 (R382): its published digest of "abc" begins CB 00 75 3F 45 A3 5E 8B. -/
theorem test_sha384 : (sha384 [0x61, 0x62, 0x63]).take 8 = [0xCB, 0x00, 0x75, 0x3F, 0x45, 0xA3, 0x5E, 0x8B] := by decide +kernel

/-- binary32 (R112): 1.5 + 2.25, 1 − 0.1, an overflow, a quotient rounded to nearest even. -/
theorem test_binary32 : F32.add 0x3FC00000 0x40100000 = 0x40700000 ∧ F32.sub 0x3F800000 0x3DCCCCCD = 0x3F666666 ∧
    F32.div 0x3F800000 0x40400000 = 0x3EAAAAAB ∧ F32.mul 0x40490FDB 0x40000000 = 0x40C90FDB := by decide +kernel

/-- SET_RANGE 0x0200 for 239 µs and for 3,201 µs, DONE for 240 (R17, R342); SETTINGS_REJECTED is STK0 bit 6 (R282). -/
theorem test_set_lpipe :
    let f (n : Nat) : State := after (.commandAcceptance .pf0 3 false false) (flying .pf0 (fresh 0x0204 (leBytes 2 n)) conf)
    (FMap.get? (f 239).pf0.ring 0).map (fun r => r.status) = some 0x0200 ∧ (f 239).stk.sets = [64, 0, 0, 0] ∧
      (FMap.get? (f 3201).pf0.ring 0).map (fun r => r.status) = some 0x0200 ∧
      (FMap.get? (f 240).pf0.ring 0).map (fun r => r.status) = some 0 ∧ (f 240).glb.lpipeSet = 240 ∧ (f 240).pf0.nextSeq = 2 := by
  decide

/-- SPOT_CONVERT completes 0x0001 with CFLAGS bit 2 and counts CNT 163 (R57, R341). -/
theorem test_spot_convert : let t := after (.commandAcceptance .pf0 3 false false) (flying .pf0 (fresh 0x0802 [5]) up)
    (FMap.get? t.pf0.ring 0).map (fun r => (r.status, r.cflags)) = some (1, 4) ∧ FMap.get t.cnt 0 163 = 1 := by decide

/-- FORCE of a status point is not permitted, of a general point it waits for the next cycle start (R196, R197). -/
theorem test_force :
    let f (n : Nat) : State := after (.commandAcceptance .pf0 3 false false) (flying .pf0 (fresh 0x0303 (zeros 4 ++ leBytes 4 n ++ leBytes 4 1)) up)
    (FMap.get? (f 200).pf0.ring 0).map (fun r => r.status) = some 0x0103 ∧
      (f 41472).cfg.changes = [⟨102, .pf0, 1, .force ⟨false, 41472⟩ 1⟩] := by decide +kernel

/-- A doorbell through PF1 for a command of PF0 completes 0x0103, an unlisted opcode 0x0100 (R334). -/
theorem test_doorbell_refusals :
    (FMap.get? (after (.setLpipe (sub .pf1 3 1 2 (leBytes 2 240) [])) conf).pf1.ring 0).map (fun r => r.status) = some 0x0103 ∧
      (FMap.get? (after (.badOpcodeDoorbell (sub .pf0 3 1 0 [] []) 0x7777) conf).pf0.ring 0).map (fun r => r.status) = some 0x0100 ∧
      (FMap.get? (after (.getInfo (sub .pf0 3 2 0 [] [])) conf).pf0.ring 0).map (fun r => r.status) = some 0x0102 := by decide

/-- An unpaired engine that protects drives a gated wire at the oscillator's edge (R217) and at no other instant; without a supply it does not (R413). -/
theorem test_trip_wire : let s := { up with wires := [(17, { Wire.init with gate := true })] }
    (wireOf (after (.tripWireStartStop 17 (timeAtClock s.tb s.tb.edge)) s) 17).toggling = true ∧
      (wireOf (after (.tripWireStartStop 17 (timeAtClock s.tb s.tb.edge)) (after .supplyOutOfRange s)) 17).toggling = false ∧
      (wireOf (after (.tripWireStartStop 17 (timeAtClock s.tb s.tb.edge)) { s with pair := { s.pair with c0 := 1 } }) 17).toggling = false ∧
      (wireOf (after (.tripWireStartStop 17 (timeAtClock s.tb s.tb.edge + 1)) s) 17).toggling = false := by decide

/-- Two failing windows make a readback fault: CNT_TRB_FAIL (161), STK0 bit 11, Tally 0x0803 (R220). -/
theorem test_readback : let t := after (.readbackWindowEnd 191 8) (wired { Wire.init with gate := true, failing := 1 })
    (wireOf t 191).fault = true ∧ FMap.get t.cnt 0 161 = 1 ∧ t.stk.sets = [0x800, 0, 0, 0] ∧
      t.tally.queue.map (fun e => e.event) = [0x0803] := by decide

/-- The debounced value turns at the third differing sub-sample (R222). -/
theorem test_debounce : let s := under [(secBi, 10, [3])] up
    debounced (after (.biDebounceChange 10 300 301) s) 10 = false ∧ debounced (after (.biDebounceChange 10 300 302) s) 10 = true := by
  decide

/-- W1C waits for the boundary, in PF0 only (R281, R326). -/
theorem test_w1c : let s := { up with stk := { up.stk with regs := [0x40, 0, 0, 0] } }
    (after (.stickyW1cWrite .pf0 0 0x40) s).stk.regs = [0x40, 0, 0, 0] ∧ (after (.stickyW1cWrite .pf0 0 0x40) s).stk.clears = [0x40, 0, 0, 0] ∧
      after (.stickyW1cWrite .pf1 0 0x40) s = s := by decide

/-- GLB_OPSEC is stored at the 64th second (R377). -/
theorem test_opsec : let s := { up with glb := { up.glb with opsec := 63 } }
    (after .opsecTick s).glb.opsec = 64 ∧ (after .opsecTick s).store.opsecStored = 64 ∧
      (after .opsecTick up).store.opsecStored = 0 := by decide

/-- IDCODE is always there; SAMPLE outside TEST is BYPASS (R400). -/
theorem test_tap : (after (.tapInstruction 0x01) up).power.tap = 0x01 ∧ (after (.tapInstruction 0x02) up).power.tap = 0xFF ∧
    (after (.tapInstruction 0x02) { up with glb := { up.glb with gstate := .test } }).power.tap = 0x02 := by decide

/-- Little slack raises VID, much slack below 100 °C lowers it, 14 and 0 are its ends (R416). -/
theorem test_vid : (after (.vidStep 299 700 0) up).power.vid = 8 ∧ (after (.vidStep 300 601 999) up).power.vid = 6 ∧
    (after (.vidStep 300 601 1000) up).power.vid = 7 ∧
    (after (.vidStep 299 700 0) { up with power := { up.power with vid := 14 } }).power.vid = 14 := by decide

/-- A first power-up counts a power cycle and starts cold; BOOT_COMPLETE starts commits (R365, R377). -/
theorem test_power_up : let t := after (.powerUp (found [true, true])) State.reset
    t.glb.pwrcyc = 1 ∧ t.power.booting = true ∧ t.glb.gstate = .boot ∧ t.power.online = false ∧
      (after (.bootComplete 10126 2000 []) t).glb.running = true ∧ (after (.bootComplete 10126 2000 []) t).glb.cur = 10126 := by
  decide +kernel

/-- RST_N after RESET_LONG_HOLD clears the counters; a short one keeps them (R370, R371). -/
theorem test_restart_kinds : let s := { up with cnt := [(131, 7)] }
    FMap.get (after (.rstNRelease false (found [true, true])) (after .rstNAssert s)).cnt 0 131 = 7 ∧
      FMap.get (after (.rstNRelease false (found [true, true])) (after .resetLongHold (after .rstNAssert s))).cnt 0 131 = 0 := by
  decide +kernel

/-- HALTED makes a toggling wire static and keeps what was committed (R35, R365). -/
theorem test_halted : let s := { up with wires := [(17, { Wire.init with toggling := true, level := true, gate := true })] }
    let t := after (.commitFailure 20000) s
    t.glb.gstate = .halted ∧ (wireOf t 17).toggling = false ∧ t.glb.sheaf = 100 := by decide +kernel

/-- A claim needs RELEASE on both lines and PREFER, or 24 boundaries of absence (R299). -/
theorem test_claims : (after (.releaseClaim releases) { standby with pair := { standby.pair with c0 := 0x1001#32 } }).pair.token = true ∧
    (after (.releaseClaim claims) { standby with pair := { standby.pair with c0 := 0x1001#32 } }).pair.token = false ∧
    (after (.absenceClaim absent) { standby with pair := { standby.pair with absRun := 24 } }).pair.token = true ∧
    (after (.absenceClaim absent) { standby with pair := { standby.pair with absRun := 23 } }).pair.token = false := by decide +kernel

/-- A record takes the next number and its event 0x0E04 (R261, R353). -/
theorem test_record_persisted : let t := after (.recordPersisted true false 0) (recorded 0)
    t.granary.nextNo = 2 ∧ t.granary.closed = [] ∧ (FMap.get? t.pf0.ring 0).map (fun r => r.status) = some 0x0E04 := by decide +kernel

/-- Frames of the wrong length count in CNT_PB_RX_BAD, good ones that match nothing in CNT_PB_RX_GOOD only (R61, R83). -/
theorem test_frames : let s := ported [(secPort, 0, [1, 0])] svF
    FMap.get (after (.portFrameRx { svF with len := 63 }) s).cnt 0 32 = 1 ∧ FMap.get (after (.portFrameRx svF) s).cnt 0 0 = 1 ∧
      (portOf (after (.portFrameRx svF) s) 0).waiting = [svF] := by decide

/-- P-384 (R9): the abscissa of twice the base point, as published with the curve. -/
theorem test_p384_double : (pointMul 2 2 p384G).map (fun p => p.1) =
    some 0x08D999057BA3D2D969260045C55B97F089025959A6F434D651D207D19FB96E9E4FE0E86EBE0E64F85B96A9C75295DF61 := by
  decide +kernel

/-- log2 10 = 3.321928…, sin 1 = 0.841470…, atan2(1, −1) = 2.356194… (published values). -/
theorem test_elementary : Fix.log2 10 1 * 1000000 / fixOne = 3321928 ∧ Fix.sin fixOne * 1000000 / fixOne = 841470 ∧
    Fix.arg 1 (-1) * 1000000 / fixOne = 2356194 := by decide +kernel

/-- Ports in turn, and class 0 before class 2 (R63). -/
theorem test_service_order : let s := { up with ing := { up.ing with
      ports := [(0, { Port.init with waiting := [svF, ptpF] }), (5, { Port.init with waiting := [frameOf 5 (.goose gmsg)] })] } }
    nextServed s = some (0, ptpF) ∧ nextServed (served ptpF s) = some (5, frameOf 5 (.goose gmsg)) ∧
      nextServed (served (frameOf 5 (.goose gmsg)) (served ptpF s)) = some (0, svF) := by decide +kernel

/-- A Pdelay_Req is answered by two frames, the response first (R97). -/
theorem test_pdelay_answer :
    (after (.pdelayReqRx ⟨0, 0, 9, 5, 2000, 0, 0, false, 0⟩) (ptped PtpPort.init [])).sent.map (fun x => x.kind) =
      [.pdelayFollow 5, .pdelayResp 5] := by decide +kernel

/-- PPS_OUT rises on the second and falls 100 ms later, not before (R105). -/
theorem test_pps_out : let s := { up with tb := { up.tb with config := modAt (fun w => w ||| 0x2000#32) 0 up.tb.config } }
    let a := after (.ppsOutPulse true stepsPerSec) s
    (after (.ppsOutPulse true (stepsPerSec + 10)) s).tb.ppsOut = false ∧ a.tb.ppsOut = true ∧
      (after (.ppsOutPulse false (stepsPerSec + 639999990)) a).tb.ppsOut = true ∧
      (after (.ppsOutPulse false (stepsPerSec + 640000000)) a).tb.ppsOut = false := by decide +kernel

end Sys2Proof.Tests
end

section
/-!
SUPPORT. Frames of shared operations that the proofs about a sheaf's cycle cite: folds, Tally entries, the passing of time.
-/
namespace Sys2Proof.Machine.SheafProofs

/-- A fold keeps the parts of a state that each of its steps keeps. -/
theorem foldl_keeps {α β : Type} (p : State → β) (f : State → α → State) (h : ∀ s a, p (f s a) = p s) (l : List α)
    (s : State) : p (l.foldl f s) = p s := by
  induction l generalizing s with
  | nil => rfl
  | cons a l ih => exact (ih _).trans (h s a)

/-- The same where the fold carries another value with the state. -/
theorem foldl_keeps_snd {α β γ : Type} (p : State → β) (f : γ × State → α → γ × State)
    (h : ∀ c s a, p (f (c, s) a).2 = p s) (l : List α) (x : γ × State) : p (l.foldl f x).2 = p x.2 := by
  induction l generalizing x with
  | nil => rfl
  | cons a l ih => exact (ih _).trans (h x.1 x.2 a)

/-- An entry that is queued, or counted as dropped, touches the queue, the counters and the sticky record alone (R273, R275). -/
theorem tally_frame (event : Half) (detail : List Quad) (s : State) :
    { tally event detail s with tally := s.tally, cnt := s.cnt, stk := s.stk } = s := by
  unfold tally dropEvent
  split
  · dsimp only
    split
    · exact congrArg (fun x : State => { x with tally := s.tally, cnt := s.cnt, stk := s.stk }) (sticky_spec 2 8 _)
    · rfl
  · rfl

@[simp] theorem advance_cfg (t : Time) (s : State) : (advance t s).cfg = s.cfg := by
  unfold advance; split <;> rfl

@[simp] theorem advance_zones (t : Time) (s : State) : (advance t s).zones = s.zones := by
  unfold advance; split <;> rfl

end Sys2Proof.Machine.SheafProofs
end

section
/-!
SUPPORT. The flip of a commit and the results of a lane (01_sheaf.md R23, R25, R35; 13_redundancy.md R285).
-/
namespace Sys2Proof.Machine.SheafProofs
open Sys2Proof.Safety

/-- The flag for held zones in the message of a flip (R396). -/
theorem heldFlag_eq (s : State) :
    2 * boolNat ((enabledZones s).any (fun z => (zoneOf s z).held)) =
      if ∃ z ∈ enabledZones s, (zoneOf s z).held = true then 2 else 0 := by
  simp only [boolNat, List.any_eq_true, mul_ite, mul_one, mul_zero]

/-- A flip that is in time by R35, said with its flags as numbers (R396). -/
theorem flipDone_eq (d : Nat) (s : State) :
    let n := advance (commitInstantOf (runningLpipe s) s.glb.sheaf + nsSteps d) s
    let a := { n with glb := { n.glb with flipFrom := none } }
    let m := if 2000 < d then sticky 0 5 (tally 0x0103 [item s.glb.sheaf, item d] a) else a
    flipDone d s = traceMsg 0x11 (beBytes 4 (s.glb.sheaf % 4294967296) ++ traceTs m ++
      beBytes 1 ((if 2000 < d then 1 else 0) + if ∃ z ∈ enabledZones s, (zoneOf s z).held = true then 2 else 0)) m := by
  intro n a m
  have hzones : enabledZones a = enabledZones s := by simp only [enabledZones, a, n, advance_cfg]
  have hzone : zoneOf a = zoneOf s := by funext z; simp only [zoneOf, a, n, advance_zones]
  have hflag := heldFlag_eq a
  rw [hzones, hzone] at hflag
  simp only [flipDone, decide_eq_true_eq]
  simp only [boolNat, decide_eq_true_eq] at hflag ⊢
  rw [← hflag, ← hzones, ← hzone]

/-- Settles O25: the flip is FLIP_COMPLETE's only effect, and lateness adds the entry and the sticky bit. -/
theorem flipCompletesOrIsLate : Obligations.FlipCompletesOrIsLate := by
  intro d s hd
  have hin : ¬ 20000 < d := by omega
  refine ⟨fun hr => ?_, fun hr => ?_⟩
  · show execFlipComplete d s = _
    rw [execFlipComplete, if_neg hin, if_pos hr, flipDone_eq]
  · show execFlipComplete d s = _
    rw [execFlipComplete, if_neg hin, if_neg (by simp [hr])]

/-- A lane that serves, with no test of it under way, delivers the live zones at its positions (R23). -/
theorem laneDone_serving {n p : Nat} {agrees : Bool} {s : State} (hr : s.glb.running = true) (hf : s.glb.frozen = true)
    (hp : protecting s = true) (ht : ∀ x ∈ s.lanes.suspects, x.lane ≠ n) (hs : laneState s n = .serving)
    (hpos : positionOf s n = some p) :
    let a := (takeFree s).2
    ∃ b, laneDone n agrees s = traceMsg 0x12 b
      { a with
        lanes := { s.lanes with delivered := n :: s.lanes.delivered }
        results := ((positionsOf a n).flatMap (zonesAt a)).foldl
          (fun m z => FMap.set m z (evalZone a z s.glb.cur)) s.results } := by
  intro a
  have htest : s.lanes.suspects.any (fun x => x.lane == n || laneState s n == .spare) = false := by
    simpa [hs] using ht
  have hs' : laneState a n = .serving := hs
  have hpos' : positionOf a n = some p := hpos
  unfold laneDone
  rw [if_neg (by simp [hr, hf, hp, htest])]
  dsimp only
  rw [hs', hpos']
  exact ⟨_, rfl⟩

/-- The spare records whether its words agreed, while no test stands in its way (R285). -/
theorem laneDone_spare {n : Nat} {agrees : Bool} {s : State} (hr : s.glb.running = true) (hf : s.glb.frozen = true)
    (hp : protecting s = true) (ht : s.lanes.suspects = []) (hs : laneState s n = .spare) (hc : comparing s = true) :
    let a := (takeFree s).2
    ∃ b, laneDone n agrees s =
      traceMsg 0x12 b { a with lanes := { s.lanes with compared := true, mismatch := !agrees } } := by
  intro a
  have hs' : laneState a n = .spare := hs
  have hc' : comparing a = true := hc
  unfold laneDone
  rw [if_neg (by simp [hr, hf, hp, ht])]
  dsimp only
  rw [hs']
  dsimp only
  rw [if_pos hc']
  exact ⟨_, rfl⟩

/-- Settles O27: a serving lane's delivery and the spare's comparison, everything else kept by the trace message. -/
theorem laneDelivers : Obligations.LaneDelivers := by
  intro n agrees s hr hf hp ht
  refine ⟨fun p hs hpos => ?_, fun hs hsus hc => ?_⟩
  · obtain ⟨b, hb⟩ := laneDone_serving (agrees := agrees) hr hf hp ht hs hpos
    exact ⟨_, congrArg Host.Outcome.next hb, rfl⟩
  · obtain ⟨b, hb⟩ := laneDone_spare (agrees := agrees) hr hf hp hsus hs hc
    exact ⟨_, congrArg Host.Outcome.next hb, rfl⟩

end Sys2Proof.Machine.SheafProofs
end

section
/-!
SUPPORT. What the commit of a sheaf numbers and shows (01_sheaf.md R14, R25; 15_host_registers.md R331, R332).
-/
namespace Sys2Proof.Machine.SheafProofs
open Sys2Proof.Safety

/-- What numbers and shows a commit: GLB_SHEAF, the sheaf in the pipeline, its freeze, a decided step, the two ZST buffers
(R14, R25, R331, R332). -/
structure Numbers where
  sheaf : Nat
  cur : Nat
  frozen : Bool
  step : Option Int
  zst : FMap (List Word)
  hidden : FMap (List Word)

/-- The numbers of a state that commits sheaf k with the records given (R25, R331). -/
def Numbers.commit (n : Numbers) (k : Nat) (records : FMap (List Word)) : Numbers :=
  { n with sheaf := k, zst := records, hidden := n.zst }

def Numbers.ofCore (c : Core) : Numbers := ⟨c.sheaf, c.cur, c.frozen, c.step, c.zst, c.zstHidden⟩

def numbers (s : State) : Numbers := ⟨s.glb.sheaf, s.glb.cur, s.glb.frozen, s.tb.step, s.zst, s.zstHidden⟩

theorem numbers_of_core {s t : State} (h : core t = core s) : numbers t = numbers s := congrArg Numbers.ofCore h

theorem numbers_of_keeps {s t : State} (h : CmdKeeps s t) : numbers t = numbers s := congrArg Numbers.ofCore h.calm

theorem numbers_gateWire (k n : Nat) (cmd : Bool) (s : State) : numbers (gateWire k n cmd s) = numbers s := by
  unfold gateWire
  extract_lets w z x t trip back toggle alone s1 s2
  have h1 : numbers s1 = numbers s := rfl
  have h2 : numbers s2 = numbers s1 := by
    unfold s2; split
    · exact numbers_of_core (by simp only [core_sticky, core_count, core_tally])
    · rfl
  split
  · exact (numbers_of_core (by simp only [core_sticky, core_tally])).trans (h2.trans h1)
  · exact h2.trans h1

/-- The trip oscillator's next edge (R216) is no part of the numbers. -/
theorem numbers_edge (s : State) (t : Nat) : numbers { s with tb := { s.tb with edge := t } } = numbers s := rfl

theorem numbers_gateAll (k : Nat) (s : State) : numbers (gateAll k s) = numbers s := by
  unfold gateAll gatesWith
  extract_lets ws s1 zs s2
  have h1 : numbers s1 = numbers s := foldl_keeps numbers _ (fun s n => numbers_gateWire k n _ s) _ _
  have h2 : numbers s2 = numbers s1 := numbers_of_core (core_foldl _ (fun s z => core_zoneTrips k z s) _ _)
  exact (numbers_edge s2 _).trans (h2.trans h1)

theorem numbers_loseToken (s : State) : numbers (loseToken s) = numbers s :=
  congrArg Numbers.ofCore (parts_loseToken s).1

theorem numbers_tokenByState (s : State) : numbers (tokenByState s) = numbers s := by
  unfold tokenByState
  split
  · rfl
  · exact (numbers_of_core (core_withRole _ _)).trans (numbers_loseToken s)

theorem numbers_applyState (k : Nat) (s : State) : numbers (applyState k s) = numbers s := by
  unfold applyState
  cases s.glb.next with
  | none => rfl
  | some new =>
    dsimp only
    split
    · rfl
    · generalize hu : postEvent _ _ _ = u
      have hu : numbers u = numbers s := by
        rw [← hu]
        exact (numbers_of_core (core_postEvent _ _ _)).trans rfl
      split
      · exact (numbers_tokenByState _).trans hu
      · split
        · exact (numbers_of_core (core_logicStart _ _ _ _)).trans hu
        · exact hu

theorem numbers_changeStates (k : Nat) (l : List Nat) (b : Bool) (s : State) :
    numbers (changeStates k l b s) = numbers s := by
  unfold changeStates
  extract_lets s1
  have h1 : numbers s1 = numbers s :=
    (numbers_applyState k _).trans (numbers_of_core ((core_lockCheck _ _).trans (core_markZones _ _ _)))
  clear_value s1
  exact h1

theorem numbers_swapBoundary (k : Nat) (s : State) : numbers (swapBoundary k s) = numbers s := by
  unfold swapBoundary
  extract_lets p
  split
  · split <;> rfl
  · split <;> rfl
  · split
    · exact numbers_of_core (by simp only [core_answerSwap, core_tally]; rfl)
    · rfl
  · rfl

theorem numbers_pairBoundary (k : Nat) (x : IlkInputs) (s : State) : numbers (pairBoundary k x s) = numbers s := by
  unfold pairBoundary
  split
  · exact numbers_of_core (core_withRole _ _)
  · refine (numbers_of_core (core_withRole _ _)).trans ?_
    extract_lets p0 s0 s1 x0 s2
    have h1 : numbers s1 = numbers s := numbers_of_core (core_ilkBoundary _ _ _)
    have h2 : numbers s2 = numbers s1 := by
      unfold s2
      split
      · exact numbers_of_core (core_adoptEpoch _ _ _)
      · rfl
    exact (numbers_swapBoundary k _).trans ((numbers_of_core (core_epochEnd _ _)).trans (h2.trans h1))

/-- What the end of boundary C_k makes of a state's numbers: with no step decided, sheaf k + 1 is next and open (R25); a step
moves neither GLB_SHEAF nor what is shown (R36). -/
structure Opens (k : Nat) (s t : State) : Prop where
  sheaf : t.glb.sheaf = s.glb.sheaf
  zst : t.zst = s.zst
  hidden : t.zstHidden = s.zstHidden
  next : s.tb.step = none → t.glb.cur = k + 1 ∧ t.glb.frozen = false

theorem Opens.of_numbers {k : Nat} {s s' t t' : State} (h : Opens k s t) (hs : numbers s = numbers s')
    (ht : numbers t' = numbers t) : Opens k s' t' where
  sheaf := (congrArg Numbers.sheaf ht).trans (h.sheaf.trans (congrArg Numbers.sheaf hs))
  zst := (congrArg Numbers.zst ht).trans (h.zst.trans (congrArg Numbers.zst hs))
  hidden := (congrArg Numbers.hidden ht).trans (h.hidden.trans (congrArg Numbers.hidden hs))
  next := fun h' =>
    have hn := h.next ((congrArg Numbers.step hs).trans h')
    ⟨(congrArg Numbers.cur ht).trans hn.1, (congrArg Numbers.frozen ht).trans hn.2⟩

theorem opens_nextSheaf (j : Nat) (s : State) : Opens j s (nextSheaf j s) := by
  unfold nextSheaf
  cases hs : s.tb.step with
  | none => exact ⟨rfl, rfl, rfl, fun _ => ⟨rfl, rfl⟩⟩
  | some d =>
    have hc : core (shiftLaunches d (thresherRestart (3 * j + 2) 6 (3 * firstSheafAfter (s.tb.now + d))
        (count 145 1 (tally 0x0104 [item j, item (firstSheafAfter (s.tb.now + d)), item (stepsNs d)] s)))) = core s := by
      simp only [core_shiftLaunches, core_thresherRestart, core_count, core_tally]
    exact ⟨congrArg Core.sheaf hc, congrArg Core.zst hc, congrArg Core.zstHidden hc,
      fun h => absurd (hs.symm.trans h) (by simp)⟩

theorem opens_afterBoundary (k : Nat) (s : State) : Opens k s (afterBoundary k s) := by
  unfold afterBoundary
  extract_lets s1 s2
  have h1 : numbers (dropSummary (ringFlush s1.tally.queue.length s1)) = numbers s :=
    numbers_of_core (by simp only [s1, core_dropSummary, core_ringFlush, core_fillSnapshots, core_snapshotStart])
  have h2 : Opens k s s2 := (opens_nextSheaf k _).of_numbers h1 rfl
  split
  · exact h2.of_numbers rfl (numbers_of_core (core_latchCycle _ _))
  · exact h2

/-- A commit shows sheaf k's records, keeps those shown before in the hidden buffer, and opens the next sheaf (R25, R331). -/
theorem opens_commitSheaf (x : IlkInputs) (a : List Nat) (b : Bool) (s : State) :
    ∃ u v : State, numbers v = (numbers s).commit s.glb.cur (zstCommit s.glb.cur u).zst ∧
      Opens s.glb.cur v (commitSheaf x a b s) := by
  unfold commitSheaf
  extract_lets k s1 lock g0 t0 s2 s3
  have h1 : numbers s1 = numbers s := numbers_of_core (core_advance _ _)
  clear_value s1 lock
  have h2 : numbers s2 = { numbers s with sheaf := k } :=
    (numbers_of_core ((core_stickyCommit _ _).trans (core_markMismatch _ _))).trans
      (congrArg (fun n : Numbers => { n with sheaf := k }) h1)
  have h3 : numbers s3 = numbers s2 := by
    unfold s3; split
    · exact numbers_of_core (core_ldfBoundary _ _)
    · rfl
  clear_value s2 s3
  have h4 : numbers (laneCheck k s3).2 = numbers s3 := numbers_of_core (core_laneCheck k s3)
  generalize laneCheck k s3 = r at h4 ⊢
  obtain ⟨f, s4⟩ := r
  dsimp only at h4 ⊢
  have h5 : numbers (publishSheaf k f s4) = numbers s4 := numbers_of_core (core_publishSheaf _ _ _)
  generalize publishSheaf k f s4 = s5 at h5 ⊢
  have h6 : numbers (if protecting s5 = true then gateAll k s5 else s5) = numbers s5 := by
    split
    · exact numbers_gateAll _ _
    · rfl
  generalize (if protecting s5 = true then gateAll k s5 else s5) = s6 at h6 ⊢
  have h7 : numbers (endUnforce k (thresherLater k (publishGoose k s6)).1) = numbers s6 :=
    numbers_of_core (by simp only [core_endUnforce, core_thresherLater, core_publishGoose])
  have h8 := h7.trans (h6.trans (h5.trans (h4.trans (h3.trans h2))))
  generalize endUnforce k (thresherLater k (publishGoose k s6)).1 = s8 at h8 ⊢
  refine ⟨s8, zstCommit k s8, ?_, (opens_afterBoundary k _).of_numbers
    ((numbers_pairBoundary _ _ _).trans ((numbers_changeStates _ _ _ _).trans
      (numbers_of_core (by simp only [core_applyChanges, core_reassign]))))
    ((numbers_of_keeps (keeps_settle _)).trans (numbers_of_core (core_laterOf _ _ _)))⟩
  exact congrArg (fun n : Numbers => (⟨n.sheaf, n.cur, n.frozen, n.step, (zstCommit k s8).zst, n.zst⟩ : Numbers)) h8

/-- The entry of a listed key in a table made from a list of keys. -/
theorem get?_table {α : Type} (f : Nat → α) (l : List Nat) {z : Nat} (hz : z ∈ l) :
    FMap.get? (l.map (fun n => (n, f n))) z = some (f z) := by
  induction l with
  | nil => cases hz
  | cons n l ih =>
    by_cases hn : n = z
    · simp [FMap.get?, hn]
    · have hl : z ∈ l := (List.mem_cons.mp hz).resolve_left (fun h => hn h.symm)
      simp [FMap.get?, hn, ih hl]

/-- A record of the ZST: the sheaf number before and after its body (R331). -/
theorem zstCommit_record (k : Nat) (s : State) {z : Nat} (hz : z < 160) :
    ∃ body : List Word, body.length = 12 ∧
      FMap.get? (zstCommit k s).zst z = some ([lo32 k, hi32 k] ++ body ++ [lo32 k, hi32 k]) := by
  have hget : FMap.get? (zstCommit k s).zst z = some (zstRecord s k z) :=
    get?_table (zstRecord s k) _ (List.mem_range.mpr hz)
  rw [hget]
  unfold zstRecord
  extract_lets zw x t out map status body
  refine ⟨body, ?_, rfl⟩
  unfold body
  split
  · rfl
  · exact List.length_replicate

/-- COMMIT_INSTANT of a frozen sheaf commits it. -/
theorem commitInstant_opens (x : IlkInputs) (a : List Nat) (b : Bool) {s : State} (hr : s.glb.running = true)
    (hf : s.glb.frozen = true) :
    ∃ t u v : State, exec (.commitInstant x a b) s = .next t ∧
      numbers v = (numbers s).commit s.glb.cur (zstCommit s.glb.cur u).zst ∧ Opens s.glb.cur v t := by
  obtain ⟨u, v, hv, ho⟩ := opens_commitSheaf x a b s
  refine ⟨together (commitSheaf x a b) s, u, v, ?_, hv, ho.of_numbers rfl (numbers_of_core (core_together _ _))⟩
  show execCommitInstant x a b s = _
  rw [execCommitInstant, if_pos ⟨hr, hf⟩]

/-- Settles O23: the commit's numbers, with each record written by zstCommit. -/
theorem commitPublishesSheaf : Obligations.CommitPublishesSheaf := by
  intro x a b s
  refine ⟨fun hr hf hstep => ?_, fun h => ?_⟩
  · obtain ⟨t, u, v, ht, hv, ho⟩ := commitInstant_opens x a b hr hf
    have hnext := ho.next ((congrArg Numbers.step hv).trans hstep)
    have hzst : t.zst = (zstCommit s.glb.cur u).zst := ho.zst.trans (congrArg Numbers.zst hv)
    refine ⟨t, ht, ho.sheaf.trans (congrArg Numbers.sheaf hv), hnext.1, hnext.2,
      ho.hidden.trans (congrArg Numbers.hidden hv), fun z hz => ?_⟩
    rw [hzst]
    exact zstCommit_record _ _ hz
  · show execCommitInstant x a b s = _
    have hn : ¬ (s.glb.running = true ∧ s.glb.frozen = true) := by
      rcases h with h | h <;> simp [h]
    rw [execCommitInstant, if_neg hn]

end Sys2Proof.Machine.SheafProofs
end

section
/-!
SUPPORT. The sheaf of an instant, and the fields of a time (01_sheaf.md R14; 04_timebase.md R85).
-/
namespace Sys2Proof.Machine.SheafProofs
open Sys2Proof.Safety

/-- A boundary lies within a third of a step of its exact place (R14, R16). -/
theorem sheafEnd_bounds (k : Nat) :
    ((k : Int) + 1) * 4000000 - 1 ≤ 3 * sheafEnd k ∧ 3 * sheafEnd k ≤ ((k : Int) + 1) * 4000000 + 1 := by
  simp only [sheafEnd, roundHalfAway, Time]
  split <;> omega

/-- Half a step at most lies between a boundary and its exact place (R14). -/
theorem sheafEnd_rounded (k : Nat) : 2 * (3 * sheafEnd k - ((k : Int) + 1) * 4000000).natAbs ≤ 3 := by
  have near (a b : Int) (h : b - 1 ≤ a) (h' : a ≤ b + 1) : 2 * (a - b).natAbs ≤ 3 := by omega
  exact near _ _ (sheafEnd_bounds k).1 (sheafEnd_bounds k).2

/-- sheafOf answers the sheaf that holds the instant (R14). Its candidate floor(4,800 t) is off by one only where a boundary's
rounding has moved past t, so within half a step of the exact boundary. -/
theorem sheafOf_spec (t : Time) (h : 0 ≤ t) :
    t < sheafEnd (sheafOf t) ∧ (sheafOf t = 0 ∨ sheafEnd (sheafOf t - 1) ≤ t) ∧
      ((sheafOf t : Int) = 3 * t / 4000000 ∨ ∃ k : Nat, 2 * (3 * t - ((k : Int) + 1) * 4000000).natAbs < 3) := by
  simp only [Time] at t h
  have hk : (((t * 3 / 4000000).toNat : Nat) : Int) = t * 3 / 4000000 := by omega
  simp only [sheafOf, Time]
  generalize (t * 3 / 4000000).toNat = k at hk
  have hb := sheafEnd_bounds k
  have hn := sheafEnd_bounds (k + 1)
  have hp := sheafEnd_bounds (k - 1)
  have hpp := sheafEnd_bounds (k - 1 - 1)
  simp only [Time] at hb hn hp hpp ⊢
  split_ifs with late early
  · exact ⟨by omega, .inr late, .inr ⟨k, by omega⟩⟩
  · exact ⟨early.2, by omega, .inr ⟨k - 1, by omega⟩⟩
  · exact ⟨by omega, by omega, .inl (by omega)⟩

/-- Boundaries rise, so the sheaf of an instant is the only one that holds it (R14). -/
theorem sheaf_unique {t : Time} {j k : Nat} (hj : t < sheafEnd j) (hj' : j = 0 ∨ sheafEnd (j - 1) ≤ t)
    (hk : t < sheafEnd k) (hk' : k = 0 ∨ sheafEnd (k - 1) ≤ t) : j = k := by
  have := sheafEnd_bounds j
  have := sheafEnd_bounds k
  have := sheafEnd_bounds (j - 1)
  have := sheafEnd_bounds (k - 1)
  simp only [Time] at *
  omega

/-- Seconds, nanoseconds and fraction of R85 give the instant back. -/
theorem time_fields (t : Time) :
    10240 * (t - stepsPerSec * secOf t) = 65536 * nsOf t + fracOf t ∧ nsOf t < 1000000000 ∧ fracOf t < 65536 := by
  simp only [secOf, nsOf, fracOf, stepsPerSec, Time]
  omega

/-- The two halves of GLB_SHEAF (R322). -/
theorem liveWord_sheaf (v : View) (s : State) (h : s.glb.sheaf < 18446744073709551616) :
    (liveWord s v 0x30).toNat + 4294967296 * (liveWord s v 0x34).toNat = s.glb.sheaf := by
  have hlo : liveWord s v 0x30 = lo32 s.glb.sheaf := rfl
  have hhi : liveWord s v 0x34 = hi32 s.glb.sheaf := rfl
  rw [hlo, hhi, lo32, hi32, BitVec.toNat_ofNat, BitVec.toNat_ofNat]
  omega

/-- Settles O52: the bounds of a rounded boundary decide the sheaf, and a commit shows its number. -/
theorem sheafNumbersOfInstants : Obligations.SheafNumbersOfInstants := by
  refine ⟨sheafEnd_rounded, fun t ht => ?_, fun x a b s hr hf => ?_, liveWord_sheaf⟩
  · obtain ⟨hlt, hle, hfloor⟩ := sheafOf_spec t ht
    exact ⟨hlt, hle, fun k hk hk' => sheaf_unique hk hk' hlt hle, hfloor, time_fields t⟩
  · obtain ⟨t, u, v, ht, hv, ho⟩ := commitInstant_opens x a b hr hf
    exact ⟨t, ht, ho.sheaf.trans (congrArg Numbers.sheaf hv)⟩

end Sys2Proof.Machine.SheafProofs
end

section
/-!
SUPPORT. Entry to HALTED after a failure of the sheaf fabric (01_sheaf.md R35; 04_timebase.md R111).
-/
namespace Sys2Proof.Machine.SheafProofs
open Sys2Proof.Safety

/-- What an entry to HALTED works on or keeps (R35): settings, samples, zones, elements, results, logic, host memory, and what
waits for the supervisor, doorbells and commands in flight. -/
structure Committed where
  cfg : Settings
  samp : Sampling
  zones : FMap Zone
  insts : FMap Inst
  results : FMap ZoneResult
  logic : Logic
  mem : List Host.Cell
  bells : List Bell
  flight0 : List Inflight
  flight1 : List Inflight

def committed (s : State) : Committed :=
  ⟨s.cfg, s.samp, s.zones, s.insts, s.results, s.logic, s.hostMem, s.bells, s.pf0.inflight, s.pf1.inflight⟩

/-- Nothing waits for the supervisor: no doorbell, no command in flight. -/
def Committed.idle (c : Committed) : Prop := c.bells = [] ∧ c.flight0 = [] ∧ c.flight1 = []

theorem raiseIn_inflight (n : Nat) (x : ViewState) : (raiseIn n x).inflight = x.inflight := by
  have h := congrArg ViewState.inflight (raiseIn_spec n x)
  exact h

theorem postIn_inflight (up : Bool) (e : RingEntry) (x : ViewState) : (postIn up e x).inflight = x.inflight := by
  unfold postIn
  split
  · rfl
  · dsimp only
    split
    · exact raiseIn_inflight _ _
    · rfl

theorem committed_postEvent (code : Half) (arg : Quad) (s : State) : committed (postEvent code arg s) = committed s := by
  unfold postEvent
  split
  · simp only [committed, postIn_inflight]
  · rfl

theorem committed_tally (event : Half) (detail : List Quad) (s : State) :
    committed (tally event detail s) = committed s := by
  have h := congrArg committed (tally_frame event detail s)
  exact h

theorem committed_withRole (f : State → State) (s : State) : committed (withRole f s) = committed (f s) := by
  unfold withRole
  dsimp only
  split
  · rfl
  · exact committed_postEvent _ _ _

/-- With no command in flight no SWAP_ROLES waits for the token's loss. -/
theorem answerSwap_idle (status : Half) (result : List Byte) {s : State} (h : s.pf0.inflight = []) :
    answerSwap status result s = s := by
  simp [answerSwap, swapCommands, h]

theorem committed_loseToken {s : State} (h : s.pf0.inflight = []) : committed (loseToken s) = committed s := by
  unfold loseToken
  split
  · rfl
  · dsimp only
    rw [answerSwap_idle (h := by exact h)]
    rfl

theorem committed_tokenByState {s : State} (h : s.pf0.inflight = []) : committed (tokenByState s) = committed s := by
  unfold tokenByState
  split
  · rfl
  · exact (committed_withRole _ _).trans (committed_loseToken h)

theorem noToken_tokenByState (s : State) : (core (tokenByState s)).noToken = (core s).noToken := by
  unfold tokenByState
  split
  · rfl
  · exact (congrArg Core.noToken (core_withRole _ _)).trans (parts_loseToken s).1

/-- No trip wire toggles or stands at the active level (R218, R365). -/
def Static (s : State) : Prop := ∀ n w, (n, w) ∈ s.wires → w.toggling = false ∧ w.level = false

theorem static_of_core {s t : State} (h : core t = core s) (hs : Static s) : Static t := by
  have hw : t.wires = s.wires := congrArg Core.wires h
  unfold Static
  rw [hw]
  exact hs

theorem static_releaseWires (s : State) : Static (releaseWires s) := by
  intro n w h
  simp only [releaseWires, FMap.mapVals, List.mem_map, Prod.mk.injEq] at h
  obtain ⟨p, -, -, rfl⟩ := h
  exact ⟨rfl, rfl⟩

theorem static_tokenByState {s : State} (h : Static s) : Static (tokenByState s) := by
  unfold tokenByState
  split
  · exact h
  · refine static_of_core (core_withRole _ _) ?_
    unfold loseToken
    split
    · exact h
    · exact static_of_core (core_answerSwap _ _ _) (static_releaseWires _)

/-- With nothing waiting, the supervisor does nothing after an event. -/
theorem settle_idle {s : State} (h : (committed s).idle) : settle s = s := by
  obtain ⟨hbells, hflight, -⟩ := h
  have hwake : wake s = s := by
    have hlen : s.pf0.inflight.length = 0 := congrArg List.length hflight
    unfold wake
    rw [hlen]
    exact ite_self s
  have hbell : s.bells.length = 0 := congrArg List.length hbells
  unfold settle
  rw [hwake]
  dsimp only
  rw [hbell]
  rfl

/-- Entry to HALTED (R35, R365): commits stop, the results are discarded, every wire is static, the rest stays committed. -/
structure Halts (s t : State) : Prop where
  gstate : t.glb.gstate = .halted
  stopped : t.glb.running = false
  sheaf : t.glb.sheaf = s.glb.sheaf
  static : Static t
  kept : committed t = { committed s with results := [] }

theorem halts_halt (cause dump : Nat) (fault : List Nat) {s : State} (h : s.pf0.inflight = []) :
    Halts s (halt cause dump fault s) := by
  unfold halt
  extract_lets old runs g0 s1 again p0 s2 s3 s4
  have hc : core s4 = core s2 := by
    have h3 : core s3 = core s2 := by
      unfold s3
      split
      · rfl
      · exact core_tally _ _ _
    unfold s4
    split
    · exact (core_startDump _ _ _).trans h3
    · exact h3
  have hk : committed s4 = committed s2 := by
    have h3 : committed s3 = committed s2 := by
      unfold s3
      split
      · rfl
      · exact committed_tally _ _ _
    unfold s4
    split
    · exact (show committed (startDump dump fault s3) = committed s3 from rfl).trans h3
    · exact h3
  have ht x := (core_postEvent 0x0E02 x s4).trans hc
  have hn x := (congrArg Core.noToken (ht x)).trans (noToken_tokenByState _)
  refine ⟨congrArg Core.gstate (hn _), congrArg Core.running (hn _), congrArg Core.sheaf (hn _),
    static_of_core (ht _) (static_tokenByState (static_releaseWires _)), ?_⟩
  exact (committed_postEvent _ _ _).trans (hk.trans (committed_tokenByState h))

/-- The halt of an engine for which nothing waits is all that happens. -/
theorem Halts.settle_eq {s t : State} (h : Halts s t) (hi : (committed s).idle) : settle t = t := by
  refine settle_idle ?_
  rw [h.kept]
  exact hi

/-- A flip that failed leaves what the host saw before it (R25, R35). -/
theorem unflip_spec (s : State) :
    committed (unflip s) = committed s ∧ (unflip s).glb.sheaf = s.glb.flipFrom.getD s.glb.sheaf := by
  unfold unflip
  cases s.glb.flipFrom with
  | none => exact ⟨rfl, rfl⟩
  | some g => exact ⟨rfl, rfl⟩

theorem haltable_iff (s : State) (h : s.power.inReset = false) :
    haltable s = true ↔ (s.glb.running = true ∨ s.power.powered = true ∧ s.glb.gstate = .boot) ∧
      s.glb.gstate ≠ .halted ∧ s.glb.gstate ≠ .test := by
  simp [haltable, h, and_assoc]

/-- What HALTED shows of state s before it, with GLB_SHEAF k (R35, R365). -/
def HaltedWith (k : Nat) (s t : State) : Prop :=
  t.glb.gstate = .halted ∧ t.glb.running = false ∧ t.results = [] ∧
    (∀ n w, (n, w) ∈ t.wires → w.toggling = false ∧ w.level = false) ∧ t.cfg = s.cfg ∧ t.zones = s.zones ∧
    t.insts = s.insts ∧ t.logic = s.logic ∧ t.samp = s.samp ∧ t.hostMem = s.hostMem ∧ t.glb.sheaf = k

theorem Halts.haltedWith {s u t : State} (h : Halts u t) (hu : committed u = committed s) :
    HaltedWith u.glb.sheaf s t := by
  have hk : committed t = { committed s with results := [] } := by rw [h.kept, hu]
  exact ⟨h.gstate, h.stopped, congrArg Committed.results hk, h.static, congrArg Committed.cfg hk,
    congrArg Committed.zones hk, congrArg Committed.insts hk, congrArg Committed.logic hk, congrArg Committed.samp hk,
    congrArg Committed.mem hk, h.sheaf⟩

theorem flipFails_haltedWith (d : Nat) {s : State} (hh : haltable s = true) (hr : s.glb.running = true)
    (hi : (committed s).idle) : HaltedWith (s.glb.flipFrom.getD s.glb.sheaf) s (flipFails d s) := by
  obtain ⟨hkept, hsheaf⟩ := unflip_spec s
  have hi' : (committed (unflip s)).idle := by rw [hkept]; exact hi
  have hhalt := halts_halt 3 2 [s.glb.sheaf, d] hi'.2.1
  rw [flipFails, if_pos ⟨hh, hr⟩, hhalt.settle_eq hi', ← hsheaf]
  exact hhalt.haltedWith hkept

theorem flipFails_unhaltable {d : Nat} {s : State} (h : haltable s = false) : flipFails d s = s := by
  rw [flipFails, if_neg (by simp [h])]

/-- Settles O26: the three failures of the sheaf fabric all end in halt, and only where the engine can be halted. -/
theorem fabricFailureHalts : Obligations.FabricFailureHalts := by
  intro d s hbells h0 h1 hreset
  have hi : (committed s).idle := ⟨hbells, h0, h1⟩
  refine ⟨fun c hc hhalted htest => ?_, fun hd => ?_, fun c hc hg => ?_⟩
  · have hh (hr : s.glb.running = true ∨ s.power.powered = true ∧ s.glb.gstate = .boot) : haltable s = true :=
      (haltable_iff s hreset).mpr ⟨hr, hhalted, htest⟩
    rcases hc with ⟨rfl, hd, hr⟩ | ⟨rfl, hd, hr⟩ | ⟨rfl, hr⟩
    · refine ⟨flipFails d s, ?_, flipFails_haltedWith d (hh (.inl hr)) hr hi⟩
      show execCommitFailure d s = _
      rw [execCommitFailure, if_pos hd]
    · refine ⟨flipFails d s, ?_, flipFails_haltedWith d (hh (.inl hr)) hr hi⟩
      show execFlipComplete d s = _
      rw [execFlipComplete, if_pos hd]
    · have hhalt := halts_halt 4 3 [] hi.2.1
      refine ⟨halt 4 3 [] s, ?_, hhalt.haltedWith rfl⟩
      show execTcxoFail s = _
      rw [execTcxoFail, if_pos (hh hr), hhalt.settle_eq hi]
  · show execCommitFailure d s = _
    rw [execCommitFailure, if_neg (by omega)]
  · have hh : haltable s = false := by
      rw [Bool.eq_false_iff, Ne, haltable_iff s hreset]
      rintro ⟨-, hn, ht⟩
      exact hg.elim hn ht
    rcases List.mem_cons.mp hc with rfl | hc
    · show execCommitFailure d s = _
      rw [execCommitFailure, flipFails_unhaltable hh, ite_self]
    · obtain rfl := List.mem_singleton.mp hc
      show execTcxoFail s = _
      rw [execTcxoFail, if_neg (by simp [hh])]

end Sys2Proof.Machine.SheafProofs
end

section
/-!
SUPPORT. Commands whose effect falls on a boundary are held for it at acceptance (01_sheaf.md R27, R28, R30;
16_mailbox.md R336).
-/
namespace Sys2Proof.Machine.SheafProofs
open Sys2Proof.Safety

/-- Command e as its acceptance numbers it (R336). -/
def numbered (e : Inflight) (s : State) : Inflight := { e with engineSeq := s.store.engineSeq + 1, stage := .running }

/-- The bookkeeping of an acceptance (R336, R337): N, the journal's window, ENGINE_SEQ. -/
def acceptedView (v : View) (e : Inflight) (s : State) : ViewState :=
  { s.view v with
    nextSeq := e.hostSeq + 1
    inflight := (s.view v).inflight.map (fun y => if sameCommand y e then numbered e s else y)
    completed := (s.view v).completed.filter (fun d => decide (e.hostSeq.toNat < d.hostSeq.toNat + 64)) }

/-- The state in which an accepted command is executed; b: the fields of its trace message (R396). -/
def acceptedState (v : View) (e : Inflight) (b : List Byte) (s : State) : State :=
  traceMsg 0x20 b { s.setView v (acceptedView v e s) with store := { s.store with engineSeq := s.store.engineSeq + 1 } }

/-- A command without FLAGS.PARTNER is executed here once it is accepted (R294, R336). -/
theorem accept_eq (v : View) {e : Inflight} {s : State} (h : e.flags = 0) :
    ∃ b, accept v e s = execute s.glb.sheaf v (numbered e s) (acceptedState v e b s) := by
  have hp : ¬ (v = .pf0 ∧ partnerFlag e.flags = true) := by
    rintro ⟨-, hf⟩
    rw [h] at hf
    exact absurd hf (by decide)
  unfold accept
  dsimp only
  rw [if_neg hp]
  cases v <;> exact ⟨_, rfl⟩

theorem inSlot_alone {v : View} {e : Inflight} {s : State} (h : Journaling v e s) : inSlot s v e.slot = some e := by
  simp [inSlot, findInflight, h.flight, h.local']

/-- The journal record of the one command in flight makes it run (R336). -/
theorem acceptance_journaling {v : View} {e : Inflight} {s : State} (h : Journaling v e s) :
    ∃ b, acceptance v e.slot false false s = execute s.glb.sheaf v (numbered e s) (acceptedState v e b s) := by
  obtain ⟨b, hb⟩ := accept_eq v (s := s) h.plain
  refine ⟨b, ?_⟩
  rw [← hb]
  have hm : retireMirrors false false 0 s = s := rfl
  have hstage : ¬ (e.stage ≠ .journaling ∨ s.power.online = false) := by simp [h.stage, h.online]
  have hpair : ¬ (v = .pf0 ∧ paired s = true ∧ s.pair.token = true) := by simp [h.single]
  unfold acceptance
  rw [inSlot_alone h]
  dsimp only
  rw [hm, if_neg hstage, if_pos h.mirror, if_neg hpair]

theorem acceptedState_view (v : View) (e : Inflight) (b : List Byte) (s : State) :
    (acceptedState v e b s).view v = acceptedView v e s := by cases v <;> rfl

theorem acceptedView_inflight {v : View} {e : Inflight} {s : State} (h : Journaling v e s) :
    (acceptedView v e s).inflight = [numbered e s] := by
  simp [acceptedView, h.flight, sameCommand]

/-- A command alone in flight is not held back (R338), so it runs once it is accepted, where the state permits it (R342). -/
theorem execute_alone {v : View} {e : Inflight} {s : State} {c : CmdSpec} (h : Journaling v e s) (b : List Byte)
    (hc : commandSpec e.opcode = some c) (hstate : c.states.contains s.glb.gstate = true)
    (hbus : c.desc.isSome = true → (s.view v).busMaster = true) :
    execute s.glb.sheaf v (numbered e s) (acceptedState v e b s) =
      runEffect s.glb.sheaf v (numbered e s) (acceptedState v e b s) := by
  have hfree : blocked (acceptedState v e b s) v (numbered e s) = false := by
    simp [blocked, acceptedState_view, acceptedView_inflight h, holdsBack]
  have hspec : commandSpec (numbered e s).opcode = some c := hc
  have hglb : (acceptedState v e b s).glb = s.glb := by cases v <;> rfl
  have hmaster : ¬ (c.desc.isSome = true ∧ (numbered e s).remote = false ∧
      ((acceptedState v e b s).view v).busMaster = false) := by
    rw [acceptedState_view]
    rintro ⟨hd, -, hb⟩
    exact absurd ((hbus hd).symm.trans hb) (by simp)
  rw [execute, if_neg (by simp [hfree])]
  unfold runNow
  rw [hspec]
  dsimp only
  rw [hglb, hstate, if_neg (by simp), if_neg hmaster]

/-- A command that waits for its boundary leaves the supervisor nothing to do (R338). -/
theorem settle_waiting {s : State} {e : Inflight} {j : Nat} (hbells : s.bells = []) (hflight : s.pf0.inflight = [e])
    (hstage : e.stage = .awaitBoundary j) : settle s = s := by
  have hready : readyCommand s .pf0 = none := by
    simp [readyCommand, State.view, hflight, hstage]
  have hwake : wake s = s := by
    have hlen : s.pf0.inflight.length = 1 := congrArg List.length hflight
    simp [wake, hlen, wakeView, hready]
  simp [settle, hwake, hbells, takeDoorbells]

/-- A change that leaves views, trace, stores, supplies and doorbells alone, so that it is the same change in the state that
an acceptance leaves. -/
def Besides (e : Inflight) (f : State → State) (s : State) : Prop :=
  (f s).power = s.power ∧ (f s).bells = s.bells ∧ ∀ b, f (acceptedState .pf0 e b s) =
    { f s with
      pf0 := acceptedView .pf0 e s, pf1 := s.pf1, trace := (acceptedState .pf0 e b s).trace
      store := { (f s).store with engineSeq := s.store.engineSeq + 1 } }

/-- A command whose effect is to be held for a boundary waits there, with f done and nothing else (R30, R336). -/
theorem waitsAs_of_runEffect {e : Inflight} {s : State} {c : CmdSpec} {j : Nat} {f : State → State}
    (h : Journaling .pf0 e s) (hc : commandSpec e.opcode = some c) (hstate : c.states.contains s.glb.gstate = true)
    (hbus : c.desc.isSome = true → s.pf0.busMaster = true) (hf : Besides e f s)
    (hrun : ∀ b, runEffect s.glb.sheaf .pf0 (numbered e s) (acceptedState .pf0 e b s) =
      setStage .pf0 (numbered e s) (.awaitBoundary j) (f (acceptedState .pf0 e b s))) :
    waitsAs .pf0 e (.awaitBoundary j) (f s) s := by
  obtain ⟨hpower, hbells, hf⟩ := hf
  obtain ⟨b, hb⟩ := acceptance_journaling h
  rw [execute_alone h b hc hstate hbus, hrun, hf] at hb
  have hflight : (acceptedView .pf0 e s).inflight = [numbered e s] := acceptedView_inflight h
  generalize hu : setStage .pf0 (numbered e s) (.awaitBoundary j) _ = u at hb
  have hview : u.pf0 = { acceptedView .pf0 e s with inflight := [{ numbered e s with stage := .awaitBoundary j }] } := by
    rw [← hu]
    simp [setStage, State.view, State.setView, hflight, sameCommand]
  have hsettle : settle u = u := by
    refine settle_waiting (e := { numbered e s with stage := .awaitBoundary j }) (j := j) ?_ ?_ rfl
    · rw [← hu]
      exact hbells.trans h.bells
    · rw [hview]
  refine ⟨u, ?_, ⟨?_, ?_⟩, ?_, ?_, ?_, ?_, ?_, ?_⟩
  · show execCommandAcceptance .pf0 e.slot false false s = _
    rw [execCommandAcceptance, hb, hsettle]
  · exact congrArg ViewState.nextSeq hview
  · rw [← hu]; rfl
  · exact congrArg ViewState.inflight hview
  · rw [← hu]; rfl
  · rw [← hu]; rfl
  · rw [← hu]; rfl
  · intro w hw
    cases w with
    | pf0 => exact absurd rfl hw
    | pf1 => rw [← hu]; rfl
  · rw [← hu]; rfl

theorem besides_withChange (j : Nat) (e : Inflight) (c : Change) (s : State) :
    Besides e (withChange j .pf0 e c) s := ⟨rfl, rfl, fun _ => rfl⟩

/-- With no other change pending, a command accepted in the sheaf period g takes effect from g + 3 (R27, and the example after
R32). -/
theorem effectSheaf_first (v : View) {s : State} (h : s.cfg.changes = []) :
    effectSheaf v s.glb.sheaf s = s.glb.sheaf + 3 := by
  simp [effectSheaf, earlierSheaf, h]

theorem periodOf_eq (s : State) : periodOf s = loadedPeriod s.logic.program := by
  unfold periodOf loadedPeriod
  cases s.logic.program <;> rfl

/-- With no other change pending, a logic command takes effect at the first cycle start from sheaf g + 2 on (R27, R194). -/
theorem cycleSheaf_first (v : View) {s : State} (h : s.cfg.changes = []) :
    cycleSheaf v s.glb.sheaf s =
      loadedPeriod s.logic.program * ceilDiv (s.glb.sheaf + 2) (loadedPeriod s.logic.program) := by
  simp [cycleSheaf, earlierSheaf, h, periodOf_eq]

theorem programPending_none {s : State} (h : s.cfg.changes = []) : programPending s = false := by
  simp [programPending, h]

theorem commitPending_none {s : State} (h : s.cfg.changes = []) : commitPending s = false := by
  simp [commitPending, h]

theorem doSelectGroup_holds (g : Nat) (v : View) {e : Inflight} {s : State} (hn : leAt e.payload 2 1 ≤ 7)
    (hz : leAt e.payload 0 2 ∈ enabledZones s ∧ znGroupSrc (zoneWords s.cfg.package (leAt e.payload 0 2)) = 0 ∨
      leAt e.payload 0 2 = 0xFFFF) :
    doSelectGroup g v e s =
      holdChange v e (effectSheaf v g s) (.group (leAt e.payload 0 2) (leAt e.payload 2 1)) s := by
  unfold doSelectGroup
  rcases hz with ⟨hmem, hsrc⟩ | hall
  · simp [hn, hmem, hsrc]
  · simp [hn, hall]

theorem doParamWrite_holds (g : Nat) (v : View) {e : Inflight} {s : State} (h : s.cfg.changes = [])
    (hp : ∃ l d, s.logic.program = some l ∧ l.program.params[leAt e.payload 0 2]? = some d ∧
      paramOk d (wordAt e.payload 4) = true) :
    doParamWrite g v e s =
      holdChange v e (cycleSheaf v g s) (.param (leAt e.payload 0 2) (wordAt e.payload 4)) s := by
  obtain ⟨l, d, hl, hd, hok⟩ := hp
  simp [doParamWrite, programPending_none h, hl, hd, hok]

theorem doForce_holds (g : Nat) (v : View) {e : Inflight} {s : State} (h : s.cfg.changes = [])
    (hw : leAt e.payload 0 1 ≤ 1) (hgen : isGeneral (namedPoint e) = true) (htrip : tripClassSoon s (namedPoint e) = false)
    (hroom : (forcedKeys s).length < 256) :
    doForce g v e s = holdChange v e (cycleSheaf v g s) (.force (namedPoint e) (wordAt e.payload 8)) s := by
  have hw' : ¬ 1 < leAt e.payload 0 1 := by omega
  have hroom' : ¬ 256 ≤ (forcedKeys s).length := by omega
  simp [doForce, programPending_none h, hw', hgen, htrip, hroom']

theorem doUnforce_holds (g : Nat) (v : View) {e : Inflight} {s : State} (h : s.cfg.changes = [])
    (hw : leAt e.payload 0 1 ≤ 1) :
    doUnforce g v e s = holdChange v e (cycleSheaf v g s)
      (.unforce (if (namedPoint e).idx = 0xFFFFFFFF then none else some (namedPoint e))) s := by
  have hw' : ¬ 1 < leAt e.payload 0 1 := by omega
  simp [doUnforce, programPending_none h, hw']

theorem doRestartLogic_holds (g : Nat) (v : View) {e : Inflight} {s : State} (hw : leAt e.payload 0 1 ≤ 1) :
    doRestartLogic g v e s = holdChange v e (cycleSheaf v g s) (.restartLogic (leAt e.payload 0 1 == 1)) s := by
  have hw' : ¬ 1 < leAt e.payload 0 1 := by omega
  simp [doRestartLogic, hw']

theorem doManualTrigger_holds (g : Nat) (v : View) {e : Inflight} {s : State} (hworks : thresherWorks s = true)
    (hp : leAt e.payload 0 1 ≤ 7) (hen : tgEnabled (tgWords s.cfg.package (leAt e.payload 0 1)) = true) :
    doManualTrigger g v e s = holdChange v e (effectSheaf v g s) (.manual (leAt e.payload 0 1)) s := by
  have hp' : ¬ 7 < leAt e.payload 0 1 := by omega
  simp [doManualTrigger, hworks, hp', hen]

theorem doConfigSnapsets_holds (g : Nat) (v : View) {e : Inflight} {s : State} (hlen : descLen e 0 = 8960)
    (hok : ∀ n < 64, snapsetOk (((wordsAt (readBuffer e 0 s) 0 2240).drop (35 * n)).take 35) = true) :
    doConfigSnapsets g v e s =
      holdChange v e (effectSheaf v g s) (.snapsets (wordsAt (readBuffer e 0 s) 0 2240)) s := by
  have hall : (List.range 64).all
      (fun n => snapsetOk (((wordsAt (readBuffer e 0 s) 0 2240).drop (35 * n)).take 35)) = true :=
    List.all_eq_true.mpr (fun n hn => hok n (List.mem_range.mp hn))
  rw [doConfigSnapsets, if_neg (by simp [hlen])]
  dsimp only
  rw [if_pos hall]

/-- A staged package that passes every check of R28, R32 and R352 is held for its sheaf and armed for it. -/
theorem doCommit_holds (v : View) {e : Inflight} {s : State} {q : Package} {j : Nat} (h : s.cfg.changes = [])
    (hq : s.cfg.staged = some q) (hdigest : digestBytes q.digest = slice e.payload 8 48)
    (hj : leAt e.payload 0 8 = j ∧ j ≠ 0 ∨ leAt e.payload 0 8 = 0 ∧ s.glb.gstate = .config ∧ j = s.glb.sheaf + 8)
    (hlow : s.glb.sheaf + 8 ≤ j) (hhigh : j ≤ s.glb.sheaf + 288000)
    (hstep : s.logic.staged.isSome = true → j % loadedPeriod s.logic.program = 0 ∧ j % loadedPeriod s.logic.staged = 0)
    (hfits : commitFits s q = true) (hunion : unionOk s.cfg.package q = true)
    (hmembers : membersDeclared q ((comingProgram s).map (fun l => l.program)) = none)
    (htaint : packageTaintOk q ((comingProgram s).map (fun l => l.program)) (forcedThen s s.logic.staged.isSome) = true) :
    doCommit s.glb.sheaf v e s =
      armSubscriptions j q (holdChange v e j (.package j s.logic.staged.isSome) s) := by
  have hsheaf : (if leAt e.payload 0 8 = 0 ∧ s.glb.gstate = .config then s.glb.sheaf + 8 else leAt e.payload 0 8) = j := by
    rcases hj with ⟨rfl, hne⟩ | ⟨hzero, hconfig, rfl⟩
    · rw [if_neg (fun hc => hne hc.1)]
    · rw [if_pos ⟨hzero, hconfig⟩]
  have hnear : ¬ (j < s.glb.sheaf + 8 ∨ j ≤ s.glb.sheaf + 1) := by omega
  have hchecks : ¬ (s.glb.sheaf + 288000 < j ∨ (s.logic.staged.isSome = true ∧
      ¬ (decide (j % loadedPeriod s.logic.program = 0) && decide (j % loadedPeriod s.logic.staged = 0)) = true) ∨
      ¬ commitFits s q = true ∨ ¬ unionOk s.cfg.package q = true ∨
      (membersDeclared q ((comingProgram s).map (fun l => l.program))).isSome = true) := by
    simp only [hmembers, hfits, hunion]
    rintro (hfar | ⟨hsome, hno⟩ | hno | hno | hno)
    · omega
    · exact hno (by simp [hstep hsome])
    all_goals simp at hno
  unfold doCommit
  simp only [hsheaf, hq, commitPending_none h, hdigest]
  rw [if_neg (by simp), if_neg (by simp), if_neg hnear, if_neg hchecks,
    if_neg (by simp [htaint])]

/-- Where a command's effect is one change held for sheaf j, its acceptance leaves it waiting for that boundary (R30). -/
theorem waitsAs_of_held {e : Inflight} {s : State} {c : CmdSpec} {j : Nat} {x : Change} (h : Journaling .pf0 e s)
    (hc : commandSpec e.opcode = some c) (hstate : c.states.contains s.glb.gstate = true)
    (hbus : c.desc.isSome = true → s.pf0.busMaster = true)
    (hrun : ∀ b, runEffect s.glb.sheaf .pf0 (numbered e s) (acceptedState .pf0 e b s) =
      holdChange .pf0 (numbered e s) j x (acceptedState .pf0 e b s)) :
    waitsAs .pf0 e (.awaitBoundary j) (withChange j .pf0 e x s) s :=
  waitsAs_of_runEffect (f := withChange j .pf0 e x) h hc hstate hbus (besides_withChange j e x s) hrun

theorem pdStates_running {g : GState} (h : g = .protecting ∨ g = .degraded) : pdStates.contains g = true := by
  rcases h with rfl | rfl <;> rfl

theorem cpd_running {g : GState} (h : (g = .protecting ∨ g = .degraded) ∨ g = .config) : cpd.contains g = true := by
  rcases h with (rfl | rfl) | rfl <;> rfl

section
variable {g : Nat} {v : View} {e : Inflight} {s : State}

theorem runEffect_commit (h : e.opcode = 0x0202) : runEffect g v e s = doCommit g v e s := by
  unfold runEffect; rw [h]; rfl
theorem runEffect_selectGroup (h : e.opcode = 0x0203) : runEffect g v e s = doSelectGroup g v e s := by
  unfold runEffect; rw [h]; rfl
theorem runEffect_paramWrite (h : e.opcode = 0x0302) : runEffect g v e s = doParamWrite g v e s := by
  unfold runEffect; rw [h]; rfl
theorem runEffect_force (h : e.opcode = 0x0303) : runEffect g v e s = doForce g v e s := by
  unfold runEffect; rw [h]; rfl
theorem runEffect_unforce (h : e.opcode = 0x0304) : runEffect g v e s = doUnforce g v e s := by
  unfold runEffect; rw [h]; rfl
theorem runEffect_restartLogic (h : e.opcode = 0x0305) : runEffect g v e s = doRestartLogic g v e s := by
  unfold runEffect; rw [h]; rfl
theorem runEffect_manualTrigger (h : e.opcode = 0x0404) : runEffect g v e s = doManualTrigger g v e s := by
  unfold runEffect; rw [h]; rfl
theorem runEffect_configSnapsets (h : e.opcode = 0x0502) : runEffect g v e s = doConfigSnapsets g v e s := by
  unfold runEffect; rw [h]; rfl

end

/-- Settles O19: each command's effect is to hold its change, so its acceptance leaves it waiting for that boundary. -/
theorem boundaryCommandsWait : Obligations.BoundaryCommandsWait := by
  intro e s h hno g p start running at'
  have hsoon (b : List Byte) : effectSheaf .pf0 g (acceptedState .pf0 e b s) = g + 3 :=
    effectSheaf_first .pf0 (s := acceptedState .pf0 e b s) hno
  have hcycle (b : List Byte) : cycleSheaf .pf0 g (acceptedState .pf0 e b s) = start :=
    cycleSheaf_first .pf0 (s := acceptedState .pf0 e b s) hno
  refine ⟨fun hop hr hn hz => ?_, fun hop hr _ hp => ?_, fun hop hr _ hw hgen htrip hroom => ?_, fun hop hr _ hw => ?_,
    fun hop hr _ hw => ?_, fun hop hr hworks hp hen => ?_, fun hop hr hbus hlen hok => ?_,
    fun hop hr q j hq hdigest hj hlow hhigh hstep hfits hunion hmembers htaint => ?_⟩
  · refine waitsAs_of_held (c := ⟨0x0203, false, pdStates, true, 4, none, true⟩) h (by rw [hop]; rfl)
      (pdStates_running hr) nofun (fun b => ?_)
    rw [← hsoon b]
    exact Eq.trans (runEffect_selectGroup hop) (doSelectGroup_holds g .pf0 hn hz)
  · refine waitsAs_of_held (c := ⟨0x0302, false, pdStates, true, 8, none, true⟩) h (by rw [hop]; rfl)
      (pdStates_running hr) nofun (fun b => ?_)
    rw [← hcycle b]
    exact Eq.trans (runEffect_paramWrite hop) (doParamWrite_holds g .pf0 hno hp)
  · refine waitsAs_of_held (c := ⟨0x0303, false, pdStates, true, 12, none, true⟩) h (by rw [hop]; rfl)
      (pdStates_running hr) nofun (fun b => ?_)
    rw [← hcycle b]
    exact Eq.trans (runEffect_force hop) (doForce_holds g .pf0 hno hw hgen htrip hroom)
  · refine waitsAs_of_held (c := ⟨0x0304, false, pdStates, true, 8, none, true⟩) h (by rw [hop]; rfl)
      (pdStates_running hr) nofun (fun b => ?_)
    rw [← hcycle b]
    exact Eq.trans (runEffect_unforce hop) (doUnforce_holds g .pf0 hno hw)
  · refine waitsAs_of_held (c := ⟨0x0305, false, pdStates, true, 4, none, true⟩) h (by rw [hop]; rfl)
      (pdStates_running hr) nofun (fun b => ?_)
    rw [← hcycle b]
    exact Eq.trans (runEffect_restartLogic hop) (doRestartLogic_holds g .pf0 hw)
  · refine waitsAs_of_held (c := ⟨0x0404, false, pdStates, true, 4, none, true⟩) h (by rw [hop]; rfl)
      (pdStates_running hr) nofun (fun b => ?_)
    rw [← hsoon b]
    exact Eq.trans (runEffect_manualTrigger hop) (doManualTrigger_holds g .pf0 hworks hp hen)
  · refine waitsAs_of_held (c := ⟨0x0502, false, cpd, true, 16, some 0, true⟩) h (by rw [hop]; rfl)
      (cpd_running hr) (fun _ => hbus) (fun b => ?_)
    rw [← hsoon b]
    exact Eq.trans (runEffect_configSnapsets hop) (doConfigSnapsets_holds g .pf0 hlen hok)
  · refine waitsAs_of_runEffect (c := ⟨0x0202, false, cpd, true, 56, none, true⟩)
      (f := fun s => armSubscriptions j q (withChange j .pf0 e (.package j s.logic.staged.isSome) s)) h (by rw [hop]; rfl)
      (cpd_running hr) nofun ⟨rfl, rfl, fun _ => rfl⟩ (fun b => ?_)
    exact Eq.trans (runEffect_commit hop)
      (doCommit_holds .pf0 hno hq hdigest hj hlow hhigh hstep hfits hunion hmembers htaint)

end Sys2Proof.Machine.SheafProofs
end

section
/-!
SUPPORT. The close deadline (01_sheaf.md R22): what the work on a sheaf before its commit leaves as it was committed.
-/
namespace Sys2Proof.Machine.SheafProofs
open Sys2Proof.Safety

/-- What stands as committed while a sheaf is in the pipeline (R22, R25): engine state, settings, shown zone records,
elements, results, logic, views, stores, commands; zones and gates with them but in a held sheaf. -/
structure Standing where
  glb : Glb
  cfg : Settings
  zst : FMap (List Word)
  insts : FMap Inst
  results : FMap ZoneResult
  logic : Logic
  pf0 : ViewState
  pf1 : ViewState
  store : Store
  trust : Trust
  granary : Granary
  mem : List Host.Cell
  bells : List Bell
  zones : FMap Zone
  wires : FMap Wire

def standing (s : State) : Standing :=
  ⟨s.glb, s.cfg, s.zst, s.insts, s.results, s.logic, s.pf0, s.pf1, s.store, s.trust, s.granary, s.hostMem, s.bells,
    s.zones, s.wires⟩

theorem standing_advance (t : Time) (s : State) : standing (advance t s) = standing s := by
  have h := congrArg standing (advance_spec t s).2
  exact h

theorem standing_sticky (r b : Nat) (s : State) : standing (sticky r b s) = standing s := by
  have h := congrArg standing (sticky_spec r b s)
  exact h

theorem standing_tally (event : Half) (detail : List Quad) (s : State) :
    standing (tally event detail s) = standing s := by
  have h := congrArg standing (tally_frame event detail s)
  exact h

theorem standing_count (i n : Nat) (s : State) : standing (count i n s) = standing s := rfl

theorem standing_addConversions (k : Nat) (l : List Conversion) (s : State) :
    standing (addConversions k l s) = standing s := by
  unfold addConversions
  dsimp only
  refine foldl_keeps standing _ (fun s c => ?_) _ _
  split <;> rfl

theorem standing_gleanerMeasure (k : Nat) (s : State) : standing (gleanerMeasure k s) = standing s := by
  refine foldl_keeps standing _ (fun s g => ?_) _ _
  have hpoint : standing (gatherPoint g k s) = standing s := by
    unfold gatherPoint
    dsimp only
    split <;> rfl
  refine Eq.trans ?_ hpoint
  unfold gatherOverlap
  dsimp only
  split <;> rfl

theorem standing_storeLocal (k : Nat) (s : State) : standing (storeLocal k s) = standing s := by
  refine foldl_keeps standing _ (fun s c => foldl_keeps standing _ (fun s m => ?_) _ _) _ _
  split <;> rfl

theorem standing_markMissing (k : Nat) (s : State) : standing (markMissing k s) = standing s := by
  refine foldl_keeps standing _ (fun s e => foldl_keeps standing _ (fun s m => ?_) _ _) _ _
  dsimp only
  split
  · rfl
  · refine (standing_count _ _ _).trans (foldl_keeps standing _ (fun s sl => ?_) _ _)
    rfl

theorem standing_dovetailMissing (k : Nat) (s : State) : standing (dovetailMissing k s) = standing s := by
  refine foldl_keeps standing _ (fun s e => foldl_keeps standing _ (fun s m => ?_) _ _) _ _
  split <;> rfl

theorem standing_ldfModeStep (d r : Nat) (ws : List Word) (t : LdfTerm) (s : State) :
    standing (ldfModeStep d r ws t s).2 = standing s := by
  unfold ldfModeStep
  dsimp only
  split
  · split
    · rfl
    · split
      · rfl
      · exact (standing_sticky _ _ _).trans (standing_tally _ _ _)
  · split <;> rfl

theorem standing_ldfDeadline (s : State) : standing (ldfDeadline s) = standing s := by
  refine foldl_keeps standing _ (fun s e => ?_) _ _
  have hterms := foldl_keeps_snd standing
    (fun (acc : Ldf × State) r =>
      let y := ldfModeStep e.1 r e.2 (termOf acc.1 r) acc.2
      (setTerm r y.1 acc.1, y.2))
    (fun c s r => standing_ldfModeStep _ _ _ _ _) (remotes e.2) (ldfOf s e.1, s)
  exact hterms

theorem standing_tenonEvaluate (k : Nat) (s : State) : standing (tenonEvaluate k s) = standing s := by
  refine foldl_keeps standing _ (fun s z => ?_) _ _
  rfl

/-- Everything that CLOSE_DEADLINE does before the gates of a held sheaf. -/
def closeWork (convs : List Conversion) (s : State) : State :=
  let k := s.glb.cur
  let s := advance (closeDeadlineOf (runningLpipe s) k) s
  let s := dovetailMissing k (markMissing k (dovetailPublish k (storeLocal k (gleanerMeasure k (addConversions k convs s)))))
  let s := ldfDeadline s
  tenonEvaluate k { s with lanes := { s.lanes with ldf := s.ldf } }

theorem standing_closeWork (convs : List Conversion) (s : State) : standing (closeWork convs s) = standing s := by
  unfold closeWork
  extract_lets k s1 s2 s3 x
  have h2 : standing s2 = standing s1 :=
    (standing_dovetailMissing _ _).trans <| (standing_markMissing _ _).trans <|
      (standing_storeLocal _ _ : standing (dovetailPublish k _) = _).trans <|
      (standing_gleanerMeasure _ _).trans (standing_addConversions _ _ _)
  exact (standing_tenonEvaluate _ _).trans ((standing_ldfDeadline _).trans (h2.trans (standing_advance _ _)))

/-- What stands with the zones and gates left out, and how each trip wire moves: what gating keeps. -/
def ungated (s : State) : Standing × (Nat → Bool × Bool) :=
  ({ standing s with zones := [], wires := [] }, fun n => ((wireOf s n).toggling, (wireOf s n).level))

theorem ungated_of_standing {s t : State} (h : standing t = standing s) : ungated t = ungated s :=
  congrArg (fun x : Standing => (({ x with zones := [], wires := [] } : Standing),
    fun n => ((FMap.get x.wires Wire.init n).toggling, (FMap.get x.wires Wire.init n).level))) h

/-- A wire that is written with its drive unchanged moves as before. -/
theorem ungated_setWire (n : Nat) (x : Wire) (s : State) (ht : x.toggling = (wireOf s n).toggling)
    (hl : x.level = (wireOf s n).level) : ungated (setWire n x s) = ungated s := by
  refine Prod.ext rfl (funext fun m => ?_)
  by_cases h : n = m
  · subst h
    simp [ungated, wireOf, setWire, FMap.get, ht, hl]
  · simp [ungated, wireOf, setWire, FMap.get, h]

theorem ungated_gateWire (k n : Nat) (cmd : Bool) (s : State) : ungated (gateWire k n cmd s) = ungated s := by
  unfold gateWire
  extract_lets w z x t trip back toggle alone s1 s2
  have h1 : ungated s1 = ungated s := ungated_setWire _ _ _ rfl rfl
  have h2 : ungated s2 = ungated s1 := by
    unfold s2; split
    · exact ungated_of_standing ((standing_sticky _ _ _).trans (standing_tally _ _ _))
    · rfl
  split
  · exact (ungated_of_standing ((standing_sticky _ _ _).trans (standing_tally _ _ _))).trans (h2.trans h1)
  · exact h2.trans h1

theorem ungated_zoneTrips (k z : Nat) (s : State) : ungated (zoneTrips k z s) = ungated s := rfl

theorem ungated_edge (s : State) (t : Nat) : ungated { s with tb := { s.tb with edge := t } } = ungated s := rfl

/-- The gates of a held sheaf (R211): nothing but zones, gates and the trip oscillator's edge changes. -/
theorem ungated_gateHeld (k : Nat) (s : State) : ungated (gateHeld k s) = ungated s := by
  unfold gateHeld gatesWith
  extract_lets ws s1 zs s2
  have h1 : ungated s1 = ungated s := foldl_keeps ungated _ (fun s n => ungated_gateWire k n _ s) _ _
  have h2 : ungated s2 = ungated s1 := foldl_keeps ungated _ (fun s z => ungated_zoneTrips k z s) _ _
  exact (ungated_edge s2 _).trans (h2.trans h1)

/-- The state of a sheaf's work with the gates of a held sheaf (R211). -/
def closeGates (convs : List Conversion) (s : State) : State :=
  let w := closeWork convs s
  if protecting w ∧ s.glb.cur ≠ w.glb.sheaf + 1 then gateHeld s.glb.cur w else w

theorem ungated_closeGates (convs : List Conversion) (s : State) : ungated (closeGates convs s) = ungated s := by
  have hw : ungated (closeWork convs s) = ungated s := ungated_of_standing (standing_closeWork convs s)
  unfold closeGates
  dsimp only
  split
  · exact (ungated_gateHeld _ _).trans hw
  · exact hw

/-- Only a sheaf held while the engine protects works on the gates. -/
theorem standing_closeGates (convs : List Conversion) {s : State}
    (h : protecting s = false ∨ s.glb.cur = s.glb.sheaf + 1) : standing (closeGates convs s) = standing s := by
  have hw := standing_closeWork convs s
  have hglb : (closeWork convs s).glb = s.glb := congrArg Standing.glb hw
  have hopen : ¬ (protecting (closeWork convs s) = true ∧ s.glb.cur ≠ (closeWork convs s).glb.sheaf + 1) := by
    rw [protecting, hglb]
    rintro ⟨hp, hk⟩
    exact h.elim (fun hn => absurd (hp.symm.trans hn) (by simp)) hk
  rw [closeGates, if_neg hopen]
  exact hw

theorem standing_endOfClose (k : Nat) (b : List Byte) (s : State) :
    standing (trimBiLog k (trimHistories k (traceMsg 0x10 b s))) = standing s := by
  have htrace : standing (traceMsg 0x10 b s) = standing s := rfl
  generalize traceMsg 0x10 b s = t at htrace ⊢
  exact htrace

/-- What follows the gates is the message, the trimmed histories, and the freeze (R22, R396). -/
theorem closeSheaf_eq (convs : List Conversion) (s : State) :
    ∃ t, standing t = standing (closeGates convs s) ∧
      closeSheaf convs s = { t with glb := { t.glb with frozen := true } } := by
  refine ⟨_, standing_endOfClose s.glb.cur
    (beBytes 4 (s.glb.cur % 4294967296) ++ traceTs (closeGates convs s)) (closeGates convs s), ?_⟩
  unfold closeSheaf closeGates closeWork
  rfl

/-- Settles O22: the freeze is the one committed change, the gates of a held sheaf the one exception. -/
theorem closeDeadlineFreezes : Obligations.CloseDeadlineFreezes := by
  intro convs s
  refine ⟨fun hr hf => ?_, fun h => ?_⟩
  · obtain ⟨t, ht, hclose⟩ := closeSheaf_eq convs s
    have hu : ungated t = ungated s := (ungated_of_standing ht).trans (ungated_closeGates convs s)
    have hs : (ungated t).1 = (ungated s).1 := congrArg Prod.fst hu
    refine ⟨closeSheaf convs s, ?_, ?_⟩
    · show execCloseDeadline convs s = _
      rw [execCloseDeadline, if_pos ⟨hr, hf⟩]
    rw [hclose]
    refine ⟨?_, congrArg Standing.cfg hs, fun hopen => ?_, fun n => ?_, congrArg Standing.zst hs,
      congrArg Standing.insts hs, congrArg Standing.results hs, congrArg Standing.logic hs, congrArg Standing.pf0 hs,
      congrArg Standing.pf1 hs, congrArg Standing.store hs, congrArg Standing.trust hs, congrArg Standing.granary hs,
      congrArg Standing.mem hs, congrArg Standing.bells hs⟩
    · exact congrArg (fun x : Standing => { x.glb with frozen := true }) hs
    · have hkept : standing t = standing s := ht.trans (standing_closeGates convs hopen)
      exact ⟨congrArg Standing.zones hkept, congrArg Standing.wires hkept⟩
    · have hmotion := congrFun (congrArg Prod.snd hu) n
      exact ⟨congrArg Prod.fst hmotion, congrArg Prod.snd hmotion⟩
  · show execCloseDeadline convs s = _
    have hn : ¬ (s.glb.running = true ∧ s.glb.frozen = false) := by
      rcases h with h | h <;> simp [h]
    rw [execCloseDeadline, if_neg hn]

end Sys2Proof.Machine.SheafProofs
end

section
/-!
SUPPORT. Frames at the process-bus ports: what a port does with one that arrives, and the turn in which one is handled
(03_process_bus_ingest.md R59 to R63; 09_trip_path.md R212).
-/
namespace Sys2Proof.Machine.BusProofs
open Sys2Proof.Safety Sys2Proof.Machine.SheafProofs

@[simp] theorem advance_ing (t : Time) (s : State) : (advance t s).ing = s.ing := by
  unfold advance; split <;> rfl

@[simp] theorem advance_cnt (t : Time) (s : State) : (advance t s).cnt = s.cnt := by
  unfold advance; split <;> rfl

@[simp] theorem advance_ldf (t : Time) (s : State) : (advance t s).ldf = s.ldf := by
  unfold advance; split <;> rfl

@[simp] theorem advance_sent (t : Time) (s : State) : (advance t s).sent = s.sent := by
  unfold advance; split <;> rfl

@[simp] theorem advance_portOf (t : Time) (s : State) (n : Nat) : portOf (advance t s) n = portOf s n := by
  simp only [portOf, advance_ing]

@[simp] theorem advance_portOn (t : Time) (s : State) (n : Nat) : portOn (advance t s) n = portOn s n := by
  simp only [portOn, armedPackage, advance_cfg]

/-- Tenon's extractor stores samples of its own and leaves the settings (R212). -/
theorem tenonEntry_cfg (p : Option Package) (new : Bool) (f : Frame) (asdus : List Asdu) (ws : List Word) (s : State) :
    (tenonEntry p new f asdus ws s).cfg = s.cfg := by
  unfold tenonEntry
  extract_lets shape hit
  split
  · rfl
  · refine foldl_keeps State.cfg _ (fun s a => ?_) _ _
    split
    · rfl
    · split
      · rfl
      · split
        · rfl
        · refine foldl_keeps State.cfg _ (fun s x => ?_) _ _
          dsimp only
          split <;> rfl

theorem tenonExtract_cfg (f : Frame) (s : State) : (tenonExtract f s).cfg = s.cfg := by
  unfold tenonExtract
  extract_lets takes
  split
  · extract_lets s1
    have h1 : s1.cfg = s.cfg := by
      unfold s1
      split
      · exact foldl_keeps State.cfg _ (fun s e => tenonEntry_cfg _ _ _ _ _ s) _ _
      · rfl
    clear_value s1
    split
    · exact h1
    · split
      · exact (foldl_keeps State.cfg _ (fun s e => tenonEntry_cfg _ _ _ _ _ s) _ _).trans h1
      · exact h1
  · rfl

/-- The two ways a frame that a port takes can go on: it meets no class, or it finds room in its class or is shed (R62). -/
theorem portFrameIn_passing {f : Frame} {s : State} (hon : portOn s f.port = true) (hlink : (portOf s f.port).link = true)
    (hpass : framePasses f = true) :
    let g := tenonExtract f (count f.port 1 (advance f.tArr s))
    (frameClass g f = none → portFrameIn f s = if ldfStray g f then count 168 1 g else g) ∧
      ∀ c, frameClass g f = some c →
        (classShare c < ((portOf s f.port).used[c]?).getD 0 + f.len → portFrameIn f s = count (64 + f.port) 1 g) ∧
          (((portOf s f.port).used[c]?).getD 0 + f.len ≤ classShare c → prpPair g.cfg.package f.port = none →
            portFrameIn f s = if endsHere f = true then g else
              setPort f.port { portOf g f.port with
                used := modAt (fun u => u + f.len) c (portOf g f.port).used
                waiting := (portOf g f.port).waiting ++ [f] } g) := by
  intro g
  have hon' : ¬ (portOn (advance f.tArr s) f.port = false ∨ (portOf (advance f.tArr s) f.port).link = false) := by
    simp [hon, hlink]
  have heq : portFrameIn f s = match frameClass g f with
      | none => if ldfStray g f then count 168 1 g else g
      | some c =>
        if classShare c < ((portOf (advance f.tArr s) f.port).used[c]?).getD 0 + f.len then count (64 + f.port) 1 g
        else
          let r := prpFilter f g
          if r.1 = false ∨ endsHere f = true then r.2
          else
            let y := portOf r.2 f.port
            setPort f.port { y with used := modAt (fun u => u + f.len) c y.used, waiting := y.waiting ++ [f] } r.2 := by
    unfold portFrameIn
    exact (if_neg hon').trans (if_neg (by simp [hpass]))
  refine ⟨fun hc => ?_, fun c hc => ⟨fun hfull => ?_, fun hroom hpair => ?_⟩⟩
  · rw [heq, hc]
  · rw [heq, hc]
    exact if_pos (by rwa [advance_portOf])
  · have hfilter : prpFilter f g = (true, g) := by rw [prpFilter, hpair]
    have hfit : ¬ classShare c < ((portOf (advance f.tArr s) f.port).used[c]?).getD 0 + f.len := by
      rw [advance_portOf]; omega
    rw [heq, hc]
    dsimp only
    rw [if_neg hfit, hfilter]
    simp only [Bool.true_eq_false, false_or]

/-- Settles O37: the port's own checks, then the class of the frame and the room in it. -/
theorem portAcceptsFrames : Obligations.PortAcceptsFrames := by
  intro f s a g
  refine ⟨fun hoff => ?_, fun hon hlink => ⟨fun hbad => ?_, fun hpass hc => ?_,
    fun c hpass hc => ⟨fun hfull => ?_, fun hroom hpair => ?_⟩⟩⟩
  · show execPortFrameRx f s = _
    rw [execPortFrameRx, portFrameIn, if_pos (by simpa using hoff)]
  · show execPortFrameRx f s = _
    rw [execPortFrameRx, portFrameIn, if_neg (by simp [hon, hlink]), if_pos hbad]
  · exact congrArg Host.Outcome.next ((portFrameIn_passing hon hlink hpass).1 hc)
  · exact congrArg Host.Outcome.next (((portFrameIn_passing hon hlink hpass).2 c hc).1 (by rwa [advance_portOf] at hfull))
  · have hcfg : prpPair g.cfg.package f.port = none := by
      rw [tenonExtract_cfg, count_cfg, advance_cfg, hpair]
    have heq := ((portFrameIn_passing hon hlink hpass).2 c hc).2 (by rwa [advance_portOf] at hroom) hcfg
    exact ⟨fun he => congrArg Host.Outcome.next (heq.trans (if_pos he)),
      fun he => congrArg Host.Outcome.next (heq.trans (if_neg (by simp [he])))⟩

end Sys2Proof.Machine.BusProofs
end

section
/-!
SUPPORT. Sampled values and GOOSE frames whose turn has come (03_process_bus_ingest.md R63 to R72, R77, R78).
-/
namespace Sys2Proof.Machine.BusProofs
open Sys2Proof.Safety Sys2Proof.Machine.SheafProofs

/-- The frame whose turn has come is served (R63). -/
theorem serve_next {f : Frame} {s : State} {p : Frame → Bool} (h : nextServed s = some (f.port, f)) (hp : p f = true) :
    serve f.port p s = some ((frameShift s f).isSome, served f s) :=
  (serve_spec f.port p s).1 f h hp

theorem serve_named {f : Frame} {s : State} (h : nextServed s = some (f.port, f)) :
    serve f.port (fun g => g == f) s = some ((frameShift s f).isSome, served f s) :=
  serve_next h (beq_self_eq_true f)

/-- A row that names a frame whose turn has not come finds none (log 44). -/
theorem serve_other {f : Frame} {s : State} (h : nextServed s ≠ some (f.port, f)) :
    serve f.port (fun g => g == f) s = none := by
  refine (serve_spec f.port _ s).2 fun g hg => ?_
  rw [beq_eq_false_iff_ne]
  rintro rfl
  exact h hg

/-- A served frame has left its buffer; the timebase reads its arrival, or the time before where it came before a step. -/
theorem served_cases (f : Frame) (s : State) :
    served f s = takeFrame f.port f s ∨ served f s = advance f.tArr (takeFrame f.port f s) := by
  unfold served
  extract_lets t
  split
  · exact .inl rfl
  · exact .inr rfl

/-- A frame that is served touches the buffers and the time alone. -/
theorem served_spec (f : Frame) (s : State) : { served f s with ing := s.ing, tb := s.tb } = s := by
  rcases served_cases f s with h | h <;> rw [h]
  · rfl
  · exact congrArg (fun x : State => { x with ing := s.ing, tb := s.tb }) (advance_spec f.tArr (takeFrame f.port f s)).2

@[simp] theorem served_cfg (f : Frame) (s : State) : (served f s).cfg = s.cfg := by
  have h := congrArg State.cfg (served_spec f s)
  exact h

theorem standing_served (f : Frame) (s : State) : standing (served f s) = standing s := by
  have h := congrArg standing (served_spec f s)
  exact h

/-- What streams and subscriptions have received stays as it was. -/
theorem served_received (f : Frame) (s : State) :
    (served f s).ing.streams = s.ing.streams ∧ (served f s).ing.subs = s.ing.subs := by
  rcases served_cases f s with h | h <;> rw [h]
  · exact ⟨rfl, rfl⟩
  · rw [advance_ing]
    exact ⟨rfl, rfl⟩

@[simp] theorem served_armedPackage (f : Frame) (s : State) : armedPackage (served f s) = armedPackage s := by
  simp only [armedPackage, served_cfg]

@[simp] theorem tally_ing (event : Half) (detail : List Quad) (s : State) : (tally event detail s).ing = s.ing := by
  have h := congrArg State.ing (tally_frame event detail s)
  exact h

@[simp] theorem sticky_ing (r b : Nat) (s : State) : (sticky r b s).ing = s.ing := by
  have h := congrArg State.ing (sticky_spec r b s)
  exact h

/-- A fold that no element moves. -/
theorem foldl_idle {α : Type} {f : State → α → State} {s : State} {l : List α} (h : ∀ a ∈ l, f s a = s) :
    l.foldl f s = s := by
  induction l with
  | nil => rfl
  | cons a l ih =>
    rw [List.foldl_cons, h a List.mem_cons_self]
    exact ih fun b hb => h b (List.mem_cons_of_mem _ hb)

/-- What a sampled-value frame leaves as it was but for the streams that it reaches: all that stands committed, and the
ingest records. -/
def kept (s : State) : Standing × Ingest := (standing s, s.ing)

theorem kept_sticky (r b : Nat) (s : State) : kept (sticky r b s) = kept s := by
  rw [kept, standing_sticky, sticky_ing, kept]

theorem kept_tally (event : Half) (detail : List Quad) (s : State) : kept (tally event detail s) = kept s := by
  rw [kept, standing_tally, tally_ing, kept]

theorem kept_count (i n : Nat) (s : State) : kept (count i n s) = kept s := rfl

theorem kept_setStream {new : Bool} {i : Nat} {x : Stream} {s t : State} (h : kept t = kept s) :
    kept (setStream new i x t) = kept (setStream new i x s) := by
  have hstanding : standing t = standing s := congrArg Prod.fst h
  have hing : t.ing = s.ing := congrArg Prod.snd h
  cases new <;> exact Prod.ext hstanding (by simp only [kept, setStream, hing]; rfl)

theorem kept_storeAsdu (new : Bool) (ws : List Word) (a : Asdu) (m : Nat) (s : State) :
    kept (storeAsdu new ws a m s) = kept s := by
  unfold storeAsdu
  refine foldl_keeps kept _ (fun s p => ?_) _ _
  extract_lets d s1
  have h1 : kept s1 = kept s := by
    unfold s1
    split <;> rfl
  clear_value s1
  split
  · rw [kept_sticky, h1]
  · exact h1

theorem kept_placeAsdu (new : Bool) (ws : List Word) (t : Time) (s : State) (a : Asdu) :
    kept (placeAsdu new ws t s a) = kept s := by
  unfold placeAsdu
  split
  · rfl
  · split
    · rfl
    · split
      · exact kept_storeAsdu _ _ _ _ _
      · rfl

/-- A stream holds a frame that arrived at t: not lost, no revision at fault (R67, R72). -/
def Received (x : Stream) (t : Time) : Prop := x.lastArr = some t ∧ x.lost = false ∧ x.confRev = none

/-- The stream of entry i is written, or none is; where the frame's content is good, it is received at the instant given,
unless an earlier frame could make it run back (R67, R70). -/
def Reaches (new : Bool) (i : Nat) (good : Prop) (arrived : Time) (s t : State) : Prop :=
  (kept t = kept s ∧ (good → (streamOf s new i).prev ≠ none)) ∨
    ∃ x, kept t = kept (setStream new i x s) ∧ (good → Received x arrived)

theorem svEntryFrame_reaches (new : Bool) (i : Nat) (ws : List Word) (f : Frame) (asdus : List Asdu) (shift : Option Time)
    (s : State) :
    Reaches new i (svCheck ws asdus = 0) (f.tArr + shift.getD 0) s (svEntryFrame new i ws f asdus shift s) := by
  unfold svEntryFrame
  extract_lets st old arrived rate s1 got firstN lastN lam back jump s2 s3 s4 s5
  split
  case h_1 hc =>
    split
    · exact .inl ⟨rfl, fun h => absurd (hc.symm.trans h) (by decide)⟩
    · exact .inr ⟨_, kept_setStream (kept_tally _ _ _), fun h => absurd (hc.symm.trans h) (by decide)⟩
  case h_2 =>
    split
    case isTrue hback =>
      refine .inl ⟨rfl, fun _ hprev => ?_⟩
      simp [back, st, hprev] at hback
    case isFalse =>
      have h2 : kept s2 = kept s := by
        unfold s2
        split
        · split
          · rw [kept_count, kept_sticky, kept_tally]
          · rfl
        · rfl
      have h3 : kept s3 = kept s := by
        unfold s3
        split
        · rw [kept_tally, h2]
        · exact h2
      have h5 : kept s5 = kept s4 := by
        unfold s5
        split <;> rfl
      have h4 := h5.trans (kept_setStream h3)
      refine .inr ⟨_, Eq.trans ?_ h4, fun _ => ⟨rfl, rfl, rfl⟩⟩
      split
      · rfl
      · exact foldl_keeps kept _ (kept_placeAsdu new ws f.tArr) _ _
  case h_3 hbad => exact .inl ⟨rfl, fun h => absurd h hbad⟩

/-- A frame of the running entry i writes no other running stream. -/
theorem Reaches.other {i j : Nat} {good : Prop} {arrived : Time} {s t : State} (h : Reaches false i good arrived s t)
    (hj : i ≠ j) : streamOf t false j = streamOf s false j := by
  have hstream {u : State} (hu : kept t = kept u) : streamOf t false j = streamOf u false j := by
    have hing : t.ing = u.ing := congrArg Prod.snd hu
    simp only [streamOf, hing]
  rcases h with ⟨hk, -⟩ | ⟨x, hk, -⟩
  · exact hstream hk
  · rw [hstream hk]
    simp [streamOf, setStream, hj]

/-- A frame of an armed entry writes no running stream (R29). -/
theorem Reaches.armed {i : Nat} {good : Prop} {arrived : Time} {s t : State} (h : Reaches true i good arrived s t) :
    t.ing.streams = s.ing.streams := by
  rcases h with ⟨hk, -⟩ | ⟨x, hk, -⟩
  · exact congrArg (fun k => k.2.streams) hk
  · exact congrArg (fun k => k.2.streams) hk

theorem Reaches.standing {new : Bool} {i : Nat} {good : Prop} {arrived : Time} {s t : State}
    (h : Reaches new i good arrived s t) : standing t = standing s := by
  rcases h with ⟨hk, -⟩ | ⟨x, hk, -⟩
  · exact congrArg Prod.fst hk
  · cases new <;> exact congrArg Prod.fst hk

/-- A good frame is received by its entry, where none came before it or the last one arrived at the same instant. -/
theorem Reaches.received {i : Nat} {good : Prop} {arrived : Time} {s t : State} (h : Reaches false i good arrived s t)
    (hg : good) (hs : (streamOf s false i).prev = none ∨ Received (streamOf s false i) arrived) :
    Received (streamOf t false i) arrived := by
  rcases h with ⟨hk, hprev⟩ | ⟨x, hk, hx⟩
  · have hing : t.ing = s.ing := congrArg Prod.snd hk
    have hst : streamOf t false i = streamOf s false i := by simp only [streamOf, hing]
    rw [hst]
    exact hs.resolve_left (hprev hg)
  · have hing : t.ing = (setStream false i x s).ing := congrArg Prod.snd hk
    have hst : streamOf t false i = x := by simp [streamOf, hing, setStream]
    rw [hst]
    exact hx hg

/-- One running entry's part in the handling of a frame (R66). -/
def runningEntry (f : Frame) (asdus : List Asdu) (shift : Option Time) (s : State) (e : Nat × List Word) : State :=
  if svMatches s.cfg.package f asdus e.2 then svEntryFrame false e.1 e.2 f asdus shift s else s

/-- One entry's part under the armed package: samples and streams only (R29). -/
def armedEntry (p : Package) (f : Frame) (asdus : List Asdu) (shift : Option Time) (s : State) (e : Nat × List Word) :
    State :=
  if svMatches (some p) f asdus e.2 then
    let t := svEntryFrame true e.1 e.2 f asdus shift s
    { s with samp := t.samp, ing := t.ing }
  else s

/-- The armed package's part, where there is one (R29). -/
def armedEntries (f : Frame) (asdus : List Asdu) (shift : Option Time) (s : State) : State :=
  match armedPackage s with
  | none => s
  | some (_, p) => (svEntries (some p)).foldl (armedEntry p f asdus shift) s

/-- A sampled-value frame whose turn has come goes to the running entries and then to the armed ones. -/
theorem svFrameIn_next {f : Frame} {asdus : List Asdu} {s : State} (hb : f.body = .sv asdus)
    (h : nextServed s = some (f.port, f)) :
    svFrameIn f s = armedEntries f asdus (frameShift s f)
      ((svEntries s.cfg.package).foldl (runningEntry f asdus (frameShift s f)) (served f s)) := by
  unfold svFrameIn
  rw [hb, serve_named h, ← served_cfg f s]
  rfl

theorem runningEntry_standing (f : Frame) (asdus : List Asdu) (shift : Option Time) (s : State) (e : Nat × List Word) :
    standing (runningEntry f asdus shift s e) = standing s := by
  unfold runningEntry
  split
  · exact (svEntryFrame_reaches _ _ _ _ _ _ _).standing
  · rfl

/-- The armed entries leave all that stands committed, and the running streams. -/
theorem armedEntry_keeps (p : Package) (f : Frame) (asdus : List Asdu) (shift : Option Time) (s : State)
    (e : Nat × List Word) :
    (standing (armedEntry p f asdus shift s e), (armedEntry p f asdus shift s e).ing.streams) =
      (standing s, s.ing.streams) := by
  unfold armedEntry
  split
  · exact Prod.ext rfl (svEntryFrame_reaches true e.1 e.2 f asdus shift s).armed
  · rfl

theorem armedEntries_keeps (f : Frame) (asdus : List Asdu) (shift : Option Time) (s : State) :
    (standing (armedEntries f asdus shift s), (armedEntries f asdus shift s).ing.streams) =
      (standing s, s.ing.streams) := by
  unfold armedEntries
  split
  · rfl
  · exact foldl_keeps (fun s => (standing s, s.ing.streams)) _ (armedEntry_keeps _ f asdus shift) _ _

/-- Among entries of which only one has the number i, a good frame that matches it is received once its turn in the list
has come. -/
theorem runningEntries_received {f : Frame} {asdus : List Asdu} {shift : Option Time} {i : Nat} {ws : List Word}
    (hcheck : svCheck ws asdus = 0) {l : List (Nat × List Word)} (hone : ∀ e ∈ l, e.1 = i → e.2 = ws) {s : State}
    (hmatch : svMatches s.cfg.package f asdus ws = true)
    (h : ((streamOf s false i).prev = none ∧ (i, ws) ∈ l) ∨ Received (streamOf s false i) (f.tArr + shift.getD 0)) :
    Received (streamOf (l.foldl (runningEntry f asdus shift) s) false i) (f.tArr + shift.getD 0) := by
  induction l generalizing s with
  | nil => exact h.resolve_left (fun hn => absurd hn.2 List.not_mem_nil)
  | cons e l ih =>
    have hcfg : (runningEntry f asdus shift s e).cfg = s.cfg :=
      congrArg Standing.cfg (runningEntry_standing f asdus shift s e)
    refine ih (fun e he => hone e (List.mem_cons_of_mem _ he)) (hcfg ▸ hmatch) ?_
    by_cases hi : e.1 = i
    · have hws : e.2 = ws := hone e List.mem_cons_self hi
      rw [runningEntry, hws, if_pos hmatch, hi]
      exact .inr ((svEntryFrame_reaches false i ws f asdus shift s).received hcheck (h.imp_left And.left))
    · have hstream : streamOf (runningEntry f asdus shift s e) false i = streamOf s false i := by
        unfold runningEntry
        split
        · exact (svEntryFrame_reaches _ _ _ _ _ _ _).other hi
        · rfl
      rw [hstream]
      refine h.imp_left fun hn => ⟨hn.1, (List.mem_cons.mp hn.2).resolve_left ?_⟩
      rintro rfl
      exact hi rfl

/-- A good frame that matches an entry leaves its stream received, and all that stands committed as it was. -/
theorem svFrameIn_received {f : Frame} {asdus : List Asdu} {i : Nat} {ws : List Word} {s : State}
    (hb : f.body = .sv asdus) (h : nextServed s = some (f.port, f)) (hmem : (i, ws) ∈ svEntries s.cfg.package)
    (hone : ∀ e ∈ svEntries s.cfg.package, e.1 = i → e.2 = ws) (hmatch : svMatches s.cfg.package f asdus ws = true)
    (hcheck : svCheck ws asdus = 0) (hprev : (streamOf s false i).prev = none) :
    Received (streamOf (svFrameIn f s) false i) (f.tArr + (frameShift s f).getD 0) ∧
      standing (svFrameIn f s) = standing s := by
  have hstream : streamOf (served f s) false i = streamOf s false i := by
    simp only [streamOf, (served_received f s).1]; rfl
  have hreceived := runningEntries_received (shift := frameShift s f) (s := served f s) hcheck hone
    (by rwa [served_cfg]) (.inl ⟨hstream ▸ hprev, hmem⟩)
  have hstanding := foldl_keeps standing _ (runningEntry_standing f asdus (frameShift s f))
    (svEntries s.cfg.package) (served f s)
  rw [svFrameIn_next hb h]
  generalize (svEntries s.cfg.package).foldl (runningEntry f asdus (frameShift s f)) (served f s) = u at *
  have hk := armedEntries_keeps f asdus (frameShift s f) u
  have hrunning : streamOf (armedEntries f asdus (frameShift s f) u) false i = streamOf u false i :=
    congrArg (fun k : Standing × FMap Stream => FMap.get k.2 Stream.init i) hk
  exact ⟨hrunning ▸ hreceived, (congrArg Prod.fst hk).trans (hstanding.trans (standing_served f s))⟩

/-- A frame that matches no entry changes the buffer and the time only (R66). -/
theorem svFrameIn_unmatched {f : Frame} {asdus : List Asdu} {s : State} (hb : f.body = .sv asdus)
    (h : nextServed s = some (f.port, f)) (harmed : armedPackage s = none)
    (hnone : ∀ e ∈ svEntries s.cfg.package, svMatches s.cfg.package f asdus e.2 = false) :
    svFrameIn f s = served f s := by
  have hidle : (svEntries s.cfg.package).foldl (runningEntry f asdus (frameShift s f)) (served f s) = served f s :=
    foldl_idle fun e he => by simp [runningEntry, hnone e he]
  rw [svFrameIn_next hb h, hidle, armedEntries, served_armedPackage, harmed]

/-- An accepted GOOSE message writes its subscription: fresh with the message's TAL, its numbers noted (R77). -/
theorem gooseEntryFrame_accepted {i : Nat} {ws : List Word} {t : Time} {g : GooseMsg} {s : State} (hnds : g.ndsCom = false)
    (hshape : gsShapeOk ws g = true) (hrev : g.confRev = gsConfRev ws) :
    ∃ x : GooseSub, gooseEntryFrame i ws t g s = setSub i x s ∧ x.accepted = some (t, g.talMs) ∧ x.ndsCom = false ∧
      x.stale = false ∧ (g.stNum, g.sqNum) ∈ x.seen := by
  unfold gooseEntryFrame
  extract_lets x0 x1 repeated x2
  rw [if_neg (by simp [hnds]), if_neg (by simp [hshape]), if_neg (by simp [hrev])]
  have h2 : x2.accepted = some (t, g.talMs) ∧ x2.ndsCom = false ∧ x2.stale = false ∧ x2.seen = x1.seen := by
    unfold x2
    split <;> exact ⟨rfl, rfl, rfl, rfl⟩
  obtain ⟨hacc, hnds2, hstale, hseen⟩ := h2
  refine ⟨_, rfl, hacc, hnds2, hstale, ?_⟩
  dsimp only
  split
  next hrep => exact hseen ▸ List.contains_iff_mem.mp hrep
  next => exact List.mem_cons_self

/-- A GOOSE frame whose turn has come goes to the subscriptions that it matches; one with the simulation flag to none
(R77). -/
theorem gooseFrameIn_next {f : Frame} {g : GooseMsg} {s : State} (hb : f.body = .goose g)
    (h : nextServed s = some (f.port, f)) :
    gooseFrameIn f s = if g.simulation then served f s else
      (gsEntries (served f s).cfg.package).foldl (fun s e =>
        if gsMatches s.cfg.package f g e.2 then gooseEntryFrame e.1 e.2 f.tArr g s else s) (served f s) := by
  unfold gooseFrameIn
  rw [hb, serve_named h]

/-- A row that names a frame whose turn has not come changes nothing (R63, log 44). -/
theorem busFrame_other {f : Frame} {s : State} (h : nextServed s ≠ some (f.port, f)) :
    svFrameIn f s = s ∧ gooseFrameIn f s = s := by
  constructor
  · unfold svFrameIn
    rw [serve_other h]
    split <;> simp_all
  · unfold gooseFrameIn
    rw [serve_other h]
    split <;> simp_all

/-- A stream's loss past its loss time, reported once (R72). -/
theorem streamLost_eq (i : Nat) (s : State) :
    let ws := recOr s.cfg.package secSv i []
    let x := streamOf s false i
    let due := (svLoss ws : Int) * 4000000 ≤ (s.tb.now - x.lastArr.getD x.since) * 3
    streamLost i s = if svEnabled ws = true ∧ x.lost = false ∧ due then
      sticky 1 13 (sticky 1 3 (tally 0x0307 [1, item i, item (svStation ws)]
        (tally 0x0302 [item i, item (svStation ws), item (sheafOf s.tb.now)]
          (setStream false i { x with lost := true, prev := none } s))))
      else s := by
  intro ws x due
  simp only [streamLost, decide_eq_true_eq, ite_not]
  rfl

/-- A subscription's TAL runs out, reported once (R78). -/
theorem gooseStale_eq {i : Nat} {t : Time} {tal : Nat} {s : State} (hacc : (subOf s i).accepted = some (t, tal)) :
    gooseStale i s = if gsEnabled (recOr s.cfg.package secGooseSub i []) = true ∧ (subOf s i).stale = false ∧
        msSteps tal < s.tb.now - t then
      sticky 1 13 (tally 0x0307 [0, item i, item (gsStation (recOr s.cfg.package secGooseSub i []))]
        (setSub i { subOf s i with stale := true } s))
      else s := by
  unfold gooseStale
  extract_lets ws x
  split
  next hnone => exact absurd (hacc.symm.trans hnone) (by simp)
  next hsome =>
    cases hacc.symm.trans hsome
    rfl

/-- Settles O38: who a served frame reaches, then what its entry makes of it. -/
theorem streamsFollowTheirFrames : Obligations.StreamsFollowTheirFrames := by
  refine ⟨fun f s h => ?_,
    fun f asdus s hb h => ⟨fun harmed hnone => ?_, fun i ws hmem hone hmatch hcheck hprev => ?_⟩,
    fun i s => congrArg Host.Outcome.next (streamLost_eq i s),
    fun f g s hb h => ⟨fun hsim => ?_, fun i ws hsim hentries hmatch hshape hnds hrev => ?_⟩,
    fun i t tal s hacc => congrArg Host.Outcome.next (gooseStale_eq hacc)⟩
  · exact (busFrame_other h).imp (congrArg Host.Outcome.next) (congrArg Host.Outcome.next)
  · exact congrArg Host.Outcome.next (svFrameIn_unmatched hb h harmed hnone)
  · obtain ⟨⟨harr, hlost, hrev⟩, hs⟩ := svFrameIn_received hb h hmem hone hmatch hcheck hprev
    exact ⟨_, rfl, harr, hlost, hrev, congrArg Standing.glb hs, congrArg Standing.zones hs, congrArg Standing.wires hs,
      congrArg Standing.cfg hs, congrArg Standing.pf0 hs, congrArg Standing.pf1 hs, congrArg Standing.mem hs⟩
  · exact congrArg Host.Outcome.next ((gooseFrameIn_next hb h).trans (if_pos hsim))
  · obtain ⟨x, hx, hacc, hndsx, hstale, hseen⟩ :=
      gooseEntryFrame_accepted (i := i) (t := f.tArr) (s := served f s) hnds hshape hrev
    have heq : gooseFrameIn f s = setSub i x (served f s) := by
      rw [gooseFrameIn_next hb h, served_cfg, hentries, hsim, List.foldl_cons, List.foldl_nil, served_cfg, hmatch, ← hx]
      rfl
    have hsub : subOf (setSub i x (served f s)) i = x := by simp [subOf, setSub]
    exact ⟨_, congrArg Host.Outcome.next heq, by rw [hsub, hacc], by rw [hsub, hndsx], by rw [hsub, hstale],
      by rwa [hsub], rfl⟩

end Sys2Proof.Machine.BusProofs
end

section
/-!
SUPPORT. PRP pairs, links and untimed frames (03_process_bus_ingest.md R73 to R75; 04_timebase.md R107).
-/
namespace Sys2Proof.Machine.BusProofs
open Sys2Proof.Safety Sys2Proof.Machine.SheafProofs

@[simp] theorem portOf_setPort_same (n : Nat) (x : Port) (s : State) : portOf (setPort n x s) n = x := by
  simp [portOf, setPort]

theorem portOf_setPort_other {n m : Nat} (h : n ≠ m) (x : Port) (s : State) : portOf (setPort n x s) m = portOf s m := by
  simp [portOf, setPort, h]

@[simp] theorem tally_cfg (event : Half) (detail : List Quad) (s : State) : (tally event detail s).cfg = s.cfg := by
  have h := congrArg State.cfg (tally_frame event detail s)
  exact h

@[simp] theorem sticky_cfg (r b : Nat) (s : State) : (sticky r b s).cfg = s.cfg := by
  have h := congrArg State.cfg (sticky_spec r b s)
  exact h

@[simp] theorem tally_tb (event : Half) (detail : List Quad) (s : State) : (tally event detail s).tb = s.tb := by
  have h := congrArg State.tb (tally_frame event detail s)
  exact h

@[simp] theorem sticky_tb (r b : Nat) (s : State) : (sticky r b s).tb = s.tb := by
  have h := congrArg State.tb (sticky_spec r b s)
  exact h

/-- Whether a frame fits before a port's next timed launch follows from settings, time and queue alone (R107). -/
theorem untimedFits_congr {n : Nat} {e : Launch} {t : Time} {s u : State} (hcfg : u.cfg = s.cfg) (htb : u.tb = s.tb)
    (hqueue : (portOf u n).queue = (portOf s n).queue) : untimedFits n e t u = untimedFits n e t s := by
  have hstamp : egressUnits u n = egressUnits s n := by funext t; rw [egressUnits, egressUnits, htb]
  have htime : frameTime u n e = frameTime s n e := by rw [frameTime, frameTime, hcfg]
  rw [untimedFits, untimedFits, hqueue, hstamp, htime]

/-- A frame that no follow-up stands behind leaves a port that holds nothing back (R107). -/
theorem releaseUntimed_single {n : Nat} {t : Time} {e : Launch} {s : State} (hnone : (portOf s n).untimed = [])
    (hfits : untimedFits n e t s = true) (halone : followOf s n e t = none) :
    releaseUntimed n t [e] s = setPort n { portOf s n with untimed := [] } (sendNow n e t s) := by
  rw [releaseUntimed, hnone]
  show sendUntimed n 3 t [e] s = _
  rw [sendUntimed, if_pos hfits, halone]
  rfl

/-- A state without what the sending of frames touches: the buffers, the counters, the record of what was sent (R107). -/
def besidesPorts (s : State) : State := { s with ing := Ingest.init, cnt := [], sent := [] }

theorem besidesPorts_setPort (n : Nat) (x : Port) (s : State) : besidesPorts (setPort n x s) = besidesPorts s := rfl

theorem besidesPorts_sendNow (n : Nat) (e : Launch) (t : Time) (s : State) :
    besidesPorts (sendNow n e t s) = besidesPorts s := rfl

theorem eq_of_besidesPorts {s t : State} (h : besidesPorts t = besidesPorts s) :
    t = { s with cnt := t.cnt, sent := t.sent, ing := t.ing } :=
  congrArg (fun x : State => { x with cnt := t.cnt, sent := t.sent, ing := t.ing }) h

/-- A port may send a supervision frame at once: it is not disabled, has link, holds nothing back, and the frame fits (R73,
R107). -/
def supervisionFree (n seq lan : Nat) (s : State) : Prop :=
  mayTransmit s n = true ∧ (portOf s n).untimed = [] ∧ untimedFits n (supervisionLaunch n seq lan) s.tb.now s = true

/-- What decides whether a port may send a supervision frame stays. -/
theorem supervisionFree_of {n seq lan : Nat} {s u : State} (h : supervisionFree n seq lan s) (hcfg : u.cfg = s.cfg)
    (htb : u.tb = s.tb) (hlink : (portOf u n).link = (portOf s n).link)
    (huntimed : (portOf u n).untimed = (portOf s n).untimed) (hqueue : (portOf u n).queue = (portOf s n).queue) :
    supervisionFree n seq lan u := by
  obtain ⟨hmay, hnone, hfits⟩ := h
  refine ⟨?_, huntimed.trans hnone, ?_⟩
  · rw [mayTransmit, hcfg, hlink]; exact hmay
  · rw [untimedFits_congr hcfg htb hqueue, htb]; exact hfits

/-- One port's part of a pair's supervision (R73). -/
def sendSupervision (n seq lan : Nat) (s : State) : State :=
  if mayTransmit s n then releaseUntimed n s.tb.now [supervisionLaunch n seq lan] s else s

/-- The state in which a port has sent its LAN's supervision frame. -/
def supervised (n seq lan : Nat) (s : State) : State :=
  setPort n { portOf s n with untimed := [] } (sendNow n (supervisionLaunch n seq lan) s.tb.now s)

theorem sendSupervision_free {n seq lan : Nat} {s : State} (h : supervisionFree n seq lan s) :
    sendSupervision n seq lan s = supervised n seq lan s := by
  obtain ⟨hmay, hnone, hfits⟩ := h
  rw [sendSupervision, if_pos hmay, releaseUntimed_single hnone hfits rfl, supervised]

/-- Both LANs of a pair send the supervision frame under one number, which the pair's counter has left (R73). -/
theorem prpSupervision_eq {n lo : Nat} {s : State} (hpair : prpPair s.cfg.package n = some lo) :
    let hi := portPartner (portWords s.cfg.package lo)
    let q := (portOf s lo).prpSeq
    lo ≠ hi → supervisionFree lo q 0xA s → supervisionFree hi q 0xB s →
      prpSupervision n s = supervised hi q 0xB (supervised lo q 0xA (takePrpSeq lo s)) := by
  intro hi q hne hlo hhi
  have hlo' : supervisionFree lo q 0xA (takePrpSeq lo s) :=
    supervisionFree_of hlo rfl rfl (by simp [takePrpSeq]) (by simp [takePrpSeq]) (by simp [takePrpSeq])
  have hport : portOf (supervised lo q 0xA (takePrpSeq lo s)) hi = portOf s hi :=
    (portOf_setPort_other hne _ _).trans (portOf_setPort_other hne _ _)
  have hhi' : supervisionFree hi q 0xB (supervised lo q 0xA (takePrpSeq lo s)) :=
    supervisionFree_of hhi rfl rfl (by rw [hport]) (by rw [hport]) (by rw [hport])
  rw [← sendSupervision_free hhi', ← sendSupervision_free hlo', prpSupervision, hpair]
  rfl

theorem besidesPorts_supervised (n seq lan : Nat) (s : State) :
    besidesPorts (supervised n seq lan s) = besidesPorts s :=
  (besidesPorts_setPort _ _ _).trans (besidesPorts_sendNow _ _ _ _)

theorem supervised_sent (n seq lan : Nat) (s : State) :
    (supervised n seq lan s).sent = ⟨n, .prpSupervision, s.tb.now, egressUnits s n s.tb.now,
      (supervisionLaunch n seq lan).head, .supervision, (supervisionLaunch n seq lan).trailer⟩ :: s.sent := rfl

/-- The number of the pair moves on, whatever its two ports have sent (R73). -/
theorem supervised_prpSeq (lo hi q seq : Nat) {s : State} (hne : lo ≠ hi) :
    (portOf (supervised hi seq 0xB (supervised lo seq 0xA (setPort lo { portOf s lo with prpSeq := q } s))) lo).prpSeq =
      q := by
  rw [supervised, portOf_setPort_other hne.symm]
  show (portOf (supervised lo seq 0xA (setPort lo { portOf s lo with prpSeq := q } s)) lo).prpSeq = q
  simp only [supervised, portOf_setPort_same]

/-- A report of a pair's LAN keeps the settings (R75). -/
theorem lanDown_cfg (pair cause : Nat) (src : Mac) (s : State) : (lanDown pair cause src s).cfg = s.cfg := by
  unfold lanDown
  extract_lets x
  split
  · rfl
  · rw [sticky_cfg, tally_cfg, setPort_cfg]

/-- A LAN is reported where its link is lost, or while no report stands (R75). -/
theorem lanDown_reports {pair cause : Nat} {src : Mac} {s : State}
    (h : (portOf s pair).lanDown = none ∨ cause = 0) :
    lanDown pair cause src s = sticky 1 6 (tally 0x0305 [item pair, 0, item cause, src.zeroExtend 64]
      (setPort pair { portOf s pair with lanDown := some (cause, src, s.tb.now) } s)) := by
  have hfree : ¬ ((portOf s pair).lanDown.isSome = true ∧ cause ≠ 0) := by
    rintro ⟨hstands, hcause⟩
    exact h.elim (fun hn => by simp [hn] at hstands) hcause
  rw [lanDown, if_neg hfree]

/-- A change of link as it is reported (R75, log 28): a pair's loss as its LAN's, a change at another port as the port's. -/
def linkReport (n : Nat) (up : Bool) (s : State) : State :=
  match prpPair s.cfg.package n with
  | some lo => if up then s else lanDown lo 0 0 s
  | none => tally 0x0306 [item n, if up then 1 else 0] s

theorem linkReport_cfg (n : Nat) (up : Bool) (s : State) : (linkReport n up s).cfg = s.cfg := by
  unfold linkReport
  split
  · split
    · rfl
    · exact lanDown_cfg _ _ _ _
  · exact tally_cfg _ _ _

/-- A link that changes at a port without PTP is noted and reported; the untimed frames of a lost one go (R75, R107). -/
theorem linkChange_eq {n : Nat} {up : Bool} {s : State} (hlink : (portOf s n).link ≠ up) (hptp : ptpActive s n = false) :
    linkChange n up s = linkReport n up
      (setPort n { portOf s n with link := up, untimed := if up then (portOf s n).untimed else [] } s) := by
  unfold linkChange
  extract_lets x a b
  have hcfg : b.cfg = s.cfg := linkReport_cfg n up a
  have hquiet : ¬ ptpActive b n = true := by
    rw [ptpActive, hcfg, ← ptpActive, hptp]
    decide
  rw [if_neg hlink, if_neg hquiet]
  rfl

/-- A silent source leaves the node table, and no other does (R74). -/
theorem nodeExpiry_eq {n lo : Nat} {src : Mac} {t : Time} {x : PrpNode} {s : State}
    (hpair : prpPair s.cfg.package n = some lo) (hnode : nodeOf s lo src = some x) :
    nodeExpiry n src t s = if msSteps 400 ≤ t - x.last then
      { advance t s with ing := { s.ing with
        nodes := s.ing.nodes.filter (fun y => !(y.pair == lo && y.src == src)) } }
      else advance t s := by
  have hnode' : nodeOf (advance t s) lo src = some x := by rw [nodeOf, advance_ing]; exact hnode
  simp only [nodeExpiry, advance_cfg, hpair, hnode', advance_ing]

/-- A source that one LAN alone has delivered for 2 s has its other LAN reported, once (R75). -/
theorem oneLan_eq {n lo : Nat} {src : Mac} {t : Time} {x : PrpNode} {s : State}
    (hpair : prpPair s.cfg.package n = some lo) (hnode : nodeOf s lo src = some x) :
    oneLan n src t s = if ¬ (msSteps 2000 ≤ t - x.seenA.getD x.since ↔ msSteps 2000 ≤ t - x.seenB.getD x.since) then
      lanDown lo 1 src (advance t s) else advance t s := by
  have hnode' : nodeOf (advance t s) lo src = some x := by rw [nodeOf, advance_ing]; exact hnode
  simp only [oneLan, advance_cfg, hpair, hnode', bne_iff_ne, ne_eq, decide_eq_decide]

/-- Settles O39: each row's own rule, with the port's and the LAN's reports. -/
theorem prpPairsAndLinks : Obligations.PrpPairsAndLinks := by
  refine ⟨?_, fun n lo src t x s hpair hnode => congrArg Host.Outcome.next (nodeExpiry_eq hpair hnode), ?_,
    fun n up s => ⟨fun hsame => ?_, fun hlink hptp => ?_⟩⟩
  · intro n lo s hpair hi q a b free hne hlo hhi
    refine ⟨_, congrArg Host.Outcome.next (prpSupervision_eq hpair hne hlo hhi), ?_, ?_, ?_⟩
    · exact supervised_prpSeq lo hi _ q hne
    · rw [supervised_sent, supervised_sent]
      rfl
    · exact eq_of_besidesPorts ((besidesPorts_supervised _ _ _ _).trans (besidesPorts_supervised _ _ _ (takePrpSeq lo s)))
  · intro n lo src t x s hpair hnode hdown a silent
    have hstands : (portOf a lo).lanDown = none := by rw [advance_portOf, hdown]
    refine congrArg Host.Outcome.next ((oneLan_eq hpair hnode).trans ?_)
    rw [lanDown_reports (.inl hstands), advance_portOf]
    rfl
  · show Host.Outcome.next (linkChange n up s) = _
    rw [linkChange, if_pos hsame]
  · intro a
    have heq : exec (.portLinkChange n up) s = .next (linkReport n up a) :=
      congrArg Host.Outcome.next (linkChange_eq hlink hptp)
    refine ⟨fun hnone => ?_, fun lo hlo hup => ?_, fun lo hlo hup => ?_⟩
    · rw [heq, linkReport, setPort_cfg, hnone]
    · rw [heq, linkReport, setPort_cfg, hlo, hup]
      exact congrArg Host.Outcome.next (lanDown_reports (.inr rfl))
    · rw [heq, linkReport, setPort_cfg, hlo, hup]
      rfl

end Sys2Proof.Machine.BusProofs
end

section
/-!
SUPPORT. PTP messages (04_timebase.md R97 to R100, R107).
-/
namespace Sys2Proof.Machine.BusProofs
open Sys2Proof.Safety Sys2Proof.Machine.SheafProofs

/-- What the timebase keeps through events (R87, R91, R97): its record of settings, and the PTP ports. -/
theorem advance_tb_parts (t : Time) (s : State) :
    (advance t s).tb.config = s.tb.config ∧ (advance t s).tb.ports = s.tb.ports := by
  unfold advance; split <;> exact ⟨rfl, rfl⟩

@[simp] theorem advance_config (t : Time) (s : State) : (advance t s).tb.config = s.tb.config := (advance_tb_parts t s).1

@[simp] theorem advance_ptpOf (t : Time) (s : State) (n : Nat) : ptpOf (advance t s) n = ptpOf s n := by
  rw [ptpOf, ptpOf, (advance_tb_parts t s).2]

@[simp] theorem ptpOf_setPtp_same (n : Nat) (x : PtpPort) (s : State) : ptpOf (setPtp n x s) n = x := by
  simp [ptpOf, setPtp]

theorem ptpOf_setPtp_other {n m : Nat} (h : n ≠ m) (x : PtpPort) (s : State) : ptpOf (setPtp n x s) m = ptpOf s m := by
  simp [ptpOf, setPtp, h]

theorem setPtp_config (n : Nat) (x : PtpPort) (s : State) : (setPtp n x s).tb.config = s.tb.config := rfl

/-- What PTP leaves alone: settings, zones, trip wires, samples; and the PTP ports themselves, which the servo and the
change of a source leave alone too (R92 to R103). -/
structure Unclocked where
  cfg : Settings
  zones : FMap Zone
  wires : FMap Wire
  samp : Sampling
  ports : FMap PtpPort

def unclocked (s : State) : Unclocked := ⟨s.cfg, s.zones, s.wires, s.samp, s.tb.ports⟩

theorem unclocked_advance (t : Time) (s : State) : unclocked (advance t s) = unclocked s := by
  unfold advance; split <;> rfl

theorem unclocked_sticky (r b : Nat) (s : State) : unclocked (sticky r b s) = unclocked s := by
  have h := congrArg unclocked (sticky_spec r b s)
  exact h

theorem unclocked_tally (event : Half) (detail : List Quad) (s : State) :
    unclocked (tally event detail s) = unclocked s := by
  have h := congrArg unclocked (tally_frame event detail s)
  exact h

theorem unclocked_postEvent (code : Half) (arg : Quad) (s : State) : unclocked (postEvent code arg s) = unclocked s := by
  have h := congrArg unclocked (postEvent_spec code arg s).1
  exact h

theorem unclocked_tbGo (new : TbState) (s : State) : unclocked (tbGo new s) = unclocked s := by
  unfold tbGo
  extract_lets old s1 s2 s3 fresh armDue
  have h2 : unclocked s2 = unclocked s := (unclocked_postEvent _ _ _).trans (unclocked_tally _ _ _)
  have h3 : unclocked s3 = unclocked s2 := by
    unfold s3
    split
    · exact unclocked_sticky _ _ _
    · exact unclocked_sticky _ _ _
    · rfl
  clear_value s3 fresh armDue
  split
  · rfl
  · exact h3.trans h2

theorem unclocked_noteMeasurement (theta : Int) (t : Time) (s : State) :
    unclocked (noteMeasurement theta t s) = unclocked s := by
  unfold noteMeasurement
  extract_lets s1
  split
  · exact unclocked_tbGo _ _
  · exact unclocked_tbGo _ _
  · rfl

theorem unclocked_feedServo (theta : Int) (t : Time) (since : Option Time) (s : State) :
    unclocked (feedServo theta t since s) = unclocked s := by
  unfold feedServo
  extract_lets c tau th lim ki kp i y s1 near run _ s2 servo s3
  have h3 : unclocked s3 = unclocked s := unclocked_noteMeasurement theta t s
  clear_value s3
  split
  · exact (unclocked_tbGo _ _).trans h3
  · exact h3

theorem unclocked_servoMeasurement (theta : Int) (t : Time) (s : State) :
    unclocked (servoMeasurement theta t s) = unclocked s := by
  unfold servoMeasurement
  extract_lets c ok gated big outlier hist sum s1 _ s2
  split
  · exact unclocked_feedServo _ _ _ _
  · split
    · split
      · refine (unclocked_noteMeasurement _ _ _).trans ?_
        split <;> rfl
      · exact unclocked_feedServo _ _ _ _
    · show unclocked s2 = _
      unfold s2
      split
      · rfl
      · exact unclocked_noteMeasurement _ _ _

theorem unclocked_sourceLost (s : State) : unclocked (sourceLost s) = unclocked s := by
  unfold sourceLost
  extract_lets s1
  split
  · exact unclocked_tbGo _ _
  · exact unclocked_tbGo _ _
  · rfl
  · rfl

theorem unclocked_changeSource (new : Nat) (s : State) : unclocked (changeSource new s) = unclocked s :=
  unclocked_tally _ _ _

theorem unclocked_ptpLost (t : Time) (s : State) : unclocked (ptpLost t s) = unclocked s := by
  unfold ptpLost
  split
  · rfl
  · split
    · exact unclocked_changeSource _ _
    · exact unclocked_sourceLost _

theorem unclocked_ptpSeconds (theta : Int) (s : State) : unclocked (ptpSeconds theta s) = unclocked s := by
  unfold ptpSeconds
  extract_lets d
  split
  · rfl
  · split
    · rfl
    · split <;> rfl

/-- What a completed measurement of port n leaves to be read (R98, R345), and what it leaves alone. -/
def Measured (n : Nat) (theta : Int) (s t : State) : Prop :=
  (ptpOf t n).lastOffset = theta ∧ (ptpOf t n).sync = none ∧
    t.cfg = s.cfg ∧ t.zones = s.zones ∧ t.wires = s.wires ∧ t.samp = s.samp

theorem Measured.of_unclocked {n : Nat} {theta : Int} {s t u : State} (h : Measured n theta s t)
    (hu : unclocked u = unclocked t) : Measured n theta s u := by
  obtain ⟨hoffset, hsync, hcfg, hzones, hwires, hsamp⟩ := h
  have hport : ptpOf u n = ptpOf t n := congrArg (fun x : Unclocked => FMap.get x.ports PtpPort.init n) hu
  exact ⟨hport ▸ hoffset, hport ▸ hsync, (congrArg Unclocked.cfg hu).trans hcfg,
    (congrArg Unclocked.zones hu).trans hzones, (congrArg Unclocked.wires hu).trans hwires,
    (congrArg Unclocked.samp hu).trans hsamp⟩

theorem Measured.setPtp {n : Nat} {theta : Int} {s t : State} (h : Measured n theta s t) (w : Nat) :
    Measured n theta s (setPtp n { ptpOf t n with withinPps := w } t) := by
  unfold Measured
  rw [ptpOf_setPtp_same]
  exact h

theorem ptpMeasurement_measured (n : Nat) (theta : Int) (t : Time) (s : State) :
    Measured n theta s (ptpMeasurement n theta t s) := by
  unfold ptpMeasurement
  extract_lets x valid s1 c _ s2 near w _ s3 s4
  have h1 : Measured n theta s s1 := by
    unfold Measured s1
    rw [ptpOf_setPtp_same]
    exact ⟨rfl, rfl, rfl, rfl, rfl, rfl⟩
  have h2 : Measured n theta s s2 := h1.of_unclocked rfl
  have h4 : Measured n theta s s4 := (h2.setPtp _).of_unclocked (unclocked_ptpSeconds _ _)
  split
  · exact h1
  · split
    · split
      · exact h4.of_unclocked (unclocked_changeSource _ _)
      · exact h4
    · exact (h2.of_unclocked rfl).of_unclocked (unclocked_servoMeasurement _ _ _)

/-- What best-master selection leaves alone: settings, zones, wires, and every port's Announce (R98). -/
structure Unselected where
  cfg : Settings
  zones : FMap Zone
  wires : FMap Wire
  announce : Nat → Option Announce

def unselected (s : State) : Unselected := ⟨s.cfg, s.zones, s.wires, fun n => (ptpOf s n).announce⟩

theorem unselected_of_unclocked {s t : State} (h : unclocked t = unclocked s) : unselected t = unselected s :=
  congrArg (fun x : Unclocked =>
    (⟨x.cfg, x.zones, x.wires, fun n => (FMap.get x.ports PtpPort.init n).announce⟩ : Unselected)) h

theorem unselected_portState (n st : Nat) (s : State) :
    unselected (setPtp n { ptpOf s n with state := st } s) = unselected s := by
  have hannounce : (fun m => (ptpOf (setPtp n { ptpOf s n with state := st } s) m).announce) =
      fun m => (ptpOf s m).announce := by
    funext m
    by_cases h : n = m
    · subst h
      rw [ptpOf_setPtp_same]
    · rw [ptpOf_setPtp_other h]
  exact congrArg (Unselected.mk s.cfg s.zones s.wires) hannounce

/-- Once a port's Announce is written, whatever keeps the Announces reads it back. -/
theorem announce_of_unselected {n : Nat} {x : PtpPort} {s t : State} (h : unselected t = unselected (setPtp n x s)) :
    (ptpOf t n).announce = x.announce :=
  (congrFun (congrArg Unselected.announce h) n).trans (congrArg PtpPort.announce (ptpOf_setPtp_same n x s))

theorem unselected_selectMaster (s : State) : unselected (selectMaster s) = unselected s := by
  unfold selectMaster
  extract_lets best old new gm s1 _ s2
  have h2 : unselected s2 = unselected s := foldl_keeps unselected _ (fun s n => unselected_portState n _ s) _ _
  have htally (r b : Nat) (event : Half) (detail : List Quad) :
      unselected (sticky r b (tally event detail s2)) = unselected s2 :=
    unselected_of_unclocked ((unclocked_sticky _ _ _).trans (unclocked_tally _ _ _))
  clear_value s2 gm new old
  split
  · split
    · exact (htally _ _ _ _).trans h2
    · split
      · exact (unselected_of_unclocked (unclocked_tally _ _ _)).trans h2
      · exact h2
  · split
    · exact (htally _ _ _ _).trans h2
    · exact h2

/-- A PTP frame whose turn has come is served, and the timebase reads the message's instant. -/
theorem servePtp_next {f : Frame} {t : Time} {s : State} (h : nextServed s = some (f.port, f)) (hb : f.body = .ptp true) :
    servePtp f.port t s = some (advance t (served f s)) := by
  rw [servePtp, serve_next h (by rw [hb]; rfl)]
  rfl

/-- Serving a frame touches the buffers and the time; PTP's ports and the record of settings stay. -/
theorem servePtp_keeps {n : Nat} {t : Time} {s a : State} (h : servePtp n t s = some a) :
    unclocked a = unclocked s ∧ a.tb.config = s.tb.config ∧ a.sent = s.sent := by
  obtain ⟨x, hx, rfl⟩ := Option.map_eq_some_iff.mp h
  have hserve : unclocked x.2 = unclocked s ∧ x.2.tb.config = s.tb.config ∧ x.2.sent = s.sent := by
    unfold serve at hx
    split at hx
    next m f _ =>
      split at hx
      · cases hx
        dsimp only
        split
        · exact ⟨rfl, rfl, rfl⟩
        · exact ⟨unclocked_advance _ _, advance_config _ _, advance_sent _ _⟩
      · cases hx
    next => cases hx
  obtain ⟨hkeeps, hconfig, hsent⟩ := hserve
  exact ⟨(unclocked_advance _ _).trans hkeeps, (advance_config _ _).trans hconfig, (advance_sent _ _).trans hsent⟩

/-- A Pdelay_Resp on a port that holds nothing back and has no timed launch queued leaves with its follow-up behind it (R97,
R107). -/
theorem releaseUntimed_followed {n : Nat} {t : Time} {e g : Launch} {s : State} (hnone : (portOf s n).untimed = [])
    (hqueue : (portOf s n).queue = []) (hfollow : followOf s n e t = some g)
    (hlast : followOf (sendNow n e t s) n g (t + frameTime s n e) = none) :
    releaseUntimed n t [e] s = setPort n { portOf s n with untimed := [] }
      (sendNow n g (t + frameTime s n e) (sendNow n e t s)) := by
  have hfits (x : Launch) (u : Time) (v : State) (hv : (portOf v n).queue = []) : untimedFits n x u v = true := by
    rw [untimedFits, hv]
  rw [releaseUntimed, hnone]
  show sendUntimed n 3 t [e] s = _
  rw [sendUntimed, if_pos (hfits _ _ _ hqueue), hfollow]
  show sendUntimed n 2 (t + frameTime s n e) [g] (sendNow n e t s) = _
  rw [sendUntimed, if_pos (hfits g _ (sendNow n e t s) hqueue), hlast]
  rfl

/-- A frame that does not end before the next timed launch is held back (R107). -/
theorem releaseUntimed_held {n : Nat} {t : Time} {e : Launch} {s : State} (hnone : (portOf s n).untimed = [])
    (hlate : untimedFits n e t s = false) : releaseUntimed n t [e] s = setPort n { portOf s n with untimed := [e] } s := by
  rw [releaseUntimed, hnone]
  show sendUntimed n 3 t [e] s = _
  rw [sendUntimed, if_neg (by simp [hlate])]

theorem pdelayRespIn_served {r : PdelayResp} {a s : State} (hs : servePtp r.port r.t4 s = some a) :
    pdelayRespIn r s = pdelayServed r a := by
  rw [pdelayRespIn, hs]; rfl

theorem announceIn_served {m : Announce} {a s : State} (hs : servePtp m.port m.stamp s = some a) :
    announceIn m s = announceServed m a := by
  rw [announceIn, hs]; rfl

section
variable {m : PtpMsg} {a s : State} (hs : servePtp m.port m.stamp s = some a)
include hs

theorem syncIn_served : syncIn m s = syncServed m a := by
  rw [syncIn, hs]; rfl

theorem followUpIn_served : followUpIn m s = followUpServed m a := by
  rw [followUpIn, hs]; rfl

theorem pdelayReqIn_served : pdelayReqIn m s = if ¬ (ptpActive a m.port = true ∧ mayTransmit a m.port = true) then a
    else releaseUntimed m.port a.tb.now
      [ptpLaunch a m.port (.pdelayResp m.seqId) 3 m.seqId m.srcIdentity (ingressUnits a m.port m.stamp)] a := by
  unfold pdelayReqIn
  rw [hs]

end

/-- A two-step Sync of the master waits for its Follow_Up (R97, R99). -/
theorem syncServed_twoStep {m : PtpMsg} {a : State} (hmaster : fromMaster a m.port m.domain m.srcIdentity = true)
    (htwo : m.twoStep = true) :
    syncServed m a = setPtp m.port { ptpOf a m.port with
      logSync := clampInt m.logInterval (-4) 0
      sync := some (m.seqId, ingressUnits a m.port m.stamp, m.correction) }
      (setPtp m.port { ptpOf a m.port with logSync := clampInt m.logInterval (-4) 0 } a) := by
  simp only [syncServed, hmaster, htwo, not_true_eq_false, if_false, if_true, ptpOf_setPtp_same]
  rfl

/-- A Follow_Up that its Sync does not wait for measures nothing (R97). -/
theorem followUpServed_unmatched {m : PtpMsg} {a : State} (h : ∀ q, (ptpOf a m.port).sync = some q → q.1 ≠ m.seqId) :
    followUpServed m a = a := by
  unfold followUpServed
  split
  · rfl
  · split
    next q t2 c hsync => exact if_neg (h _ hsync)
    next => rfl

/-- The Follow_Up of a waiting Sync completes the measurement (R97, R100). -/
theorem followUpServed_matched {m : PtpMsg} {a : State} {t2 c : Int}
    (hmaster : fromMaster a m.port m.domain m.srcIdentity = true) (h : (ptpOf a m.port).sync = some (m.seqId, t2, c)) :
    followUpServed m a =
      ptpMeasurement m.port (syncOffset a m.port t2 m.origin (c + m.correction)) m.stamp a := by
  unfold followUpServed
  rw [if_neg (by simp [hmaster]), h]
  exact if_pos rfl

/-- The response to a Pdelay_Req, and the follow-up that tells its egress stamp (R97, R100). -/
def pdelayAnswer (m : PtpMsg) (a : State) : Launch :=
  ptpLaunch a m.port (.pdelayResp m.seqId) 3 m.seqId m.srcIdentity (ingressUnits a m.port m.stamp)

def pdelayFollowUp (m : PtpMsg) (a : State) : Launch :=
  ptpLaunch a m.port (.pdelayFollow m.seqId) 10 m.seqId m.srcIdentity (egressUnits a m.port a.tb.now)

/-- A port that sends at once answers a Pdelay_Req with the response and its follow-up (R97, R107). -/
theorem pdelayReqIn_answered {m : PtpMsg} {a s : State} (hs : servePtp m.port m.stamp s = some a)
    (hactive : ptpActive a m.port = true) (hmay : mayTransmit a m.port = true) (hnone : (portOf a m.port).untimed = [])
    (hqueue : (portOf a m.port).queue = []) :
    pdelayReqIn m s = setPort m.port { portOf a m.port with untimed := [] }
      (sendNow m.port (pdelayFollowUp m a) (a.tb.now + frameTime a m.port (pdelayAnswer m a))
        (sendNow m.port (pdelayAnswer m a) a.tb.now a)) := by
  rw [pdelayReqIn_served hs, if_neg (by simp [hactive, hmay])]
  exact releaseUntimed_followed hnone hqueue rfl rfl

/-- A port that waits for a timed launch holds the response to a Pdelay_Req back (R107). -/
theorem pdelayReqIn_held {m : PtpMsg} {a s : State} (hs : servePtp m.port m.stamp s = some a)
    (hactive : ptpActive a m.port = true) (hmay : mayTransmit a m.port = true) (hnone : (portOf a m.port).untimed = [])
    (hlate : untimedFits m.port (pdelayAnswer m a) a.tb.now a = false) :
    pdelayReqIn m s = setPort m.port { portOf a m.port with untimed := [pdelayAnswer m a] } a := by
  rw [pdelayReqIn_served hs, if_neg (by simp [hactive, hmay])]
  exact releaseUntimed_held hnone hlate

/-- A peer-delay message is made of the settings and the record of the timebase alone (R97). -/
theorem ptpLaunch_advance (t : Time) (s : State) (n : Nat) (k : TxKind) (type seq : Nat) (asker : Quad) (stamp : Int) :
    ptpLaunch (advance t s) n k type seq asker stamp = ptpLaunch s n k type seq asker stamp := by
  simp only [ptpLaunch, clockIdentity, advance_cfg, advance_config]

/-- Whether a Pdelay_Req leaves does not change with the time of the last event alone (R97). -/
theorem pdelayReqOut_eq (n : Nat) (t : Time) (s : State) :
    pdelayReqOut n t s = if ptpActive s n = true ∧ mayTransmit s n = true ∧ pdelayDue s n t = true then
      sendNow n (ptpLaunch s n .pdelayReq 2 (ptpOf s n).reqSeq 0 0) t
        (setPtp n { ptpOf s n with reqSeq := ((ptpOf s n).reqSeq + 1) % 65536, reqAt := some t } (advance t s))
      else advance t s := by
  have hactive : ptpActive (advance t s) n = ptpActive s n := by rw [ptpActive, advance_cfg, ptpActive]
  have hmay : mayTransmit (advance t s) n = mayTransmit s n := by
    rw [mayTransmit, advance_cfg, advance_portOf, mayTransmit]
  have hdue : pdelayDue (advance t s) n t = pdelayDue s n t := by rw [pdelayDue, advance_ptpOf, pdelayDue]
  simp only [pdelayReqOut, hactive, hmay, hdue, advance_ptpOf, ptpLaunch_advance, ite_not]

/-- A Pdelay_Req that is due leaves with the port's number, which moves on (R97). -/
theorem pdelayReqOut_sends {n : Nat} {t : Time} {s : State} (hactive : ptpActive s n = true)
    (hmay : mayTransmit s n = true) (hdue : pdelayDue s n t = true) :
    let e := ptpLaunch s n .pdelayReq 2 (ptpOf s n).reqSeq 0 0
    let u := pdelayReqOut n t s
    u.sent = ⟨n, .pdelayReq, t, egressUnits s n t, e.head, e.data, none⟩ :: s.sent ∧
      (ptpOf u n).reqSeq = ((ptpOf s n).reqSeq + 1) % 65536 ∧ (ptpOf u n).reqAt = some t ∧ u.cfg = s.cfg ∧
      u.ing = s.ing := by
  intro e u
  have hu := (pdelayReqOut_eq n t s).trans (if_pos ⟨hactive, hmay, hdue⟩)
  have hport : ptpOf u n =
      { ptpOf s n with reqSeq := ((ptpOf s n).reqSeq + 1) % 65536, reqAt := some t } := by
    show ptpOf (pdelayReqOut n t s) n = _
    rw [hu]
    exact ptpOf_setPtp_same _ _ (advance t s)
  have hsent : u.sent = ⟨n, .pdelayReq, t, egressUnits (advance t s) n t, e.head, e.data, none⟩ :: (advance t s).sent :=
    congrArg State.sent hu
  rw [egressUnits, advance_config, ← egressUnits, advance_sent] at hsent
  exact ⟨hsent, by rw [hport], by rw [hport], (congrArg State.cfg hu).trans (advance_cfg t s),
    (congrArg State.ing hu).trans (advance_ing t s)⟩

/-- The first Announce heard on a port of PTP is kept (R98). -/
theorem announceIn_first {a : Announce} {b s : State} (hs : servePtp a.port a.stamp s = some b)
    (hactive : ptpActive b a.port = true) (hdomain : a.domain = tcDomain s.tb.config)
    (hnone : (ptpOf s a.port).announce = none) :
    (ptpOf (announceIn a s) a.port).announce = some a ∧ (announceIn a s).cfg = s.cfg ∧ (announceIn a s).zones = s.zones := by
  obtain ⟨hkeeps, hconfig, -⟩ := servePtp_keeps hs
  have hfirst : (ptpOf b a.port).announce = none :=
    (congrArg (fun x : Unclocked => (FMap.get x.ports PtpPort.init a.port).announce) hkeeps).trans hnone
  have heq : announceIn a s = selectMaster (setPtp a.port { ptpOf b a.port with announce := some a } b) := by
    rw [announceIn_served hs, announceServed, if_neg (by simp [hactive, hdomain, hconfig])]
    simp [hfirst]
  have hkept := unselected_selectMaster (setPtp a.port { ptpOf b a.port with announce := some a } b)
  rw [heq]
  exact ⟨announce_of_unselected hkept, (congrArg Unselected.cfg hkept).trans (congrArg Unclocked.cfg hkeeps),
    (congrArg Unselected.zones hkept).trans (congrArg Unclocked.zones hkeeps)⟩

/-- A port whose Announce has not timed out keeps it, and one that heard none has none to forget (R98). -/
theorem announceTimeout_early {n : Nat} {t : Time} {s : State}
    (h : ∀ a, (ptpOf s n).announce = some a → t - a.stamp < 3 * logSteps a.logInterval) :
    announceTimeout n t s = advance t s := by
  simp only [announceTimeout, advance_ptpOf]
  split
  next => rfl
  next a ha => exact if_pos (h a ha)

/-- The port's Announce is forgotten after three of its intervals, and PTP is lost with the last one (R98, R99). -/
theorem announceTimeout_forgets {n : Nat} {t : Time} {s : State} {a : Announce} (ha : (ptpOf s n).announce = some a)
    (h : 3 * logSteps a.logInterval ≤ t - a.stamp) :
    (ptpOf (announceTimeout n t s) n).announce = none ∧ (announceTimeout n t s).cfg = s.cfg ∧
      (announceTimeout n t s).zones = s.zones ∧ (announceTimeout n t s).wires = s.wires := by
  have hkept : unselected (announceTimeout n t s) =
      unselected (setPtp n { ptpOf s n with announce := none } (advance t s)) := by
    simp only [announceTimeout, advance_ptpOf]
    split
    next hnone => exact absurd (ha.symm.trans hnone) (by simp)
    next b hb =>
      cases ha.symm.trans hb
      rw [if_neg (not_lt.mpr h)]
      split
      · exact (unselected_of_unclocked (unclocked_ptpLost _ _)).trans (unselected_selectMaster _)
      · exact unselected_selectMaster _
  have hadvance := unclocked_advance t s
  exact ⟨announce_of_unselected hkept, (congrArg Unselected.cfg hkept).trans (congrArg Unclocked.cfg hadvance),
    (congrArg Unselected.zones hkept).trans (congrArg Unclocked.zones hadvance),
    (congrArg Unselected.wires hkept).trans (congrArg Unclocked.wires hadvance)⟩

/-- Settles O41: each message's turn, then what the port makes of it. -/
theorem ptpMessages : Obligations.PtpMessages := by
  refine ⟨fun f t s h hb => servePtp_next h hb, ?_, ?_, ?_, ?_, ?_, ?_⟩
  · intro m s hnone
    simp only [List.forall_mem_cons, List.not_mem_nil, false_imp_iff, implies_true, and_true]
    refine ⟨?_, ?_, ?_⟩
    · show Host.Outcome.next (syncIn m s) = _
      rw [syncIn, hnone]; rfl
    · show Host.Outcome.next (followUpIn m s) = _
      rw [followUpIn, hnone]; rfl
    · show Host.Outcome.next (pdelayReqIn m s) = _
      rw [pdelayReqIn, hnone]
  · intro m a s hs
    obtain ⟨hkeeps, -, hsent⟩ := servePtp_keeps hs
    have hsync : exec (.syncRx m) s = .next (syncServed m a) := congrArg Host.Outcome.next (syncIn_served hs)
    have hfollow : exec (.followUpRx m) s = .next (followUpServed m a) := congrArg Host.Outcome.next (followUpIn_served hs)
    refine ⟨fun hother => ⟨?_, ?_⟩, fun hmaster => ⟨fun htwo => ?_, fun hq => ?_, fun t2 c hq => ?_⟩,
      fun hoff => ?_, fun hactive hmay hnone => ⟨fun hqueue => ?_, fun hlate => ?_⟩⟩
    · rw [hsync, syncServed, if_pos (by simp [hother])]
    · rw [hfollow, followUpServed, if_pos (by simp [hother])]
    · rw [hsync, syncServed_twoStep hmaster htwo]
    · rw [hfollow, followUpServed_unmatched hq]
    · obtain ⟨hoffset, hwaits, hcfg, hzones, hwires, hsamp⟩ := ptpMeasurement_measured m.port
        (syncOffset a m.port t2 m.origin (c + m.correction)) m.stamp a
      exact ⟨_, hfollow.trans (congrArg Host.Outcome.next (followUpServed_matched hmaster hq)), hoffset, hwaits,
        hcfg.trans (congrArg Unclocked.cfg hkeeps), hzones.trans (congrArg Unclocked.zones hkeeps),
        hwires.trans (congrArg Unclocked.wires hkeeps), hsamp.trans (congrArg Unclocked.samp hkeeps)⟩
    · refine congrArg Host.Outcome.next ((pdelayReqIn_served hs).trans (if_pos ?_))
      rcases hoff with h | h <;> simp [h]
    · refine ⟨_, congrArg Host.Outcome.next (pdelayReqIn_answered hs hactive hmay hnone hqueue), ?_, ?_⟩
      · rw [← hsent]; rfl
      · exact eq_of_besidesPorts ((besidesPorts_setPort _ _ _).trans
          ((besidesPorts_sendNow _ _ _ _).trans (besidesPorts_sendNow _ _ _ _)))
    · exact congrArg Host.Outcome.next (pdelayReqIn_held hs hactive hmay hnone hlate)
  · intro r s
    refine ⟨fun hnone => ?_, fun a hs => ⟨fun hoff => ?_, fun hactive hvalid => ?_⟩⟩
    · show Host.Outcome.next (pdelayRespIn r s) = _
      rw [pdelayRespIn, hnone]; rfl
    · refine congrArg Host.Outcome.next ((pdelayRespIn_served hs).trans (if_pos ?_))
      rcases hoff with h | h <;> simp [h]
    · exact congrArg Host.Outcome.next ((pdelayRespIn_served hs).trans (if_neg (by simp [hactive, hvalid])))
  · intro n t s e
    refine ⟨fun hoff => congrArg Host.Outcome.next ((pdelayReqOut_eq n t s).trans (if_neg ?_)),
      fun hactive hmay hdue => ⟨_, rfl, pdelayReqOut_sends hactive hmay hdue⟩⟩
    rcases hoff with h | h | h <;> simp [h]
  · intro a s
    refine ⟨fun hnone => ?_, fun b hs => ⟨fun hoff => ?_, fun hactive hdomain hfirst => ?_⟩⟩
    · show Host.Outcome.next (announceIn a s) = _
      rw [announceIn, hnone]; rfl
    · refine congrArg Host.Outcome.next ((announceIn_served hs).trans (if_pos ?_))
      obtain ⟨-, hconfig, -⟩ := servePtp_keeps hs
      rw [hconfig]
      rcases hoff with h | h <;> simp [h]
    · exact ⟨_, rfl, announceIn_first hs hactive hdomain hfirst⟩
  · intro n t s
    refine ⟨fun hnone => ?_, fun a ha => ⟨fun hearly => ?_, fun hlate => ?_⟩⟩
    · exact congrArg Host.Outcome.next (announceTimeout_early (fun b hb => absurd (hnone.symm.trans hb) (by simp)))
    · refine congrArg Host.Outcome.next (announceTimeout_early (fun b hb => ?_))
      cases ha.symm.trans hb
      exact hearly
    · exact ⟨_, rfl, announceTimeout_forgets ha hlate⟩

end Sys2Proof.Machine.BusProofs
end

section
/-!
SUPPORT. Long-path line differential (07_line_differential.md R164 to R177).
-/
namespace Sys2Proof.Machine.BusProofs
open Sys2Proof.Safety Sys2Proof.Machine.SheafProofs

theorem served_ldf (f : Frame) (s : State) : (served f s).ldf = s.ldf := by
  have h := congrArg State.ldf (served_spec f s)
  exact h

@[simp] theorem served_ldfOf (f : Frame) (s : State) (d : Nat) : ldfOf (served f s) d = ldfOf s d := by
  rw [ldfOf, served_ldf, ldfOf]

theorem served_cnt (f : Frame) (s : State) : (served f s).cnt = s.cnt := by
  have h := congrArg State.cnt (served_spec f s)
  exact h

theorem served_samp (f : Frame) (s : State) : (served f s).samp = s.samp := by
  have h := congrArg State.samp (served_spec f s)
  exact h

/-- A row that names a frame whose turn has not come changes nothing (R63, log 44). -/
theorem ldfFrameIn_other {f : Frame} {s : State} (h : nextServed s ≠ some (f.port, f)) : ldfFrameIn f s = s := by
  unfold ldfFrameIn
  rw [serve_other h]
  split <;> simp_all

/-- A frame that no descriptor accepts is counted, and that is all (R164). -/
theorem ldfFrameIn_rejected {f : Frame} {m : LdfMsg} {s : State} (hb : f.body = .ldf m)
    (h : nextServed s = some (f.port, f))
    (hnone : f.etherType ≠ 0x88B5#16 ∨ ∀ e ∈ ldEntries s.cfg.package,
      ldfPath s.cfg.package e.2 f = none ∨ ldfAccepts (served f s) e.2 (ldfOf s e.1) f m = false) :
    ldfFrameIn f s = count 168 1 (served f s) := by
  unfold ldfFrameIn
  rw [hb, serve_named h]
  dsimp only
  rw [served_cfg]
  split
  next hit hfind =>
    have hmem := List.mem_of_find?_eq_some hfind
    have hacc := List.find?_some hfind
    obtain ⟨e, he, hpath⟩ := List.mem_filterMap.mp hmem
    split at hpath
    next htype =>
      obtain ⟨p, hp, rfl⟩ := Option.map_eq_some_iff.mp hpath
      rw [served_ldfOf] at hacc
      rcases (hnone.resolve_left (fun hn => hn htype)) e he with hno | hno
      · exact absurd (hno.symm.trans hp) (by simp)
      · exact absurd (hno.symm.trans hacc) (by simp)
    next => cases hpath
  next => rfl

/-- The one descriptor whose path and checks a frame meets takes it (R164). -/
theorem ldfFrameIn_accepted {f : Frame} {m : LdfMsg} {s : State} {d p : Nat} {ws : List Word} (hb : f.body = .ldf m)
    (h : nextServed s = some (f.port, f)) (htype : f.etherType = 0x88B5#16)
    (hentries : ldEntries s.cfg.package = [(d, ws)]) (hpath : ldfPath s.cfg.package ws f = some p)
    (hacc : ldfAccepts (served f s) ws (ldfOf s d) f m = true) :
    ldfFrameIn f s = ldfAccepted d p ws f m (served f s) := by
  unfold ldfFrameIn
  rw [hb, serve_named h]
  simp only [served_cfg, hentries, htype, hpath, if_true, Option.map_some, List.filterMap_cons, List.filterMap_nil,
    List.find?_cons, served_ldfOf, hacc]

/-- What a line-differential frame leaves alone: all that stands committed, the samples; and of the counters, that of the
frames missing between, which no measurement counts (R164 to R171). -/
def lined (s : State) : Standing × Sampling × Nat := (standing s, s.samp, FMap.get s.cnt 0 169)

theorem lined_count {i : Nat} (h : i ≠ 169) (n : Nat) (s : State) : lined (count i n s) = lined s := by
  simp [lined, standing_count, h]

theorem lined_sticky (r b : Nat) (s : State) : lined (sticky r b s) = lined s := by
  have h := congrArg lined (sticky_spec r b s)
  exact h

/-- An event that is dropped counts in a counter of its own (R275). -/
theorem lined_tally (event : Half) (detail : List Quad) (s : State) : lined (tally event detail s) = lined s := by
  unfold tally
  split
  · unfold dropEvent
    extract_lets drops sh d _ s1
    have h1 : lined s1 = lined s := lined_count (i := 183) (by decide) _ _
    split
    · exact (lined_sticky _ _ _).trans h1
    · exact h1
  · rfl

/-- What a terminal was last heard to say, which no measurement rewrites (R164, R177). -/
def heard (t : LdfTerm) : Option Nat × Option Time × Bool × Option Time × Option Nat :=
  (t.lastSeq, t.lastIn, t.timeValid, t.lost, t.lastDecoded)

/-- What the handling of a frame keeps of a terminal and of the rest. -/
def known (x : LdfTerm × State) := (heard x.1, lined x.2)

theorem heard_renewTheta (t : LdfTerm) : heard (renewTheta t) = heard t := by
  unfold renewTheta
  split <;> rfl

theorem heard_takeBack (t : LdfTerm) : heard (takeBack t) = heard t := by
  unfold takeBack
  split
  · rfl
  · extract_lets t1
    rw [heard_renewTheta]
    split <;> rfl

theorem lined_asymStep (d r quantity : Nat) (old new : Int) (s : State) :
    lined (asymStep d r quantity old new s) = lined s :=
  (lined_sticky _ _ _).trans (lined_tally _ _ _)

theorem known_roundTrip (d r : Nat) (ws : List Word) (i : Time) (m : Int) (t : LdfTerm) (s : State) :
    known (roundTrip d r ws i m t s).2 = known (t, s) := by
  unfold roundTrip
  extract_lets accept sus t1 old s1
  have haccept (u : LdfTerm) : heard (accept u) = heard u := by
    unfold accept
    extract_lets near run u1
    split <;> rfl
  split
  · split
    · exact congrArg (fun x => (x, lined s)) (haccept t)
    · exact Prod.ext (haccept _) (lined_count (i := 171) (by decide) _ _)
  · split
    · rfl
    · exact congrArg (fun x => (heard t, x)) (lined_asymStep _ _ _ _ _ _)

theorem lined_oneWay (d r quantity : Nat) (ws : List Word) (m : Int) (mean out : List Int) (s : State) :
    lined (oneWay d r quantity ws m mean out s).2 = lined s := by
  unfold oneWay
  split
  · rfl
  · extract_lets o
    split
    · rfl
    · exact lined_asymStep _ _ _ _ _ _

theorem known_measureTimed (d : Nat) (ws : List Word) (msg : LdfMsg) (dIn : Int) (rtt : Option Int) (at' : Int × Int)
    (t : LdfTerm) (s : State) : known (measureTimed d ws msg dIn rtt at' t s) = known (t, s) := by
  unfold measureTimed
  extract_lets r t1
  have h1 : heard t1 = heard t := by
    unfold t1
    split
    · split <;> rfl
    · rfl
  have hIn := lined_oneWay d r 1 ws dIn t1.dIns t1.outIn s
  generalize oneWay d r 1 ws dIn t1.dIns t1.outIn s = x at hIn ⊢
  obtain ⟨a, s1⟩ := x
  dsimp -zeta only
  extract_lets t2
  split
  · exact Prod.ext h1 hIn
  · exact Prod.ext h1 hIn
  · exact Prod.ext h1 ((lined_oneWay _ _ _ _ _ _ _ _).trans hIn)

theorem known_measureEcho (d : Nat) (ws : List Word) (msg : LdfMsg) (tArr : Time) (m : Int) (at' : Int × Int)
    (t : LdfTerm) (s : State) : known (measureEcho d ws msg tArr m at' t s) = known (t, s) := by
  unfold measureEcho
  have hr := known_roundTrip d msg.term ws tArr m t s
  generalize roundTrip d msg.term ws tArr m t s = x at hr ⊢
  obtain ⟨accepted, t1, s1⟩ := x
  dsimp -zeta only
  extract_lets t2 t3
  have h3 : known (t3, s1) = known (t, s) := by
    refine Eq.trans (congrArg (fun y => (y, lined s1)) ?_) hr
    have h2 : heard t2 = heard t1 := by
      unfold t2
      split
      · exact heard_renewTheta _
      · rfl
    refine Eq.trans ?_ h2
    show heard t3 = _
    unfold t3
    split <;> rfl
  split
  · split
    · exact Eq.trans (congrArg (fun y => (heard t3, y)) (lined_tally _ _ _)) h3
    · exact h3
  · exact h3

theorem known_measure (d : Nat) (ws : List Word) (path : Nat) (f : Frame) (msg : LdfMsg) (lastSheaf : Nat) (t : LdfTerm)
    (s : State) : known (measure d ws path f msg lastSheaf t s) = known (t, s) := by
  unfold measure
  extract_lets i lr t1 rtt before _ t2 r
  split
  · refine Prod.ext ?_ rfl
    show heard (if _ then takeBack t1 else t1) = _
    split
    · exact heard_takeBack _
    · rfl
  · refine Eq.trans (b := known r) rfl ?_
    unfold r
    split
    · exact known_measureTimed _ _ _ _ _ _ _ _
    · rfl
    · exact known_measureEcho _ _ _ _ _ _ _ _

theorem known_decodeSets (ws : List Word) (key : Bool) (j : Nat) (sets : List LdfSet) (t : LdfTerm) (s : State) :
    known (decodeSets ws key j sets t s) = known (t, s) := by
  unfold decodeSets
  refine List.foldlRecOn (motive := fun acc => known acc = known (t, s)) _ _ rfl (fun acc hacc p _ => ?_)
  refine Eq.trans ?_ hacc
  obtain ⟨t1, s1⟩ := acc
  dsimp -zeta only
  extract_lets ns _ t2
  split
  · exact congrArg (fun y => (heard t1, y)) (lined_count (i := 170) (by decide) _ _)
  · split
    · exact congrArg (fun y => (heard t1, y)) (lined_count (i := 170) (by decide) _ _)
    · rfl

/-- Frames that did not come between the one heard last and this one (R164). -/
def missing (m : LdfMsg) (t : LdfTerm) : Nat :=
  match t.lastSeq with
  | some q => (seqDiff m.frameSeq q - 1).toNat
  | none => 0

/-- What an accepted frame leaves of its terminal, and of the rest (R164 to R168, R177). -/
theorem ldfAccepted_spec (d path : Nat) (ws : List Word) (f : Frame) (m : LdfMsg) (s : State) :
    ∃ (t : LdfTerm) (u : State), ldfAccepted d path ws f m s = setLdf d (setTerm m.term t (ldfOf u d)) u ∧
      t.lastSeq = some m.frameSeq ∧ t.lastIn = some f.tArr ∧ t.timeValid = m.timeValid ∧
      (m.key = true → t.lastDecoded = some m.frameSeq ∧ t.lost = none) ∧
      standing u = standing s ∧ u.samp = s.samp ∧
      FMap.get u.cnt 0 169 = FMap.get s.cnt 0 169 + missing m (termOf (ldfOf s d) m.term) := by
  unfold ldfAccepted
  extract_lets r x t j j2 follows lost s1 t1 decodes
  have hs1 : lined s1 = (standing s, s.samp, FMap.get s.cnt 0 169 + lost) := by
    unfold s1
    split
    next h0 => rw [h0]; rfl
    next => simp [lined, standing_count]
  have hlost : lost = missing m (termOf (ldfOf s d) m.term) := rfl
  clear_value lost s1
  have hmeasured := known_measure d ws path f m (j2 + ldF ws - 1) t1 s1
  generalize measure d ws path f m (j2 + ldF ws - 1) t1 s1 = y at hmeasured ⊢
  obtain ⟨t2, s2⟩ := y
  dsimp only
  generalize hz : (if decodes = true then _ else (t2, s2)) = z
  have hdecoded : known z = ((t2.lastSeq, t2.lastIn, t2.timeValid, t2.lost,
      if decodes = true then some m.frameSeq else t2.lastDecoded), lined s2) := by
    rw [← hz]
    split
    · exact known_decodeSets _ _ _ _ _ _
    · rfl
  clear hz
  obtain ⟨t3, s3⟩ := z
  dsimp -zeta only
  simp only [known, heard, Prod.mk.injEq] at hmeasured hdecoded
  obtain ⟨⟨hseq2, hin2, hvalid2, -, -⟩, hlined2⟩ := hmeasured
  obtain ⟨⟨hseq3, hin3, hvalid3, -, hdec3⟩, hlined3⟩ := hdecoded
  have hseq : t3.lastSeq = some m.frameSeq := hseq3.trans hseq2
  have hin : t3.lastIn = some f.tArr := hin3.trans hin2
  have hvalid : t3.timeValid = m.timeValid := hvalid3.trans hvalid2
  have hdec (hkey : m.key = true) : t3.lastDecoded = some m.frameSeq := hdec3.trans (if_pos (by simp [decodes, hkey]))
  have hlined : lined s3 = (standing s, s.samp, FMap.get s.cnt 0 169 + missing m (termOf (ldfOf s d) m.term)) := by
    rw [hlined3, hlined2, hs1, hlost]
  refine ⟨_, _, rfl, ?_⟩
  split
  next since hlostT hkey =>
    have hl := (lined_tally 0x0604 [item d, item r, 1, item ((f.tArr - since) / 6400000)] s3).trans hlined
    simp only [lined, Prod.mk.injEq] at hl
    exact ⟨hseq, hin, hvalid, fun _ => ⟨hdec hkey, rfl⟩, hl⟩
  next hother =>
    simp only [lined, Prod.mk.injEq] at hlined
    refine ⟨hseq, hin, hvalid, fun hkey => ⟨hdec hkey, ?_⟩, hlined⟩
    cases hl : t3.lost with
    | none => rfl
    | some since => exact absurd hkey (hother since hl)

/-- A terminal that has been silent for LOSS_MS blocks the element and loses what was measured of it, once (R177). -/
theorem ldfLoss_eq (d r : Nat) (t : Time) (s : State) :
    let ws := ldfWords s.cfg.package d
    let x := ldfOf s d
    let m := termOf x r
    ldfLoss d r t s = if m.lost = none ∧ ldEnabled ws = true ∧ r ∈ remotes ws ∧
        msSteps (ldLossMs ws) ≤ t - m.lastIn.getD x.since then
      sticky 1 11 (tally 0x0604 [item d, item r, 0, 0]
        (setLdf d { setTerm r { m with
          lost := some t, rtts := [], dIns := [], dOuts := [], lastDecoded := none, refill := true } x with
          blocked := true } (advance t s)))
      else advance t s := by
  intro ws x m
  have hx : ldfOf (advance t s) d = x := by rw [ldfOf, advance_ldf]; rfl
  simp only [ldfLoss, advance_cfg, hx, List.contains_iff_mem]
  split
  next hnone => simp [m, ws, hnone]
  next since hsome => simp [m, hsome]

/-- A terminal's hold-off ends where its time has passed and eight measurements agree (R170). -/
def holdoffEnd (ws : List Word) (t : Time) (m : LdfTerm) : LdfTerm :=
  match m.holdoff with
  | some h => if h ≤ t ∧ settledEight ws m.postStep = true then
      { m with holdoff := none, suspectSince := none, postStep := [] } else m
  | none => m

/-- Ends the hold-off of remote terminal r. -/
def endHoldoff (ws : List Word) (t : Time) (x : Ldf) (r : Nat) : Ldf :=
  match (termOf x r).holdoff with
  | some h => if h ≤ t ∧ settledEight ws (termOf x r).postStep = true then
      setTerm r { termOf x r with holdoff := none, suspectSince := none, postStep := [] } x else x
  | none => x

theorem termOf_setTerm_same (r : Nat) (t : LdfTerm) (x : Ldf) : termOf (setTerm r t x) r = t := by
  simp [termOf, setTerm]

theorem termOf_setTerm_other {r q : Nat} (h : r ≠ q) (t : LdfTerm) (x : Ldf) :
    termOf (setTerm r t x) q = termOf x q := by
  simp [termOf, setTerm, h]

theorem endHoldoff_same (ws : List Word) (t : Time) (x : Ldf) (r : Nat) :
    termOf (endHoldoff ws t x r) r = holdoffEnd ws t (termOf x r) := by
  unfold endHoldoff holdoffEnd
  split
  · split
    · exact termOf_setTerm_same _ _ _
    · rfl
  · rfl

theorem endHoldoff_other (ws : List Word) (t : Time) (x : Ldf) {r q : Nat} (h : r ≠ q) :
    termOf (endHoldoff ws t x r) q = termOf x q := by
  unfold endHoldoff
  split
  · split
    · exact termOf_setTerm_other h _ _
    · rfl
  · rfl

theorem endHoldoff_stalled (ws : List Word) (t : Time) (x : Ldf) (r : Nat) :
    (endHoldoff ws t x r).stalled = x.stalled := by
  unfold endHoldoff
  split
  · split <;> rfl
  · rfl

/-- The ends of hold-off of the terminals in a list without repeats: each has its own, the others none (R170). -/
theorem endHoldoffs_termOf (ws : List Word) (t : Time) {l : List Nat} (hl : l.Nodup) (x : Ldf) :
    (∀ r ∈ l, termOf (l.foldl (endHoldoff ws t) x) r = holdoffEnd ws t (termOf x r)) ∧
      (∀ r, r ∉ l → termOf (l.foldl (endHoldoff ws t) x) r = termOf x r) ∧
      (l.foldl (endHoldoff ws t) x).stalled = x.stalled := by
  induction l generalizing x with
  | nil => exact ⟨fun r hr => absurd hr List.not_mem_nil, fun _ _ => rfl, rfl⟩
  | cons q l ih =>
    obtain ⟨hq, hl⟩ := List.nodup_cons.mp hl
    obtain ⟨hin, hout, hstalled⟩ := ih hl (endHoldoff ws t x q)
    refine ⟨fun r hr => ?_, fun r hr => ?_, hstalled.trans (endHoldoff_stalled ws t x q)⟩
    · rcases List.mem_cons.mp hr with rfl | hr
      · exact (hout r hq).trans (endHoldoff_same ws t x r)
      · have hne : q ≠ r := by rintro rfl; exact hq hr
        exact (hin r hr).trans (congrArg (holdoffEnd ws t) (endHoldoff_other ws t x hne))
    · have hne : q ≠ r := by rintro rfl; exact hr List.mem_cons_self
      exact (hout r (fun h => hr (List.mem_cons_of_mem _ h))).trans (endHoldoff_other ws t x hne)

theorem remotes_nodup (ws : List Word) : (remotes ws).Nodup := List.nodup_range.filter _

/-- What LDF_HOLDOFF_END does: the terminals' ends of hold-off, and what then blocks the element (R166, R170). -/
theorem ldfHoldoffOver_eq (d : Nat) (t : Time) (s : State) :
    let ws := ldfWords s.cfg.package d
    let x := (remotes ws).foldl (endHoldoff ws t) (ldfOf s d)
    ldfHoldoffOver d t s = setLdf d { x with
      blocked := decide (8 ≤ x.stalled) || (remotes ws).any (fun r => termBlocks (termOf x r)) } (advance t s) := by
  intro ws x
  have hx : ldfOf (advance t s) d = ldfOf s d := by rw [ldfOf, advance_ldf, ldfOf]
  simp only [ldfHoldoffOver, advance_cfg, hx]
  rfl

theorem ldfOf_setLdf (d : Nat) (x : Ldf) (s : State) : ldfOf (setLdf d x s) d = x := by
  simp [ldfOf, setLdf]

/-- Settles O47: the frame's way to its terminal, then the terminal's loss, hold-off and alignment. -/
theorem lineDifferentialChannel : Obligations.LineDifferentialChannel := by
  refine ⟨fun f s h => congrArg Host.Outcome.next (ldfFrameIn_other h), fun f m s hb h => ⟨fun hnone => ?_, ?_⟩,
    fun d r t s => congrArg Host.Outcome.next (ldfLoss_eq d r t s), fun d t s => ?_, fun d s => rfl⟩
  · exact congrArg Host.Outcome.next (ldfFrameIn_rejected hb h hnone)
  · intro d ws p htype hentries hpath hacc
    obtain ⟨t, u, heq, hseq, hin, hvalid, hkey, hstanding, hsamp, hcnt⟩ := ldfAccepted_spec d p ws f m (served f s)
    have hterm : termOf (ldfOf (setLdf d (setTerm m.term t (ldfOf u d)) u) d) m.term = t := by
      rw [ldfOf_setLdf, termOf_setTerm_same]
    have hs := hstanding.trans (standing_served f s)
    refine ⟨_, congrArg Host.Outcome.next ((ldfFrameIn_accepted hb h htype hentries hpath hacc).trans heq), ?_⟩
    rw [hterm]
    refine ⟨hseq, hin, hvalid, hkey, ?_, congrArg Standing.cfg hs, congrArg Standing.zones hs,
      congrArg Standing.wires hs, congrArg Standing.pf0 hs, congrArg Standing.pf1 hs, ?_⟩
    · rw [served_ldfOf, served_cnt] at hcnt
      exact hcnt
    · exact hsamp.trans (served_samp f s)
  · obtain ⟨hin, -, hstalled⟩ :=
      endHoldoffs_termOf (ldfWords s.cfg.package d) t (remotes_nodup (ldfWords s.cfg.package d)) (ldfOf s d)
    have heq := ldfHoldoffOver_eq d t s
    refine ⟨_, congrArg Host.Outcome.next heq, rfl, fun r hr => ?_, ?_⟩
    · rw [ldfOf_setLdf]
      exact hin r hr
    · rw [ldfOf_setLdf, ← hstalled]
      rfl

end Sys2Proof.Machine.BusProofs
end

section
/-!
SUPPORT. The captured time (04_timebase.md R88; 15_host_registers.md R329).
-/
namespace Sys2Proof.Machine.TimeProofs
open Sys2Proof.Machine.SheafProofs Sys2Proof.Machine.BusProofs

theorem advance_view (t : Time) (s : State) (v : View) : (advance t s).view v = s.view v := by
  have h := congrArg (fun x : State => x.view v) (advance_spec t s).2
  cases v <;> exact h

/-- A view with the time captured (R88, R329). -/
def captured (t : Time) (x : ViewState) : ViewState :=
  { x with
    tbSec := BitVec.ofNat 48 (twos 48 (secOf t)), tbNs := BitVec.ofNat 32 (nsOf t)
    tbFrac := BitVec.ofNat 16 (fracOf t), readData := BitVec.ofNat 32 (nsOf t) }

theorem captureTime_open {v : View} {t : Time} {s : State} (hopen : barOpen s v = true) (ht : s.tb.now ≤ t) :
    captureTime v t s = (advance t s).setView v (captured t (s.view v)) := by
  have hnow : (advance t s).tb.now = t := (advance_spec t s).1.trans (max_eq_right ht)
  rw [captureTime, if_neg (by simp [hopen])]
  simp only [hnow, advance_view, captured]

theorem captureTime_other {v w : View} (h : v ≠ w) (t : Time) (s : State) : (captureTime w t s).view v = s.view v := by
  unfold captureTime
  split
  · rfl
  · simp [h, advance_view]

/-- The capture registers of a view show the instant it captured (R329). -/
theorem liveWord_captured {v : View} {t : Time} {x : ViewState} {s : State} (h : s.view v = captured t x) :
    (liveWord s v 0x5004).toNat + 4294967296 * (liveWord s v 0x5008).toNat = twos 48 (secOf t) ∧
      liveWord s v 0x500C = BitVec.ofNat 32 (fracOf t) ∧ liveWord s v 0x5000 = BitVec.ofNat 32 (nsOf t) := by
  have hlo : liveWord s v 0x5004 = (s.view v).tbSec.truncate 32 := rfl
  have hhi : liveWord s v 0x5008 = ((s.view v).tbSec >>> 32).truncate 32 := rfl
  have hfrac : liveWord s v 0x500C = (s.view v).tbFrac.zeroExtend 32 := rfl
  have hns : liveWord s v 0x5000 = (s.view v).tbNs := rfl
  have hsec : twos 48 (secOf t) < 281474976710656 := by simp only [twos]; omega
  obtain ⟨-, -, hlt⟩ := time_fields t
  rw [hlo, hhi, hfrac, hns, h]
  refine ⟨?_, ?_, rfl⟩
  · simp only [captured, BitVec.truncate_eq_setWidth, BitVec.toNat_setWidth, BitVec.toNat_ushiftRight, BitVec.toNat_ofNat,
      Nat.shiftRight_eq_div_pow]
    omega
  · refine BitVec.eq_of_toNat_eq ?_
    simp only [captured, BitVec.truncate_eq_setWidth, BitVec.toNat_setWidth, BitVec.toNat_ofNat]
    omega

/-- Settles O5: one view's capture writes that view alone, and the other view's leaves it as it is. -/
theorem tbNowCapture : Obligations.TbNowCapture := by
  intro v w t u s hne hopen ht _
  have ha := captureTime_open hopen ht
  have hview : (captureTime v t s).view v = captured t (s.view v) := by rw [ha]; simp
  obtain ⟨hsec, hfrac, hns⟩ :=
    liveWord_captured ((captureTime_other hne u (captureTime v t s)).trans hview)
  refine ⟨_, _, rfl, rfl, congrArg ViewState.readData hview, captureTime_other hne.symm t s, ?_, hsec, hfrac, hns⟩
  show (captureTime v t s).tb = _
  rw [ha, setView_tb]

end Sys2Proof.Machine.TimeProofs
end

section
/-!
SUPPORT. The loss of a time source, holdover and PPS (04_timebase.md R90 to R105).
-/
namespace Sys2Proof.Machine.TimeProofs
open Sys2Proof.Safety Sys2Proof.Machine.SheafProofs Sys2Proof.Machine.BusProofs

/-- A state without what the servo and a change of TB_STATE touch: their parts of the timebase, the reports, the counters, the
views' rings and the observation port (R90 to R96). -/
def besidesServo (s : State) : State :=
  { s with
    tb := { s.tb with
      state := .freerun, theta := 0, integ := 0, adj := 0, lastMeas := none, lastFed := none, fresh := false
      measCount := 0, lockRun := 0, outliers := [], everLocked := false, armDue := false, step := none }
    tally := Tally.init, cnt := [], stk := Sticky.init, pf0 := ViewState.init, pf1 := ViewState.init
    power := Power.init, trace := TracePort.init }

/-- The source that feeds the servo is another one (R103, R329 TB_STATE.SRC). -/
def withSource (src : Nat) (s : State) : State := { s with tb := { s.tb with src := src } }

theorem besidesServo_tally (event : Half) (detail : List Quad) (s : State) :
    besidesServo (tally event detail s) = besidesServo s := by
  have h := congrArg besidesServo (tally_frame event detail s)
  exact h

theorem besidesServo_sticky (r b : Nat) (s : State) : besidesServo (sticky r b s) = besidesServo s := by
  have h := congrArg besidesServo (sticky_spec r b s)
  exact h

theorem besidesServo_postEvent (code : Half) (arg : Quad) (s : State) :
    besidesServo (postEvent code arg s) = besidesServo s := by
  have h := congrArg besidesServo (postEvent_spec code arg s).1
  exact h

theorem besidesServo_tbGo (new : TbState) (s : State) : besidesServo (tbGo new s) = besidesServo s := by
  unfold tbGo
  extract_lets old s1 s2 s3 fresh armDue
  have h2 : besidesServo s2 = besidesServo s := (besidesServo_postEvent _ _ _).trans (besidesServo_tally _ _ _)
  have h3 : besidesServo s3 = besidesServo s2 := by
    unfold s3
    split
    · exact besidesServo_sticky _ _ _
    · exact besidesServo_sticky _ _ _
    · rfl
  clear_value s3 fresh armDue
  split
  · rfl
  · exact h3.trans h2

theorem tbGo_state (new : TbState) (s : State) : (tbGo new s).tb.state = new := by
  unfold tbGo
  extract_lets old
  split
  next h => exact h
  next => rfl

theorem besidesServo_noteMeasurement (theta : Int) (t : Time) (s : State) :
    besidesServo (noteMeasurement theta t s) = besidesServo s := by
  unfold noteMeasurement
  extract_lets s1
  split
  · exact besidesServo_tbGo _ _
  · exact besidesServo_tbGo _ _
  · rfl

theorem besidesServo_feedServo (theta : Int) (t : Time) (since : Option Time) (s : State) :
    besidesServo (feedServo theta t since s) = besidesServo s := by
  unfold feedServo
  extract_lets c tau th lim ki kp i y s1 near run _ s2 servo s3
  have h3 : besidesServo s3 = besidesServo s := besidesServo_noteMeasurement theta t s
  clear_value s3
  split
  · exact (besidesServo_tbGo _ _).trans h3
  · exact h3

theorem besidesServo_servoMeasurement (theta : Int) (t : Time) (s : State) :
    besidesServo (servoMeasurement theta t s) = besidesServo s := by
  unfold servoMeasurement
  extract_lets c ok gated big outlier hist sum s1 _ s2
  split
  · exact besidesServo_feedServo _ _ _ _
  · split
    · split
      · have h1 : besidesServo s1 = besidesServo s := by
          refine (besidesServo_noteMeasurement _ _ _).trans ?_
          split <;> rfl
        exact h1
      · exact besidesServo_feedServo _ _ _ _
    · have h2 : besidesServo s2 = besidesServo s := by
        unfold s2
        split
        · rfl
        · exact besidesServo_noteMeasurement _ _ _
      exact h2

theorem besidesServo_sourceLost (s : State) : besidesServo (sourceLost s) = besidesServo (withSource 0 s) := by
  unfold sourceLost
  extract_lets s1
  split
  · exact besidesServo_tbGo _ _
  · exact besidesServo_tbGo _ _
  · rfl
  · rfl

/-- PTP that fed the servo hands over to a valid PPS_IN, or leaves no source (R99, R103). -/
theorem besidesServo_ptpLost {t : Time} {s : State} (hsrc : s.tb.src = 1) : besidesServo (ptpLost t s) =
    besidesServo (withSource (if tcSource s.tb.config = 3 ∧ ppsValidAt s t = true then 2 else 0) s) := by
  rw [ptpLost, if_neg (not_not.mpr hsrc)]
  split
  · exact besidesServo_tally _ _ _
  · exact besidesServo_sourceLost s

/-- A state without what the time's events touch: the whole timebase, and what besidesServo leaves out. -/
def besidesTime (s : State) : State := { besidesServo s with tb := Timebase.init }

theorem tb_of_besidesServo {s t : State} (h : besidesServo t = besidesServo s) :
    t.tb.now = s.tb.now ∧ t.tb.src = s.tb.src ∧ t.tb.lastPps = s.tb.lastPps ∧ t.tb.ppsTheta = s.tb.ppsTheta := by
  have part {α : Type} (f : Timebase → α) : f (besidesServo t).tb = f (besidesServo s).tb :=
    congrArg (fun x : State => f x.tb) h
  exact ⟨part Timebase.now, part Timebase.src, part Timebase.lastPps, part Timebase.ppsTheta⟩

theorem besidesTime_of_servo {s t : State} (h : besidesServo t = besidesServo s) : besidesTime t = besidesTime s :=
  congrArg (fun x : State => { x with tb := Timebase.init }) h

theorem besidesTime_advance (t : Time) (s : State) : besidesTime (advance t s) = besidesTime s := by
  have h := congrArg besidesTime (advance_spec t s).2
  exact h

theorem sameProtection_of_besidesTime {s u : State} (h : besidesTime u = besidesTime s) :
    sameProtection { s with tb := u.tb } u ∧ u.hostMem = s.hostMem := by
  have part {α : Type} (f : State → α) : f (besidesTime u) = f (besidesTime s) := congrArg f h
  exact ⟨⟨part State.glb, part State.cfg, part State.samp, part State.ing, rfl, part State.ldf, part State.zones,
    part State.tenon, part State.insts, part State.results, part State.logic, part State.wires, part State.bi,
    part State.thr, part State.lanes⟩, part State.hostMem⟩

theorem standing_of_besidesTime {s u : State} (h : besidesTime u = besidesTime s) :
    u.cfg = s.cfg ∧ u.zones = s.zones ∧ u.wires = s.wires := by
  have part {α : Type} (f : State → α) : f (besidesTime u) = f (besidesTime s) := congrArg f h
  exact ⟨part State.cfg, part State.zones, part State.wires⟩

/-- The passing of time leaves the sources, their last measurements and the entry of PPS_OUT's fall (R87). -/
@[simp] theorem advance_sources (t : Time) (s : State) :
    (advance t s).tb.state = s.tb.state ∧ (advance t s).tb.src = s.tb.src ∧ (advance t s).tb.slave = s.tb.slave ∧
      (advance t s).tb.lastPtp = s.tb.lastPtp ∧ (advance t s).tb.lastPps = s.tb.lastPps ∧
      (advance t s).tb.ppsFall = s.tb.ppsFall := by
  unfold advance; split <;> exact ⟨rfl, rfl, rfl, rfl, rfl, rfl⟩

/-- Three sync intervals of the slave port's master (R99). -/
def syncLimit (s : State) : Int := 3 * logSteps ((s.tb.slave.map (fun n => (ptpOf s n).logSync)).getD 0)

/-- PTP is lost where it feeds the servo and its last measurement lies three sync intervals back, and not before (R99). -/
theorem syncLost_early {t : Time} {s : State}
    (h : ∀ u, s.tb.lastPtp = some u → s.tb.src ≠ 1 ∨ t - u < syncLimit s) : syncLost t s = advance t s := by
  simp only [syncLost, advance_sources, advance_ptpOf]
  split
  next => rfl
  next u hu =>
    refine if_neg fun ⟨hsrc, hlate⟩ => ?_
    rcases h u hu with h | h
    · exact h hsrc
    · exact absurd hlate (not_le.mpr h)

theorem syncLost_late {t u : Time} {s : State} (hu : s.tb.lastPtp = some u) (hsrc : s.tb.src = 1)
    (hlate : syncLimit s ≤ t - u) : syncLost t s = ptpLost t (advance t s) := by
  simp only [syncLost, advance_sources, advance_ptpOf, hu]
  exact if_pos ⟨hsrc, hlate⟩

theorem besidesServo_syncLost_late {t u : Time} {s : State} (hu : s.tb.lastPtp = some u) (hsrc : s.tb.src = 1)
    (hlate : syncLimit s ≤ t - u) : besidesServo (syncLost t s) = besidesServo
      (withSource (if tcSource s.tb.config = 3 ∧ ppsValidAt (advance t s) t = true then 2 else 0) (advance t s)) := by
  rw [syncLost_late hu hsrc hlate, besidesServo_ptpLost (by simp [hsrc]), advance_config]

theorem besidesTime_syncLost (t : Time) (s : State) : besidesTime (syncLost t s) = besidesTime s := by
  by_cases h : ∀ u, s.tb.lastPtp = some u → s.tb.src ≠ 1 ∨ t - u < syncLimit s
  · rw [syncLost_early h, besidesTime_advance]
  · push Not at h
    obtain ⟨u, hu, hsrc, hlate⟩ := h
    exact (besidesTime_of_servo (besidesServo_syncLost_late hu hsrc hlate)).trans (besidesTime_advance t s)

/-- Holdover lasts until the estimate passes the limit (R96); then no source is left. -/
theorem holdoverExpired_eq (t : Time) (s : State) :
    let e := holdoverEstimate (advance t s) t
    holdoverExpired t s =
      if s.tb.state = .holdover ∧ ((tcHoLimit s.tb.config * 1000 : Nat) : Int) * e.2 < e.1 then
        tbGo .unlocked (withSource 0 (advance t s))
      else advance t s := by
  obtain ⟨hstate, -⟩ := advance_sources t s
  rw [← hstate, ← advance_config t s]
  rfl

theorem besidesTime_holdoverExpired (t : Time) (s : State) : besidesTime (holdoverExpired t s) = besidesTime s := by
  rw [holdoverExpired_eq]
  split
  · exact (besidesTime_of_servo (besidesServo_tbGo _ _)).trans (besidesTime_advance t s)
  · exact besidesTime_advance t s

/-- Where an edge of PPS_IN stands from the nearest whole second, its delay taken off (R102). -/
def ppsOffset (c : List Word) (t : Time) : Int :=
  let e := t - nsSteps (tcPpsDelay c)
  e - (2 * e + stepsPerSec) / (2 * stepsPerSec) * stepsPerSec

/-- An edge half a second or more from a whole second is ignored (R102). -/
theorem ppsEdge_far {t : Time} {s : State} (h : (stepsPerSec : Int) ≤ 2 * (ppsOffset s.tb.config t).natAbs) :
    ppsEdge t s = advance t s := by
  unfold ppsEdge
  extract_lets a c e near th
  have hth : th = ppsOffset s.tb.config t := congrArg (fun c => ppsOffset c t) (advance_config t s)
  rw [← hth] at h
  exact if_pos h

/-- A nearer edge is the last valid one with its offset (R102, R104). -/
def EdgeTaken (t : Time) (s u : State) : Prop :=
  besidesTime u = besidesTime s ∧ u.tb.lastPps = some t ∧ u.tb.ppsTheta = stepUnits (ppsOffset s.tb.config t)

theorem EdgeTaken.of_servo {t : Time} {s u v : State} (h : EdgeTaken t s u) (hv : besidesServo v = besidesServo u) :
    EdgeTaken t s v := by
  obtain ⟨htime, hlast, htheta⟩ := h
  obtain ⟨-, -, hvlast, hvtheta⟩ := tb_of_besidesServo hv
  exact ⟨(besidesTime_of_servo hv).trans htime, hvlast.trans hlast, hvtheta.trans htheta⟩

theorem ppsEdge_near {t : Time} {s : State} (h : 2 * ((ppsOffset s.tb.config t).natAbs : Int) < stepsPerSec) :
    EdgeTaken t s (ppsEdge t s) := by
  unfold ppsEdge
  extract_lets a c e near th theta _ s1 feeds _ s2
  have hth : th = ppsOffset s.tb.config t := congrArg (fun c => ppsOffset c t) (advance_config t s)
  have h1 : EdgeTaken t s s1 := ⟨besidesTime_advance t s, rfl, congrArg stepUnits hth⟩
  have h2 : EdgeTaken t s s2 := by
    unfold s2
    split
    · have hfed : EdgeTaken t s (withSource 2 s1) := h1
      exact hfed.of_servo (besidesServo_servoMeasurement _ _ _)
    · exact h1
  rw [← hth] at h
  rw [if_neg (not_le.mpr h)]
  split
  · split
    · exact h2
    · exact h2
  · exact h2

theorem besidesTime_ppsEdge (t : Time) (s : State) : besidesTime (ppsEdge t s) = besidesTime s := by
  rcases le_or_gt (stepsPerSec : Int) (2 * (ppsOffset s.tb.config t).natAbs) with h | h
  · rw [ppsEdge_far h, besidesTime_advance]
  · exact (ppsEdge_near h).1

/-- PPS_IN without an edge for 3 s is lost, and with it the source that it was (R104). -/
theorem ppsLost_early {t : Time} {s : State} (h : ∀ u, s.tb.lastPps = some u → t - u < 3 * stepsPerSec) :
    ppsLost t s = advance t s := by
  simp only [ppsLost, advance_sources]
  split
  next => rfl
  next u hu => exact if_pos (h u hu)

theorem ppsLost_late {t u : Time} {s : State} (hu : s.tb.lastPps = some u) (hlate : 3 * stepsPerSec ≤ t - u) :
    let a := advance t s
    let b := { a with tb := { a.tb with lastPps := none } }
    ppsLost t s = if s.tb.src = 2 then sourceLost b else b := by
  simp only [ppsLost, advance_sources, hu, if_neg (not_lt.mpr hlate)]

theorem besidesTime_ppsLost (t : Time) (s : State) : besidesTime (ppsLost t s) = besidesTime s := by
  by_cases h : ∀ u, s.tb.lastPps = some u → t - u < 3 * stepsPerSec
  · rw [ppsLost_early h, besidesTime_advance]
  · push Not at h
    obtain ⟨u, hu, hlate⟩ := h
    rw [ppsLost_late hu hlate]
    split
    · exact (besidesTime_of_servo (besidesServo_sourceLost _)).trans (besidesTime_advance t s)
    · exact besidesTime_advance t s

theorem ppsOutOn_iff (s : State) :
    ppsOutOn s = true ↔ tcPpsMode s.tb.config = 2 ∨ tcPpsMode s.tb.config = 1 ∧ timeValid s = true := by
  simp [ppsOutOn]

theorem ppsRiseDue_iff (c : List Word) (t : Time) :
    let off := (5 * t + 32 * (tcPpsAdv c : Int)) % 32000000000
    ppsRiseDue c t = true ↔ off ≤ 32 ∨ 32000000000 - off ≤ 32 := by
  simp [ppsRiseDue]

/-- PPS_OUT rises at its advanced second where the mode asks for it (R105). -/
theorem ppsOut_rise (t : Time) (s : State) :
    let a := advance t s
    let off := (5 * t + 32 * (tcPpsAdv s.tb.config : Int)) % 32000000000
    let on := tcPpsMode s.tb.config = 2 ∨ tcPpsMode s.tb.config = 1 ∧ timeValid a = true
    ppsOut true t s = if on ∧ (off ≤ 32 ∨ 32000000000 - off ≤ 32) then
        { a with tb := { a.tb with ppsOut := true, ppsFall := some (t + msSteps 100) } }
      else a := by
  simp only [ppsOut, if_true, Bool.and_eq_true, ppsOutOn_iff, ppsRiseDue_iff, advance_config]

/-- PPS_OUT falls at the entry of its fall alone (R105). -/
theorem ppsOut_noFall {t : Time} {s : State} (h : s.tb.ppsFall = none) : ppsOut false t s = advance t s := by
  simp only [ppsOut, Bool.false_eq_true, if_false, advance_sources, h]

theorem ppsOut_fall {t u : Time} {s : State} (h : s.tb.ppsFall = some u) :
    let a := advance t s
    ppsOut false t s = if (t - u).natAbs ≤ 6 then { a with tb := { a.tb with ppsOut := false, ppsFall := none } } else a := by
  simp only [ppsOut, Bool.false_eq_true, if_false, advance_sources, h]

theorem besidesTime_ppsOut (r : Bool) (t : Time) (s : State) : besidesTime (ppsOut r t s) = besidesTime s := by
  refine Eq.trans ?_ (besidesTime_advance t s)
  cases r with
  | true =>
    rw [ppsOut_rise]
    split <;> rfl
  | false =>
    cases h : s.tb.ppsFall with
    | none => rw [ppsOut_noFall h]
    | some u =>
      rw [ppsOut_fall h]
      split <;> rfl

/-- Settles O42: what every event of the time leaves alone, then each event's own limit. -/
theorem timeSources : Obligations.TimeSources := by
  refine ⟨?_, ?_, ?_, ?_, ?_, ?_⟩
  · intro t r s
    simp only [List.forall_mem_cons, List.not_mem_nil, false_imp_iff, implies_true, and_true]
    exact ⟨⟨_, rfl, sameProtection_of_besidesTime (besidesTime_syncLost t s)⟩,
      ⟨_, rfl, sameProtection_of_besidesTime (besidesTime_holdoverExpired t s)⟩,
      ⟨_, rfl, sameProtection_of_besidesTime (besidesTime_ppsEdge t s)⟩,
      ⟨_, rfl, sameProtection_of_besidesTime (besidesTime_ppsLost t s)⟩,
      ⟨_, rfl, sameProtection_of_besidesTime (besidesTime_ppsOut r t s)⟩⟩
  · intro t s a limit
    refine ⟨fun hnone => ?_, fun u hu => ⟨fun hearly => ?_, fun hsrc hlate => ?_⟩⟩
    · exact congrArg Host.Outcome.next (syncLost_early (by simp [hnone]))
    · refine congrArg Host.Outcome.next (syncLost_early fun w hw => ?_)
      cases hu.symm.trans hw
      exact hearly
    · obtain ⟨hnow, hsource, -⟩ := tb_of_besidesServo (besidesServo_syncLost_late hu hsrc hlate)
      obtain ⟨hcfg, hzones, hwires⟩ := standing_of_besidesTime (besidesTime_syncLost t s)
      exact ⟨_, rfl, hnow, hcfg, hzones, hwires, hsource⟩
  · intro t s a e past
    refine ⟨fun hpast => congrArg Host.Outcome.next ((holdoverExpired_eq t s).trans (if_neg hpast)), fun hpast => ?_⟩
    have h : holdoverExpired t s = tbGo .unlocked (withSource 0 a) := (holdoverExpired_eq t s).trans (if_pos hpast)
    obtain ⟨-, hsrc, -⟩ := tb_of_besidesServo (besidesServo_tbGo .unlocked (withSource 0 a))
    have hstanding := standing_of_besidesTime (besidesTime_holdoverExpired t s)
    rw [h] at hstanding
    exact ⟨_, congrArg Host.Outcome.next h, tbGo_state _ _, hsrc, hstanding⟩
  · intro t s e near th
    refine ⟨fun hfar => congrArg Host.Outcome.next (ppsEdge_far hfar), fun hnear => ?_⟩
    obtain ⟨htime, hlast, htheta⟩ := ppsEdge_near hnear
    exact ⟨_, rfl, hlast, htheta, standing_of_besidesTime htime⟩
  · intro t s a
    refine ⟨fun hnone => ?_, fun u hu => ⟨fun hearly => ?_, fun hlate hsrc => ?_, fun hlate hsrc => ?_⟩⟩
    · exact congrArg Host.Outcome.next (ppsLost_early (by simp [hnone]))
    · refine congrArg Host.Outcome.next (ppsLost_early fun w hw => ?_)
      cases hu.symm.trans hw
      exact hearly
    · exact congrArg Host.Outcome.next ((ppsLost_late hu hlate).trans (if_neg hsrc))
    · have h := (ppsLost_late hu hlate).trans (if_pos hsrc)
      obtain ⟨-, hsource, hlast, -⟩ := tb_of_besidesServo ((congrArg besidesServo h).trans (besidesServo_sourceLost _))
      exact ⟨_, rfl, hlast, hsource,
        (standing_of_besidesTime (besidesTime_ppsLost t s)).1⟩
  · intro t s a off on
    exact ⟨congrArg Host.Outcome.next (ppsOut_rise t s), fun hnone => congrArg Host.Outcome.next (ppsOut_noFall hnone),
      fun u hu => congrArg Host.Outcome.next (ppsOut_fall hu)⟩

end Sys2Proof.Machine.TimeProofs
end

section
/-!
SUPPORT. Timed launch (04_timebase.md R106, R107; 03_process_bus_ingest.md R81, R82; 13_redundancy.md R293).
-/
namespace Sys2Proof.Machine.TimeProofs
open Sys2Proof.Machine.SheafProofs Sys2Proof.Machine.BusProofs

theorem launchDue_iff (n : Nat) (t : Time) (occ : Bool) (e : Launch) (s : State) :
    let off := egressUnits s n t - stepUnits (e.instant.getD 0)
    launchDue n t occ e s = true ↔ e.late = true ∨ (occ = true ∧ 0 ≤ off) ∨ off.natAbs ≤ 655360 := by
  simp [launchDue, or_assoc]

/-- A state in which port n's first entry has left its queue at t. -/
def dequeued (n : Nat) (rest : List Launch) (t : Time) (s : State) : State :=
  setPort n { portOf s n with queue := rest } (advance t s)

theorem dequeued_portOf (n : Nat) (rest : List Launch) (t : Time) (s : State) :
    portOf (dequeued n rest t s) n = { portOf s n with queue := rest } := portOf_setPort_same n _ (advance t s)

/-- Whether the port sends, and whether the entry may leave, does not change with the queue and the time (R107, R293). -/
theorem dequeued_mayTransmit (n : Nat) (rest : List Launch) (t : Time) (s : State) :
    mayTransmit (dequeued n rest t s) n = mayTransmit s n := by
  rw [mayTransmit, dequeued_portOf, dequeued, setPort_cfg, advance_cfg, mayTransmit]

theorem dequeued_mayLaunch (n : Nat) (rest : List Launch) (t : Time) (s : State) (k : TxKind) :
    mayLaunch (dequeued n rest t s) k = mayLaunch s k := by
  have h := congrArg (mayLaunch · k) (advance_spec t s).2
  exact h

section
variable (n : Nat) (t : Time) (occ : Bool) (e : Launch) (s : State)

/-- A slip is counted, and noted by the line differential whose frame it is (R107, R156): the counters and the descriptors
change alone. -/
theorem sendTimed_eq : ∃ u, sendTimed n t occ e s = sendNow n e t u ∧ u = { s with cnt := u.cnt, ldf := u.ldf } ∧
    ((∀ d p, e.kind ≠ .ldf d p) → u.ldf = s.ldf) ∧
    u.cnt = if occ = true ∧ e.late = false then (count 146 1 s).cnt else s.cnt := by
  unfold sendTimed
  extract_lets slipped s1 s2
  have hcnt : s1.cnt = if occ = true ∧ e.late = false then (count 146 1 s).cnt else s.cnt := by
    simp only [s1, slipped, Bool.and_eq_true, Bool.not_eq_true', apply_ite State.cnt]
  obtain ⟨heq, hldf⟩ : s1 = { s with cnt := s1.cnt } ∧ s1.ldf = s.ldf := by
    unfold s1; split <;> exact ⟨rfl, rfl⟩
  have hkept : s1 = { s with cnt := s1.cnt, ldf := s1.ldf } := heq.trans (by rw [hldf])
  clear_value s1
  refine ⟨s2, rfl, ?_⟩
  unfold s2
  split
  next d p hkind =>
    split
    · have hslip := congrArg (fun x : State => { x with ldf := (ldfSlip d p (ldfSeqOf e.data) s1).ldf }) heq
      exact ⟨hslip, fun h => absurd hkind (h d p), hcnt⟩
    · exact ⟨hkept, fun h => absurd hkind (h d p), hcnt⟩
  next => exact ⟨hkept, fun _ => hldf, hcnt⟩

theorem sendTimed_portOf (m : Nat) : portOf (sendTimed n t occ e s) m = portOf s m := by
  obtain ⟨u, hsend, hu, -⟩ := sendTimed_eq n t occ e s
  rw [hsend, hu]
  rfl

/-- A frame on its way has its egress stamp and its count, and a slip has its own (R83, R100, R107). -/
theorem sendTimed_spec : let u := sendTimed n t occ e s
    u.sent = ⟨n, e.kind, t, egressUnits s n t, e.head, e.data, e.trailer⟩ :: s.sent ∧
      u = { s with cnt := u.cnt, sent := u.sent, ldf := u.ldf } ∧ ((∀ d p, e.kind ≠ .ldf d p) → u.ldf = s.ldf) ∧
      (n < 32 → FMap.get u.cnt 0 (96 + n) = FMap.get s.cnt 0 (96 + n) + 1 ∧
        FMap.get u.cnt 0 146 = FMap.get s.cnt 0 146 + (if occ = true ∧ e.late = false then 1 else 0)) := by
  obtain ⟨u, hsend, hu, hldf, hcnt⟩ := sendTimed_eq n t occ e s
  rw [hsend]
  refine ⟨?_, ?_, hldf, fun hn => ?_⟩
  · rw [hu]; rfl
  · rw [hu]; rfl
  · have hne : 96 + n ≠ 146 := by omega
    have hsent : (sendNow n e t u).cnt = FMap.set u.cnt (96 + n) (FMap.get u.cnt 0 (96 + n) + 1) := rfl
    rw [hsent, hcnt]
    split <;> simp [hne, hne.symm]

end

section
variable {n : Nat} {t : Time} {occ : Bool} {e : Launch} {rest : List Launch} {s : State}
  (hqueue : (portOf s n).queue = e :: rest)
include hqueue

/-- An instant that is not the entry's changes nothing (R106). -/
theorem launch_notDue (hdue : launchDue n t occ e s = false) : launch n t occ s = s := by
  simp only [launch, hqueue, hdue, if_true]

/-- At its own instant the entry leaves the queue; it goes out where the port sends and the engine may send it. The port
holds no untimed frame back behind it (R82, R107, R293). -/
theorem launch_due (hdue : launchDue n t occ e s = true) (hnone : mayTransmit s n = true → (portOf s n).untimed = []) :
    launch n t occ s = if mayTransmit s n = true ∧ mayLaunch s e.kind = true then
      sendTimed n t occ e (dequeued n rest t s) else dequeued n rest t s := by
  unfold launch
  rw [hqueue]
  dsimp -zeta only
  rw [if_neg (by simp [hdue])]
  extract_lets a _ u go v
  have hu : u = dequeued n rest t s :=
    congrArg (fun x : Port => setPort n { x with queue := rest } a) (advance_portOf t s n)
  have hgo : go = mayLaunch s e.kind := (congrArg (mayLaunch · e.kind) hu).trans (dequeued_mayLaunch n rest t s e.kind)
  have hv : v = if mayLaunch s e.kind = true then sendTimed n t occ e (dequeued n rest t s) else dequeued n rest t s := by
    unfold v; rw [hgo, hu]
  have hport : portOf v n = portOf (dequeued n rest t s) n := by
    rw [hv]
    split
    · exact sendTimed_portOf n t occ e _ n
    · rfl
  rw [hu, dequeued_mayTransmit]
  cases hmay : mayTransmit s n with
  | false => simp
  | true =>
    have huntimed : (portOf v n).untimed = [] := by rw [hport, dequeued_portOf]; exact hnone hmay
    simpa [huntimed] using hv

end

/-- A retransmission that is planned repeats the last values (R81). -/
theorem retransmit_planned {n : Nat} {t : Time} {vals : List (Word × Half)} {s : State} (hnext : (pubOf s n).next = some t)
    (hlast : (pubOf s n).last = some vals) (hon : gpEnabled (gpWords s.cfg.package n) = true) :
    retransmit n s = queueGoose n (gpWords s.cfg.package n) t
      (min (2 * (pubOf s n).interval) (gpT0 (gpWords s.cfg.package n))) vals
      { pubOf s n with sqNum := nextNum (pubOf s n).sqNum } (advance t s) := by
  simp only [retransmit, hnext, hlast, hon, not_true, if_false]

/-- Settles O40: the head entry's instant, the port, the token, and then the frame. -/
theorem launchesLeaveInOrder : Obligations.LaunchesLeaveInOrder := by
  refine ⟨?_, fun n t vals s hnext hlast hon => congrArg Host.Outcome.next (retransmit_planned hnext hlast hon)⟩
  intro n t occ e rest s hqueue a off due
  have hiff : launchDue n t occ e s = true ↔ due := launchDue_iff n t occ e s
  refine ⟨fun h => ?_, fun h hmay => ?_, fun h hnone hkind => ?_, fun h hmay hnone hkind => ?_⟩
  · exact congrArg Host.Outcome.next (launch_notDue hqueue (Bool.eq_false_iff.mpr (mt hiff.mp h)))
  · refine congrArg Host.Outcome.next ((launch_due hqueue (hiff.mpr h) fun hon => ?_).trans (if_neg (by simp [hmay])))
    exact absurd (hmay.symm.trans hon) Bool.false_ne_true
  · exact congrArg Host.Outcome.next ((launch_due hqueue (hiff.mpr h) fun _ => hnone).trans (if_neg (by simp [hkind])))
  · have hsend := (launch_due hqueue (hiff.mpr h) fun _ => hnone).trans (if_pos ⟨hmay, hkind⟩)
    obtain ⟨hsent, hu, hldf, hcnt⟩ := sendTimed_spec n t occ e (dequeued n rest t s)
    have hstamp : egressUnits (dequeued n rest t s) n t = egressUnits s n t := by
      rw [egressUnits, dequeued, setPort_tb, advance_config, egressUnits]
    have hport : (portOf (sendTimed n t occ e (dequeued n rest t s)) n).queue = rest := by
      rw [sendTimed_portOf, dequeued_portOf]
    have hcounters : (dequeued n rest t s).cnt = s.cnt := advance_cnt t s
    rw [hcounters] at hcnt
    rw [hstamp, dequeued, setPort_sent, advance_sent] at hsent
    exact ⟨_, congrArg Host.Outcome.next hsend, hsent, hport, hu, fun hk => (hldf hk).trans (advance_ldf t s), hcnt⟩

end Sys2Proof.Machine.TimeProofs
end

section
/-!
SUPPORT. An element that the sheaf in the pipeline evaluates, read and written; the timers and the auto-reclose rows that act
on it (05_zones_and_elements.md R126, R140; 06_inverse_time.md R147, R151).
-/
namespace Sys2Proof.Machine.ElementProofs

/-- Reading an element after a write, pending or committed. -/
theorem liveInst_setLiveInst (n m : Nat) (x : Inst) (s : State) :
    liveInst (setLiveInst n x s) m = if n = m then x else liveInst s m := by
  unfold setLiveInst
  split
  case h_1 r hr =>
    by_cases hzone : n / 32 = m / 32
    · rw [hzone] at hr ⊢
      simp [liveInst, instOf, hr]
    · have hne : n ≠ m := fun h => hzone (congrArg (· / 32) h)
      simp [liveInst, instOf, hzone, hne]
  case h_2 hr =>
    by_cases h : n = m
    · subst h
      simp [liveInst, instOf, hr]
    · simp [liveInst, instOf, h]

/-- A written element touches the pending results and the committed elements alone. -/
theorem setLiveInst_frame (n : Nat) (x : Inst) (s : State) :
    setLiveInst n x s = { s with results := (setLiveInst n x s).results, insts := (setLiveInst n x s).insts } := by
  unfold setLiveInst
  split <;> rfl

section
variable {z k type : Nat} {set : Nat → Word} {s : State} (hset : liveSettings s z k = (type, set))
include hset

/-- DEFINITE_TIME_OPERATE of any element with a delay but breaker failure, whose two timers are its own (R126, R134). -/
theorem definiteOperate_eq {d : Nat} (htype : type ≠ 0x09) (hd : delayOf type set = some d) :
    let i := liveInst s (32 * z + k)
    definiteOperate z k s =
      if i.wasOn = true ∧ i.r = 0 ∧ sheavesOfMs d + 1 ≤ i.c then
        setLiveInst (32 * z + k)
          { i with op := true, bools := modAt (fun p => { p with value := 1 }) 1 i.bools } s
      else s := by
  simp only [definiteOperate, hset, if_neg htype, hd, assertOutput, Bool.and_eq_true, beq_iff_eq, decide_eq_true_eq,
    and_assoc]

/-- RESET_DELAY_EXPIRY of an element without a RESET_DELAY setting: one sheaf of reset clears the count (R126). -/
theorem resetExpiry_undelayed (htype : ¬ (1 ≤ type ∧ type ≤ 3)) :
    let i := liveInst s (32 * z + k)
    resetExpiry z k s = if 0 < i.r then setLiveInst (32 * z + k) { i with c := 0 } s else s := by
  have hdelay : ¬ (1 ≤ type ∧ type ≤ 3 ∧ set 6 ≠ 0) := fun h => htype ⟨h.1, h.2.1⟩
  have hcurve : ¬ ((decide (1 ≤ type) && decide (type ≤ 3) && set 2 != 0) = true) := by
    simp only [Bool.and_eq_true, decide_eq_true_eq]
    exact fun h => htype h.1
  simp only [resetExpiry, hset, if_neg hdelay, if_neg hcurve]

end

/-- The row of the present auto-reclose state whose point condition goes before an expiry (R140). -/
def pointRow (x : RecloseIn) : Reclose → Bool
  | .waitOpen => !x.closed
  | .closing => x.closed
  | .reclaim => x.rise
  | _ => false

/-- An auto-reclose element after the expiry of its time: nothing happens to one that a point moves in this sheaf (R140). -/
def expired (set : Nat → Word) (x : RecloseIn) (i : Inst) : Inst :=
  if x.block || pointRow x i.reclose then i else recloseExpiry set x i

/-- AUTO_RECLOSE_TIMER_EXPIRY writes the element after the expiry; of its own it adds the outputs alone (R125, R140). -/
theorem recloseTimer_spec {z k : Nat} {set : Nat → Word} {s : State} (hset : liveSettings s z k = (0x0E, set)) :
    let i := liveInst s (32 * z + k)
    ∃ (c : Ctx) (j : Inst), recloseTimer z k s = setLiveInst (32 * z + k) j s ∧ c.s = s ∧
      j.reclose = (expired set (recloseInputs c set i) i).reclose ∧
      j.shots = (expired set (recloseInputs c set i) i).shots := by
  intro i
  unfold recloseTimer
  rw [hset]
  exact ⟨⟨s, z, [], zoneOf s z, s.glb.cur, ⟨[], (Cplx.zero, 0), (Cplx.zero, 0), (Cplx.zero, 0), (Cplx.zero, 0),
    (Cplx.zero, 0), (Cplx.zero, 0)⟩⟩, _, if_neg (not_not.mpr rfl), rfl, rfl, rfl⟩

section
variable {set : Nat → Word} {c : Ctx} {i : Inst}

/-- Without a BLOCK_POINT nothing blocks (R140). -/
theorem recloseInputs_block (h : set 13 = 0xFFFFFFFF) : (recloseInputs c set i).block = false := by
  simp [recloseInputs, pointSet, h]

/-- Without a SYNC_POINT a reclosure is in synchronism (R140). -/
theorem recloseInputs_sync (h : set 12 = 0xFFFFFFFF) : (recloseInputs c set i).sync = true := by
  simp [recloseInputs, pointSet, h]

theorem recloseInputs_closed (h : set 11 ≠ 0xFFFFFFFF) :
    (recloseInputs c set i).closed = truth (boolPoint c.s (set 11).toNat).value := by
  have h' : set 11 ≠ 4294967295#32 := h
  simp [recloseInputs, pointSet, h']

/-- An INIT_POINT that was true in the sheaf before does not rise (R140). -/
theorem recloseInputs_rise (h : i.prevInit = true) : (recloseInputs c set i).rise = false := by
  simp [recloseInputs, h]

end

section
variable {set : Nat → Word} {x : RecloseIn} {i : Inst}

/-- No time runs in READY or DISABLED (R140). -/
theorem expired_idle (h : i.reclose = .ready ∨ i.reclose = .disabled) : expired set x i = i := by
  unfold expired recloseExpiry
  rcases h with h | h <;> simp [h]

theorem expired_unblocked (hblock : x.block = false) (hrow : pointRow x i.reclose = false) :
    expired set x i = recloseExpiry set x i := by
  simp [expired, hblock, hrow]

theorem expired_waitOpen (hblock : x.block = false) (h : i.reclose = .waitOpen) (hclosed : x.closed = true) :
    (expired set x i).reclose = if reached i.ticks (sheavesOfMs (set 7).toNat) then .lockout else .waitOpen := by
  rw [expired_unblocked hblock (by simp [pointRow, h, hclosed]), recloseExpiry, h, apply_ite Inst.reclose, h]
  rfl

theorem expired_closing (hblock : x.block = false) (h : i.reclose = .closing) (hclosed : x.closed = false) :
    (expired set x i).reclose = if reached i.ticks (sheavesOfMs (set 8).toNat) then .lockout else .closing := by
  rw [expired_unblocked hblock (by simp [pointRow, h, hclosed]), recloseExpiry, h, apply_ite Inst.reclose, h]
  rfl

theorem expired_dead (hblock : x.block = false) (h : i.reclose = .dead) (hsync : x.sync = true) :
    (expired set x i).reclose = if reached i.ticks (deadSheaves set i.shots) then .closing else .dead := by
  rw [expired_unblocked hblock (by simp [pointRow, h]), recloseExpiry, h, hsync, apply_ite Inst.reclose, h]
  rfl

/-- RECLAIM_TIME ends RECLAIM and LOCKOUT alike: READY, no shot taken (R140). -/
theorem expired_reclaim (hblock : x.block = false) (hrise : x.rise = false)
    (h : i.reclose = .reclaim ∨ i.reclose = .lockout) :
    expired set x i =
      if reached i.ticks (sheavesOfMs (100 * (set 6).toNat)) then { recloseGo .ready i with shots := 0 } else i := by
  have hrow : pointRow x i.reclose = false := by rcases h with h | h <;> simp [pointRow, h, hrise]
  rw [expired_unblocked hblock hrow, recloseExpiry]
  rcases h with h | h <;> rw [h]

end

/-- Settles O35: each timer writes its element alone; auto-reclose takes the row of the state it is in. -/
theorem elementTimersOperate : Obligations.ElementTimersOperate := by
  intro z k s n i type set only closed
  refine ⟨fun htype d hd => congrArg Host.Outcome.next (definiteOperate_eq rfl htype hd), rfl,
    fun htype => congrArg Host.Outcome.next (resetExpiry_undelayed rfl htype), fun htype => ?_⟩
  obtain ⟨c, j, heq, hc, hexpired, hcount⟩ := recloseTimer_spec (Prod.ext htype rfl : liveSettings s z k = (0x0E, set))
  have hlive : liveInst (setLiveInst n j s) n = j := by rw [liveInst_setLiveInst, if_pos rfl]
  have hreclose := (congrArg Inst.reclose hlive).trans hexpired
  have hshots := (congrArg Inst.shots hlive).trans hcount
  refine ⟨_, congrArg Host.Outcome.next heq, fun m hm => ?_, setLiveInst_frame _ _ _, fun hnone hpoint hinit => ?_,
    fun hidle => ?_⟩
  · rw [liveInst_setLiveInst, if_neg hm.symm]
  · have hblock := recloseInputs_block (c := c) (i := i) hnone
    have hclosed : (recloseInputs c set i).closed = closed := by rw [recloseInputs_closed hpoint, hc]
    refine ⟨fun hs hcl => hreclose.trans (expired_waitOpen hblock hs (hclosed.trans hcl)),
      fun hs hcl => hreclose.trans (expired_closing hblock hs (hclosed.trans hcl)),
      fun hs hsync => hreclose.trans (expired_dead hblock hs (recloseInputs_sync hsync)), fun hs => ?_⟩
    have hafter := expired_reclaim (set := set) hblock (recloseInputs_rise hinit) hs
    split
    case isTrue hover =>
      rw [if_pos hover] at hafter
      exact ⟨hreclose.trans (congrArg Inst.reclose hafter), hshots.trans (congrArg Inst.shots hafter)⟩
    case isFalse hwait =>
      rw [if_neg hwait] at hafter
      exact ⟨hreclose.trans (congrArg Inst.reclose hafter), hshots.trans (congrArg Inst.shots hafter)⟩
  · exact hreclose.trans (congrArg Inst.reclose (expired_idle hidle))

end Sys2Proof.Machine.ElementProofs
end

section
/-!
SUPPORT. What arrives over Dovetail: sub-samples, cross-triggers, and the state of a link (05_zones_and_elements.md R137;
10_trigger_acquisition.md R240; 12_tally.md R282).
-/
namespace Sys2Proof.Machine.ElementProofs

/-- A sub-sample that one subscription takes, with no package armed (R137). -/
theorem dovetailIn_single {port src slot m : Nat} {v : Int} {q : Word} {e : Nat × List Word} {s : State}
    (hup : FMap.get s.dovetail false port = true) (hopen : acceptsSheaf s (m / 3) = true) (harmed : armedPackage s = none)
    (he : dvtMatches s.cfg.package port src slot = [e]) :
    dovetailIn port src slot m v q s =
      if dsRate e.2 = 1 ∧ m % 3 ≠ 0 ∨ storesFor s false (dsLocal e.2) (m / 3) = false then s
      else storeSample (dsLocal e.2) m ⟨v, q⟩ s := by
  unfold dovetailIn
  rw [if_neg (by simp [hup, hopen])]
  simp only [harmed, he, List.foldl_cons, List.foldl_nil]

/-- A cross-trigger that is in time waits for the sheaf after its sub-sample's (R240). -/
theorem crossIn_onTime {port src slot m : Nat} {s : State} (hup : FMap.get s.dovetail false port = true)
    (htime : s.glb.running = false ∨ s.glb.cur ≤ m / 3 + 1) :
    crossIn port src slot m s = { s with thr := { s.thr with cross := s.thr.cross ++ [⟨src, slot, m, m / 3 + 1⟩] } } := by
  have hlate : (s.glb.running && decide (m / 3 + 1 < s.glb.cur)) = false := by
    rcases htime with h | h
    · rw [h, Bool.false_and]
    · rw [decide_eq_false (Nat.not_lt.mpr h), Bool.and_false]
  unfold crossIn
  rw [if_neg (by simp [hup])]
  simp [hlate]

/-- A late one is counted and waits for the sheaf in the pipeline (R240). -/
theorem crossIn_late {port src slot m : Nat} {s : State} (hup : FMap.get s.dovetail false port = true)
    (hrunning : s.glb.running = true) (hpast : m / 3 + 1 < s.glb.cur) :
    crossIn port src slot m s =
      count 179 1 { s with thr := { s.thr with cross := s.thr.cross ++ [⟨src, slot, m, s.glb.cur⟩] } } := by
  unfold crossIn
  rw [if_neg (by simp [hup])]
  simp [hrunning, hpast, count]

/-- A change of a link is remembered, and reported where the port carries something (R282, R346). -/
theorem dovetailLink_change {port : Nat} {up : Bool} {s : State} (h : FMap.get s.dovetail false port ≠ up) :
    let a := { s with dovetail := FMap.set s.dovetail port up }
    (dvtConfigured s.cfg.package port = false → paired s = false → dovetailLink port up s = a) ∧
      (dvtConfigured s.cfg.package port = true → dovetailLink port up s =
        if up then tally 0x0A07 [item port, 1] a else sticky 3 14 (tally 0x0A07 [item port, 0] a)) := by
  intro a
  unfold dovetailLink
  rw [if_neg h]
  refine ⟨fun hconf hpair => ?_, fun hconf => ?_⟩
  · have hpair' : paired a = false := hpair
    exact if_neg (by simp [hconf, hpair', a])
  · refine (if_pos (by simp [hconf])).trans ?_
    cases up <;> rfl

/-- Settles O48: the link decides first; then the subscription, the sheaf that is due, and the port's configuration. -/
theorem dovetailCarriesSamples : Obligations.DovetailCarriesSamples := by
  intro port src slot m v q s
  refine ⟨fun h => congrArg Host.Outcome.next (if_pos h), fun e hup hopen harmed he => ?_,
    fun hdown => congrArg Host.Outcome.next (if_pos hdown), fun hup => ⟨fun htime => ?_, fun hrunning hpast => ?_⟩,
    fun up => ⟨fun h => congrArg Host.Outcome.next (if_pos h), fun h => ⟨fun hconf hpair => ?_, fun hconf => ?_⟩⟩⟩
  · exact congrArg Host.Outcome.next (dovetailIn_single hup hopen harmed he)
  · exact congrArg Host.Outcome.next (crossIn_onTime hup htime)
  · exact congrArg Host.Outcome.next (crossIn_late hup hrunning hpast)
  · exact congrArg Host.Outcome.next ((dovetailLink_change h).1 hconf hpair)
  · exact congrArg Host.Outcome.next ((dovetailLink_change h).2 hconf)

end Sys2Proof.Machine.ElementProofs
end

section
/-!
SUPPORT. The timers of the logic program and of the trigger programs, and the masks that stop a trigger program, on the rows
that report them (08_logic_program.md R183; 10_trigger_acquisition.md R231, R233).
-/
namespace Sys2Proof.Machine.LogicProofs

/-- Only a program has timers (R183). -/
theorem timerExpiry_noProgram {n : Nat} {s : State} (h : s.logic.program = none) : timerExpiry n s = s := by
  unfold timerExpiry
  rw [h]

/-- A TON shows its preset's expiry only where its input was true and its count is there (R183). -/
theorem timerExpiry_ton {n k ms : Nat} {l : Loaded} {s : State} (hprog : s.logic.program = some l)
    (hop : l.program.steps.findSome? (logicTimerStep n) = some (.ton k ms)) :
    let x := FMap.get s.logic.timers LTimer.init n
    timerExpiry n s =
      if x.prev = true ∧ presetCycles ms (periodOf s) ≤ x.count then
        { s with logic := { s.logic with timers := FMap.set s.logic.timers n { x with q := true } } }
      else s := by
  unfold timerExpiry
  simp only [hprog, hop, Bool.and_eq_true, decide_eq_true_eq]

section
variable {p i m : Nat} {s : State}

/-- A mask acts at the last sub-sample of the committed sheaf, before Thresher has stepped its program there; that this is
the one place is the model's choice (log 98). -/
theorem maskAct_idle
    (h : m ≠ 3 * s.glb.sheaf + 2 ∨ (trigOf s p).stepped = some m ∨ tgEnabled (tgWords s.cfg.package p) = false ∨
      inViolation s (tgWords s.cfg.package p) i m (((trigOf s p).masks[i]?).getD 0) = false) :
    maskAct p i m s = s := by
  refine if_pos fun ⟨henabled, hviolated, hlast, hfresh⟩ => ?_
  rcases h with h | h | h | h
  · exact h hlast
  · exact hfresh h
  · exact Bool.false_ne_true (h.symm.trans henabled)
  · exact Bool.false_ne_true (h.symm.trans hviolated)

/-- There a violated STOP mask restarts a program in one of its states, and counts it (R232, R233). -/
theorem maskAct_stop (hlast : m = 3 * s.glb.sheaf + 2) (hfresh : (trigOf s p).stepped ≠ some m)
    (henabled : tgEnabled (tgWords s.cfg.package p) = true)
    (hviolated : inViolation s (tgWords s.cfg.package p) i m (((trigOf s p).masks[i]?).getD 0) = true)
    (hstop : mkAction (tgWords s.cfg.package p) i = 1)
    (hstate : (mkStates (tgWords s.cfg.package p) i).testBit (trigOf s p).state = true)
    (hchanges : stopTrig (trigOf s p) ≠ trigOf s p) :
    maskAct p i m s = setTrig p (stopTrig (trigOf s p)) (count 177 1 s) :=
  (if_neg (not_not_intro ⟨henabled, hviolated, hlast, hfresh⟩)).trans (if_pos ⟨hstop, hstate, hchanges⟩)

end

/-- Settles O36: a logic timer's expiry is its program's, a trigger timer stays at its preset, and a mask acts at one
sub-sample or not at all. -/
theorem programTimersExpire : Obligations.ProgramTimersExpire := by
  refine ⟨fun n s hnone => ?_, fun n ms l s hprog hop => ?_, fun p n s => rfl,
    fun p i m s => ⟨fun hidle => ?_, fun hlast hfresh henabled hviolated hstop hstate hchanges => ?_⟩⟩
  · exact congrArg Host.Outcome.next (timerExpiry_noProgram hnone)
  · exact congrArg Host.Outcome.next (timerExpiry_ton hprog hop)
  · exact congrArg Host.Outcome.next (maskAct_idle hidle)
  · exact congrArg Host.Outcome.next (maskAct_stop hlast hfresh henabled hviolated hstop hstate hchanges)

end Sys2Proof.Machine.LogicProofs
end

section
/-!
SUPPORT. The trip wires at the edge they follow, their readback, and Tenon's timers on the rows that report them
(09_trip_path.md R211, R214, R217, R218, R220).
-/
namespace Sys2Proof.Machine.TripProofs

@[simp] theorem advance_wires (t : Time) (s : State) : (advance t s).wires = s.wires := by
  have h := congrArg State.wires (advance_spec t s).2
  exact h

@[simp] theorem advance_driving (t : Time) (s : State) : driving (advance t s) = driving s := by
  have h := congrArg driving (advance_spec t s).2
  exact h

@[simp] theorem advance_wireOf (t : Time) (s : State) (n : Nat) : wireOf (advance t s) n = wireOf s n := by
  simp only [wireOf, advance_wires]

section
variable {n : Nat} {t : Time} {s : State}

/-- A row that names another instant than E does nothing (R217, log 89). -/
theorem wireEdge_otherInstant (h : t ≠ timeAtClock s.tb s.tb.edge) : wireEdge n t s = s := by
  simp [wireEdge, h]

/-- At E a wire without a driver keeps its state (R218). -/
theorem wireEdge_undriven (h : t = timeAtClock s.tb s.tb.edge) (hdrive : driving s = false) :
    wireEdge n t s = advance t s := by
  simp [wireEdge, ← h, hdrive]

/-- At E a driven wire starts where its gate is true, and stops where it is false (R217). -/
theorem wireEdge_driven (h : t = timeAtClock s.tb s.tb.edge) (hdrive : driving s = true) :
    let x := wireOf s n
    wireEdge n t s =
      if x.gate && !x.toggling then
        setWire n { x with toggling := true, level := true, edge := s.tb.edge } (advance t s)
      else if !x.gate && x.toggling then
        setWire n { x with toggling := false, level := false, edge := 0 } (advance t s)
      else advance t s := by
  simp [wireEdge, ← h, hdrive]

end

/-- A window passes with 9 or more edges under a true gate and with none under a false one (R220). -/
theorem windowPass_iff (gate : Bool) (edges : Nat) :
    (if gate then decide (9 ≤ edges) else edges == 0) = true ↔ if gate then 9 ≤ edges else edges = 0 := by
  cases gate <;> simp

section
variable {n e : Nat} {s : State}

/-- Only a driven wire with readback is supervised (R220). -/
theorem readback_unsupervised (h : wrReadback (wireWord s.cfg.package n) = false ∨ driving s = false) :
    readback n e s = s := by
  refine if_pos fun ⟨hreadback, hdrive⟩ => ?_
  rcases h with h | h
  · exact Bool.false_ne_true (h.symm.trans hreadback)
  · exact Bool.false_ne_true (h.symm.trans hdrive)

variable (hreadback : wrReadback (wireWord s.cfg.package n) = true) (hdrive : driving s = true)
include hreadback hdrive

/-- A passing window ends the run of failing ones and a fault, whose end is reported (R220). -/
theorem readback_passed (hpass : if (wireOf s n).gate then 9 ≤ e else e = 0) :
    let x := wireOf s n
    let r := setWire n { x with failing := 0, fault := false } s
    readback n e s = if x.fault then tally 0x0803 [item n, 1, if x.gate then 1 else 0, item e] r else r :=
  (if_neg (not_not_intro ⟨hreadback, hdrive⟩)).trans (if_pos ((windowPass_iff _ _).mpr hpass))

variable (hfail : ¬ if (wireOf s n).gate then 9 ≤ e else e = 0)
include hfail

/-- The second failing window in a row makes a fault (R220). -/
theorem readback_faulted (hsecond : (wireOf s n).failing = 1) (hsound : (wireOf s n).fault = false) :
    let x := wireOf s n
    readback n e s = sticky 0 11 (count 161 1 (tally 0x0803 [item n, 0, if x.gate then 1 else 0, item e]
      (setWire n { x with failing := 2, fault := true } s))) :=
  (if_neg (not_not_intro ⟨hreadback, hdrive⟩)).trans <| (if_neg (hfail ∘ (windowPass_iff _ _).mp)).trans <|
    if_pos ⟨congrArg (· + 1) hsecond, hsound⟩

/-- Every other failing window counts in the run alone (R220). -/
theorem readback_failed (h : (wireOf s n).failing ≠ 1 ∨ (wireOf s n).fault = true) :
    let x := wireOf s n
    readback n e s = setWire n { x with failing := x.failing + 1 } s := by
  refine (if_neg (not_not_intro ⟨hreadback, hdrive⟩)).trans <| (if_neg (hfail ∘ (windowPass_iff _ _).mp)).trans <|
    if_neg fun ⟨hsecond, hsound⟩ => ?_
  rcases h with h | h
  · exact h (Nat.succ.inj hsecond)
  · exact Bool.false_ne_true (hsound.symm.trans h)

end

/-- Settles O29: the instant, then the driver, decide what an edge does; supervision, then the count, what a window does. -/
theorem tripWireFollowsGate : Obligations.TripWireFollowsGate := by
  intro n e t s x a
  refine ⟨congrArg Host.Outcome.next ?_, fun h => congrArg Host.Outcome.next (readback_unsupervised h),
    fun hreadback hdrive => ⟨fun hpass => congrArg Host.Outcome.next (readback_passed hreadback hdrive hpass),
      fun hfail hsecond hsound => congrArg Host.Outcome.next (readback_faulted hreadback hdrive hfail hsecond hsound),
      fun hfail h => congrArg Host.Outcome.next (readback_failed hreadback hdrive hfail h)⟩⟩
  by_cases ht : t = timeAtClock s.tb s.tb.edge
  · rw [if_neg (not_not_intro ht)]
    cases hdrive : driving s
    · exact wireEdge_undriven ht hdrive
    · simp only [wireEdge_driven ht hdrive, setWire, advance_wires]
      rfl
  · rw [if_pos ht]
    exact wireEdge_otherInstant ht

/-- A mark lies within the last n sub-samples up to m. -/
theorem within'_iff (o : Option Nat) (n m : Nat) : within' o n m = true ↔ ∃ x, o = some x ∧ m < x + n := by
  cases o <;> simp [within']

/-- Settles O30: the release ends where no holding condition is recent enough; the backstop operates once its run is long
enough. -/
theorem tenonTimers : Obligations.TenonTimers := by
  intro z s t ws m
  exact ⟨congrArg Host.Outcome.next (if_congr (within'_iff t.lastHold 2880 m) rfl rfl), rfl⟩

end Sys2Proof.Machine.TripProofs
end

section
/-!
SUPPORT. The binary inputs: a debounced change, and the fault and the recovery of a pair (09_trip_path.md R222, R223).
-/
namespace Sys2Proof.Machine.TripProofs
open Sys2Proof.Safety Sys2Proof.Machine.SheafProofs

/-- A Tally entry leaves the protection state and host memory as they are (R273, R275). -/
theorem sameProtection_tally (event : Half) (detail : List Quad) (s : State) :
    sameProtection s (tally event detail s) ∧ (tally event detail s).hostMem = s.hostMem := by
  have part {α : Type} (f : State → α) :
      f { tally event detail s with tally := s.tally, cnt := s.cnt, stk := s.stk } = f s :=
    congrArg f (tally_frame event detail s)
  exact ⟨⟨part State.glb, part State.cfg, part State.samp, part State.ing, part State.tb, part State.ldf,
    part State.zones, part State.tenon, part State.insts, part State.results, part State.logic, part State.wires,
    part State.bi, part State.thr, part State.lanes⟩, part State.hostMem⟩

@[simp] theorem tally_bi (event : Half) (detail : List Quad) (s : State) : (tally event detail s).bi = s.bi := by
  have h := congrArg State.bi (tally_frame event detail s)
  exact h

section
variable {n since m : Nat} {s : State}

/-- A run that is too short, or that begins before the input's last change, changes nothing (R222). -/
theorem biChange_idle (h : m < since + biDebounce (biWord s.cfg.package n) - 1 ∨ ∃ l, biLast s n = some l ∧ since ≤ l) :
    biChange n since m s = s := by
  refine if_pos (h.imp_right ?_)
  rintro ⟨l, hlast, hbefore⟩
  simp [hlast, hbefore]

/-- The D-th differing sub-sample turns an input whose pair is not enabled (R222). -/
theorem biChange_single (hlong : since + biDebounce (biWord s.cfg.package n) - 1 ≤ m)
    (hfresh : ∀ l, biLast s n = some l → l < since) (hpair : prEnabled (pairWord s.cfg.package (n / 2)) = false) :
    let v := !debounced s n
    biChange n since m s = { s with bi := { s.bi with
      debounced := FMap.set s.bi.debounced n v
      log := (since + biDebounce (biWord s.cfg.package n) - 1, n, v) :: s.bi.log } } := by
  refine (if_neg ?_).trans (if_pos hpair)
  rintro (hshort | hold)
  · exact absurd hshort (Nat.not_lt.mpr hlong)
  · cases hlast : biLast s n with
    | none => simp [hlast] at hold
    | some l =>
      simp only [hlast, decide_eq_true_eq] at hold
      exact absurd hold (Nat.not_le.mpr (hfresh l hlast))

end

section
variable {p m : Nat} {s : State}

/-- A sound enabled pair that disagrees is faulted beyond DT_MS, not before (R223). -/
theorem pairDiscrepancy_disagreeing {d : Nat} (henabled : prEnabled (pairWord s.cfg.package p) = true)
    (hsound : (biPairOf s p).fault = false) (hsince : (biPairOf s p).disagreeSince = some d) :
    let due := d + pairLimit (pairWord s.cfg.package p)
    pairDiscrepancy p m s =
      if due ≤ m then
        sticky 0 12 (count 162 1 (tally 0x0804 [item p, 0, item due]
          (biLog due (256 + p) true (setPair p { biPairOf s p with fault := true } s))))
      else s := by
  simp only [pairDiscrepancy, hsince, henabled, hsound, true_and]

/-- A pair after its recovery: it agrees, and takes the present value of its first input (R223). -/
def recoveredPair (s : State) (p : Nat) : BiPair :=
  { biPairOf s p with fault := false, agreed := true, value := debounced s (2 * p) }

/-- A state with another log of the inputs' transitions. -/
def relogged (log : List (Nat × Nat × Bool)) (s : State) : State := { s with bi := { s.bi with log := log } }

theorem relogged_relogged (log old : List (Nat × Nat × Bool)) (s : State) :
    relogged log (relogged old s) = relogged log s := rfl

theorem biLog_setPair_relogged (m key p : Nat) (v : Bool) (x : BiPair) (log : List (Nat × Nat × Bool)) (s : State) :
    biLog m key v (setPair p x (relogged log s)) = setPair p x (relogged ((m, key, v) :: log) s) := rfl

variable {a : Nat} (henabled : prEnabled (pairWord s.cfg.package p) = true) (hfault : (biPairOf s p).fault = true)
  (hsince : (biPairOf s p).agreeSince = some a)
include hsince

/-- Too few agreeing sub-samples end no fault (R223). -/
theorem pairRecovery_early (h : m + 1 <
    a + max (biDebounce (biWord s.cfg.package (2 * p))) (biDebounce (biWord s.cfg.package (2 * p + 1)))) :
    pairRecovery p m s = s := by
  simp only [pairRecovery, hsince]
  exact if_neg fun ⟨_, _, hdue⟩ => Nat.not_lt.mpr hdue h

include henabled hfault

/-- Enough of them do: the pair, the log of transitions and one entry are all that changes (R223). -/
theorem pairRecovery_due
    (h : a + max (biDebounce (biWord s.cfg.package (2 * p))) (biDebounce (biWord s.cfg.package (2 * p + 1))) ≤ m + 1) :
    ∃ detail log, pairRecovery p m s = tally 0x0804 detail (setPair p (recoveredPair s p) (relogged log s)) := by
  unfold pairRecovery
  extract_lets w x d v
  split
  case h_1 hnone => exact absurd (hnone.symm.trans hsince) nofun
  case h_2 b hb =>
    obtain rfl : b = a := Option.some.inj (hb.symm.trans hsince)
    rw [if_pos ⟨henabled, hfault, h⟩]
    extract_lets due s1 s2
    have h1 : s1 = relogged s1.bi.log s := by unfold s1; split <;> rfl
    have h2 : s2 = relogged s2.bi.log s1 := by unfold s2; split <;> rfl
    have hlog : s2 = relogged s2.bi.log s :=
      h2.trans ((congrArg (relogged s2.bi.log) h1).trans (relogged_relogged _ _ _))
    generalize s2.bi.log = log at hlog
    rw [hlog]
    exact ⟨_, _, congrArg (tally 0x0804 _) (biLog_setPair_relogged due (256 + p) p false (recoveredPair s p) log s)⟩

end

/-- Settles O34: each row acts from its count of sub-samples on; a recovery writes its own pair. -/
theorem binaryInputDebounce : Obligations.BinaryInputDebounce := by
  refine ⟨fun n since m s => ⟨fun hidle => ?_, fun hlong hfresh hpair => ?_⟩,
    fun p m d s henabled hsound hsince => ?_,
    fun p m a s henabled hfault hsince => ⟨fun hearly => ?_, fun hdue => ?_⟩⟩
  · exact congrArg Host.Outcome.next (biChange_idle hidle)
  · exact congrArg Host.Outcome.next (biChange_single hlong hfresh hpair)
  · exact congrArg Host.Outcome.next (pairDiscrepancy_disagreeing henabled hsound hsince)
  · exact congrArg Host.Outcome.next (pairRecovery_early hsince hearly)
  · obtain ⟨detail, log, heq⟩ := pairRecovery_due henabled hfault hsince hdue
    have hpair (q : Nat) : biPairOf (pairRecovery p m s) q = if p = q then recoveredPair s p else biPairOf s q := by
      rw [heq, biPairOf, tally_bi]
      exact FMap.get_set _ _ _ _ _
    have hself : biPairOf (pairRecovery p m s) p = recoveredPair s p := (hpair p).trans (if_pos rfl)
    obtain ⟨hsame, hmem⟩ := sameProtection_tally 0x0804 detail (setPair p (recoveredPair s p) (relogged log s))
    refine ⟨_, rfl, congrArg BiPair.fault hself, congrArg BiPair.value hself, congrArg BiPair.agreed hself, ?_,
      fun q hq => (hpair q).trans (if_neg hq.symm), ?_, ?_⟩
    · rw [heq, tally_bi]
      rfl
    · rw [heq, tally_bi]
      exact hsame
    · rw [heq]
      exact hmem

end Sys2Proof.Machine.TripProofs
end

section
/-!
SUPPORT. Writes of a closed record to eMMC, and the walk of the log (11_granary_winnow.md R260 to R266).
-/
namespace Sys2Proof.Machine.GranaryProofs

/-- The last seal under PFAIL_N is a note in the supply state alone (R266). -/
theorem finishSeal_eq (s : State) : ∃ p, finishSeal s = { s with power := p } := by
  unfold finishSeal
  split
  · exact ⟨_, rfl⟩
  · exact ⟨s.power, rfl⟩

@[simp] theorem finishSeal_granary (s : State) : (finishSeal s).granary = s.granary := by
  unfold finishSeal; split <;> rfl

@[simp] theorem finishSeal_store (s : State) : (finishSeal s).store = s.store := by
  unfold finishSeal; split <;> rfl

/-- No record leaves for one that fits (R264). -/
theorem overwriteOldest_fits {need : Nat} {s : State} (h : logUsed s + need ≤ s.granary.capacity) (n : Nat) :
    overwriteOldest need n s = s := by
  cases n with
  | zero => rfl
  | succ n => exact if_pos h

/-- The state once the record in front stands on eMMC under the next number (R261, R262). -/
def accepted (r : Rec) (rest : List Rec) (s : State) : State :=
  { finishSeal s with
    granary := { s.granary with
      closed := rest, lastNo := s.granary.nextNo, nextNo := s.granary.nextNo + 1, failures := 0, slow := false
      stored := s.granary.stored ++
        [⟨s.granary.nextNo, r.triggerM, r.flags, r.cause, r.primary, r.body, sealOf s s.granary.nextNo r⟩] }
    store := { s.store with emmcFailed := s.store.emmcFailed && !s.granary.slow } }

/-- The state once one more write has failed (R261). -/
def failedOnce (s : State) : State :=
  { finishSeal s with granary := { s.granary with failures := s.granary.failures + 1 } }

/-- The detail of GRANARY_STORE (R261): the record's number, what happened, the device's status. -/
def storeDetail (what : Quad) (status : Word) (s : State) : List Quad := [item s.granary.nextNo, what, status.zeroExtend 64]

/-- The failed write, reported where it is the second (R261). -/
def failureNoted (status : Word) (s : State) : State :=
  if s.granary.failures + 1 = 2 then sticky 2 3 (tally 0x0904 (storeDetail 0 status s) (failedOnce s)) else failedOnce s

section
variable {r : Rec} {rest : List Rec} {s : State} (hclosed : s.granary.closed = r :: rest)
  (hwalked : s.granary.walked = true) (hseal : s.power.pfail = false ∨ s.power.lastSeal = true)
  (hreset : s.power.inReset = false) (hbusy : emmcBusy s = false)
  (hfits : logUsed s + (r.body.length + 4096) ≤ s.granary.capacity)
include hclosed hwalked hseal hreset hbusy hfits

/-- What the end of a write comes to where a closed record fits and may be written (R261, R264, R266). -/
theorem persist_fitting (ok deviceError : Bool) (status : Word) :
    persist ok deviceError status s =
      if ok = true ∧ deviceError = false then
        postEvent 0x0E04 (BitVec.ofNat 64 s.granary.nextNo)
          (if 2 ≤ s.granary.failures then tally 0x0904 (storeDetail 2 status s) (accepted r rest s)
          else accepted r rest s)
      else if (s.granary.failures + 1 = 8 ∨ deviceError = true) ∧ (failureNoted status s).granary.slow = false then
        sticky 2 4 (tally 0x0904 (storeDetail 1 status s)
          { failureNoted status s with
            granary := { (failureNoted status s).granary with slow := true }
            store := { (failureNoted status s).store with emmcFailed := true } })
      else failureNoted status s := by
  have hwrites : ¬ (s.granary.walked = false ∨ (s.power.pfail = true ∧ s.power.lastSeal = false) ∨
      s.power.inReset = true ∨ emmcBusy s = true) := by
    rcases hseal with h | h <;> simp [hwalked, hreset, hbusy, h]
  have hfit : logUsed (finishSeal s) + (r.body.length + 4096) ≤ (finishSeal s).granary.capacity := by
    simpa only [logUsed, finishSeal_granary] using hfits
  obtain ⟨p, hp⟩ := finishSeal_eq s
  unfold persist
  rw [hclosed]
  refine (if_neg hwrites).trans ?_
  extract_lets +onlyGivenNames need u v
  have hv : v = { s with power := p } := by
    unfold v u need
    rw [overwriteOldest_fits hfit, ite_self, hp]
  clear_value v
  subst hv
  refine (if_neg (Nat.not_lt.mpr hfits)).trans (if_congr Iff.rfl ?_ ?_)
  · rw [accepted, hp]
    exact congrArg (postEvent _ _) (if_congr decide_eq_true_iff rfl rfl)
  · extract_lets +onlyGivenNames f held once noted
    have honce : once = failedOnce s := by unfold failedOnce; rw [hp]
    have hnoted : noted = failureNoted status s := by unfold noted; rw [honce]; rfl
    rw [hnoted]
    rfl

/-- A write that matches before a second failure is accepted (R261). -/
theorem persist_matching (hf : s.granary.failures < 2) (status : Word) : persist true false status s =
    postEvent 0x0E04 (BitVec.ofNat 64 s.granary.nextNo) (accepted r rest s) := by
  rw [persist_fitting hclosed hwalked hseal hreset hbusy hfits, if_pos ⟨rfl, rfl⟩, if_neg (Nat.not_le.mpr hf)]

/-- A write that matches after two failures or more is reported as stored after retry (R261). -/
theorem persist_recovering (hf : 2 ≤ s.granary.failures) (status : Word) : persist true false status s =
    postEvent 0x0E04 (BitVec.ofNat 64 s.granary.nextNo) (tally 0x0904 (storeDetail 2 status s) (accepted r rest s)) := by
  rw [persist_fitting hclosed hwalked hseal hreset hbusy hfits, if_pos ⟨rfl, rfl⟩, if_pos hf]

/-- Neither of the first two mismatches alone takes the eMMC out of service (R261). -/
theorem persist_mismatching (hf : s.granary.failures < 2) (status : Word) :
    persist false false status s = failureNoted status s := by
  have hfew : ¬ ((s.granary.failures + 1 = 8 ∨ false = true) ∧ (failureNoted status s).granary.slow = false) :=
    fun h => h.1.elim (by omega) nofun
  rw [persist_fitting hclosed hwalked hseal hreset hbusy hfits, if_neg nofun, if_neg hfew]

/-- An eMMC controller error at the first write takes the eMMC out of service (R261). -/
theorem persist_deviceError (hf : s.granary.failures = 0) (hslow : s.granary.slow = false) (status : Word) :
    persist true true status s = sticky 2 4 (tally 0x0904 (storeDetail 1 status s)
      { failedOnce s with
        granary := { (failedOnce s).granary with slow := true }, store := { s.store with emmcFailed := true } }) := by
  have hfirst : failureNoted status s = failedOnce s := if_neg (by omega)
  rw [persist_fitting hclosed hwalked hseal hreset hbusy hfits, if_neg nofun, hfirst, if_pos ⟨.inr rfl, hslow⟩]
  simp only [failedOnce, finishSeal_store]

end

/-- Under PFAIL_N no write follows the seal that was in progress (R266). -/
theorem persist_sealed {s : State} (hpfail : s.power.pfail = true) (hseal : s.power.lastSeal = false)
    (ok deviceError : Bool) (status : Word) : persist ok deviceError status s = s := by
  unfold persist
  split
  · rfl
  · exact if_pos (.inr (.inl ⟨hpfail, hseal⟩))

theorem retryStore_early {s : State} (h : s.granary.failures < 2) (ok deviceError : Bool) (status : Word) :
    retryStore ok deviceError status s = s := if_pos h

theorem retryStore_due {s : State} (h : 2 ≤ s.granary.failures) (ok deviceError : Bool) (status : Word) :
    retryStore ok deviceError status s = persist ok deviceError status s := if_neg (Nat.not_lt.mpr h)

theorem retryStore_sealed {s : State} (hpfail : s.power.pfail = true) (hseal : s.power.lastSeal = false)
    (ok deviceError : Bool) (status : Word) : retryStore ok deviceError status s = s := by
  rcases Nat.lt_or_ge s.granary.failures 2 with h | h
  · exact retryStore_early h _ _ _
  · exact (retryStore_due h _ _ _).trans (persist_sealed hpfail hseal _ _ _)

/-- The walk keeps the records up to the first whose seal is not the one expected there (R262). -/
theorem walkFrom_eq_take (s : State) (no : Nat) (l : List Stored) : ∃ n, walkFrom s no l = l.take n ∧
    (∀ i < n, ∀ r, l[i]? = some r → sealGood s (no + i) r = true) ∧
    (∀ r, l[n]? = some r → sealGood s (no + n) r = false) := by
  induction l generalizing no with
  | nil => exact ⟨0, rfl, nofun, nofun⟩
  | cons x rest ih =>
    by_cases hx : sealGood s no x = true
    · obtain ⟨n, htake, hgood, hbad⟩ := ih (no + 1)
      refine ⟨n + 1, by rw [walkFrom, if_pos hx, htake, List.take_succ_cons], fun i hi r hr => ?_, fun r hr => ?_⟩
      · cases i with
        | zero => exact Option.some.inj hr ▸ hx
        | succ i =>
          rw [Nat.add_comm i, ← Nat.add_assoc]
          exact hgood i (by omega) r hr
      · rw [Nat.add_comm n, ← Nat.add_assoc]
        exact hbad r hr
    · exact ⟨0, by rw [walkFrom, if_neg hx, List.take_zero], nofun,
        fun r hr => Option.some.inj hr ▸ Bool.eq_false_of_not_eq_true hx⟩

/-- Settles O53: a fitting record's write by its outcome, the seal under PFAIL_N, and the walk by induction on the log. -/
theorem recordsArePersisted : Obligations.RecordsArePersisted := by
  refine ⟨fun r rest w s hclosed hwalked hseal hreset hbusy hfits => ?_, fun a b w s hpfail hseal => ?_, fun s => ?_⟩
  · have next {t u : State} (h : t = u) : Host.Outcome.next (φ := Fault) (ρ := Refusal) t = .next u := congrArg _ h
    refine ⟨fun hf => ⟨?_, fun b => ?_, ?_, fun hnone hslow => ?_⟩, fun hf => ?_⟩
    · exact next (persist_matching hclosed hwalked hseal hreset hbusy hfits hf w)
    · exact next (retryStore_early hf b false w)
    · refine next ((persist_mismatching hclosed hwalked hseal hreset hbusy hfits hf w).trans ?_)
      exact if_congr (Nat.add_left_inj (n := 1)) rfl rfl
    · exact next (persist_deviceError hclosed hwalked hseal hreset hbusy hfits hnone hslow w)
    · exact next ((retryStore_due hf true false w).trans
        (persist_recovering hclosed hwalked hseal hreset hbusy hfits hf w))
  · exact ⟨congrArg Host.Outcome.next (persist_sealed hpfail hseal a b w),
      congrArg Host.Outcome.next (retryStore_sealed hpfail hseal a b w)⟩
  · refine ⟨fun h => congrArg Host.Outcome.next (if_pos h), fun h => ?_, walkFrom_eq_take s _ _⟩
    exact congrArg Host.Outcome.next (if_neg (by simp [h]))

end Sys2Proof.Machine.GranaryProofs
end

section
/-!
SUPPORT. Sticky bits, and what an uncorrectable DDR error spares (11_granary_winnow.md R249; 12_tally.md R281, R282).
-/
namespace Sys2Proof.Machine.GranaryProofs
open Sys2Proof.Machine.SheafProofs

theorem bit_setBit_of_bit {w : Word} {j : Nat} (i : Nat) (h : bit w j = true) : bit (setBit w i) j = true := by
  simp [bit, setBit, BitVec.toNat_or, Nat.testBit_or, show w.toNat.testBit j = true from h]

theorem bit_setBit_self (w : Word) {i : Nat} (h : i < 32) : bit (setBit w i) i = true := by
  have htwo : (2 ^ i % 2 ^ 32).testBit i = true := by
    rw [Nat.testBit_mod_two_pow, Nat.testBit_two_pow_self]
    simpa using h
  rw [bit, setBit, BitVec.toNat_or, Nat.testBit_or, BitVec.toNat_ofNat, htwo, Bool.or_true]

theorem regAt_modAt (f : Word → Word) (i j : Nat) (ws : List Word) :
    regAt (modAt f i ws) j = if i = j ∧ j < ws.length then f (regAt ws j) else regAt ws j := by
  induction ws generalizing i j with
  | nil => rw [if_neg (by simp)]; cases i <;> rfl
  | cons w ws ih =>
    cases i with
    | zero =>
      cases j with
      | zero => exact (if_pos ⟨rfl, Nat.succ_pos _⟩).symm
      | succ j => exact (if_neg (fun h => absurd h.1 nofun)).symm
    | succ i =>
      cases j with
      | zero => exact (if_neg (fun h => absurd h.1 nofun)).symm
      | succ j =>
        refine (ih i j).trans (if_congr ?_ rfl rfl)
        simp

/-- No bit that waits for its boundary is lost where another is set (R281). -/
theorem bit_modAt_setBit {ws : List Word} {q a : Nat} (r b : Nat) (h : bit (regAt ws q) a = true) :
    bit (regAt (modAt (fun w => setBit w b) r ws) q) a = true := by
  rw [regAt_modAt]
  split
  · exact bit_setBit_of_bit b h
  · exact h

theorem sticky_raises {q a : Nat} (r b : Nat) {s : State} (h : bit (regAt s.stk.sets q) a = true) :
    bit (regAt (sticky r b s).stk.sets q) a = true := by
  unfold sticky
  split
  · exact bit_modAt_setBit r b h
  · split
    · split
      · exact bit_modAt_setBit r b h
      · exact h
    · exact h

@[simp] theorem sticky_cnt (r b : Nat) (s : State) : (sticky r b s).cnt = s.cnt := by
  have h := congrArg State.cnt (sticky_spec r b s)
  exact h

theorem dropEvent_raises {q a : Nat} {s : State} (h : bit (regAt s.stk.sets q) a = true) :
    bit (regAt (dropEvent s).stk.sets q) a = true := by
  unfold dropEvent
  extract_lets d sh d' s1
  split
  · exact sticky_raises 2 8 h
  · exact h

theorem tally_raises {q a : Nat} (event : Half) (detail : List Quad) {s : State} (h : bit (regAt s.stk.sets q) a = true) :
    bit (regAt (tally event detail s).stk.sets q) a = true := by
  unfold tally
  split
  · exact dropEvent_raises h
  · exact h

/-- A dropped event counts in CNT_TALLY_DROP alone (R275). -/
theorem dropEvent_cnt {i : Nat} (hi : i ≠ 183) (s : State) :
    FMap.get (dropEvent s).cnt 0 i = FMap.get s.cnt 0 i := by
  have hcount (u : State) : FMap.get (count 183 1 u).cnt 0 i = FMap.get u.cnt 0 i :=
    ((count_spec 183 1 u).1 i).trans (if_neg hi)
  unfold dropEvent
  extract_lets d sh d'
  split
  · rw [sticky_cnt]
    exact hcount _
  · exact hcount _

theorem tally_cnt {i : Nat} (hi : i ≠ 183) (event : Half) (detail : List Quad) (s : State) :
    FMap.get (tally event detail s).cnt 0 i = FMap.get s.cnt 0 i := by
  unfold tally
  split
  · exact dropEvent_cnt hi s
  · rfl

/-- What stands apart from the records in DDR: the rest of the engine, the records on eMMC and their numbers. -/
def unheld (s : State) : Standing :=
  { standing s with granary := { s.granary with opened := [], closed := [], failures := 0 } }

theorem unheld_of_standing {s t : State} (h : standing t = standing s) : unheld t = unheld s :=
  congrArg (fun x : Standing =>
    { x with granary := { x.granary with opened := [], closed := [], failures := 0 } }) h

def openNos (s : State) : List Nat := (holders s).map (fun r => r.openNo)

/-- From s to t the engine stands as it did, no record came to those in DDR, no uncorrectable error was counted, and no waiting
sticky bit was lost: some of the records left, were closed or were reserved anew. -/
structure Spares (s t : State) : Prop where
  rest : unheld t = unheld s
  held : openNos t ⊆ openNos s
  counted : FMap.get t.cnt 0 186 = FMap.get s.cnt 0 186
  raised : ∀ q a, bit (regAt s.stk.sets q) a = true → bit (regAt t.stk.sets q) a = true

theorem Spares.refl (s : State) : Spares s s := ⟨rfl, List.Subset.refl _, rfl, fun _ _ h => h⟩

theorem Spares.trans {s t u : State} (h : Spares s t) (h' : Spares t u) : Spares s u :=
  ⟨h'.rest.trans h.rest, List.Subset.trans h'.held h.held, h'.counted.trans h.counted,
    fun q a hb => h'.raised q a (h.raised q a hb)⟩

theorem Spares.foldl {α : Type} {f : State → α → State} (h : ∀ s a, Spares s (f s a)) (l : List α) (s : State) :
    Spares s (l.foldl f s) := by
  induction l generalizing s with
  | nil => exact .refl s
  | cons a l ih => exact (h s a).trans (ih _)

/-- Records that leave, or stay under their numbers. -/
theorem spares_records {s : State} {opened closed : List Rec} (failures : Nat)
    (h : (opened ++ closed).map (fun r => r.openNo) ⊆ openNos s) :
    Spares s { s with granary := { s.granary with opened := opened, closed := closed, failures := failures } } :=
  ⟨rfl, h, rfl, fun _ _ hb => hb⟩

theorem openNos_of_standing {s t : State} (h : standing t = standing s) : openNos t = openNos s :=
  congrArg (fun x : Standing => (x.granary.opened ++ x.granary.closed).map (fun r : Rec => r.openNo)) h

/-- A step that leaves all that stands as it is, and reports. -/
theorem Spares.of_standing {s t : State} (h : standing t = standing s)
    (hcount : FMap.get t.cnt 0 186 = FMap.get s.cnt 0 186)
    (hraise : ∀ q a, bit (regAt s.stk.sets q) a = true → bit (regAt t.stk.sets q) a = true) : Spares s t :=
  ⟨unheld_of_standing h, fun _ hn => openNos_of_standing h ▸ hn, hcount, hraise⟩

/-- One report: an event, one more in a counter, a sticky bit (R248). -/
def report (r b i : Nat) (event : Half) (detail : List Quad) (s : State) : State :=
  sticky r b (count i 1 (tally event detail s))

theorem standing_report (r b i : Nat) (event : Half) (detail : List Quad) (s : State) :
    standing (report r b i event detail s) = standing s :=
  (standing_sticky _ _ _).trans ((standing_count _ _ _).trans (standing_tally _ _ _))

theorem spares_report (r b : Nat) {i : Nat} (hi : 186 ≠ i) (event : Half) (detail : List Quad) (s : State) :
    Spares s (report r b i event detail s) := by
  refine .of_standing (standing_report r b i event detail s) ?_ fun q a h => sticky_raises r b (tally_raises event detail h)
  rw [report, sticky_cnt]
  exact (((count_spec i 1 _).1 186).trans (if_neg hi)).trans (tally_cnt (by decide) event detail s)

theorem spares_reportTruncated (r : Rec) (s : State) : Spares s (reportTruncated r s) :=
  spares_report 2 2 (i := 180) (by decide) _ _ s

theorem standing_reportLost (cause trig why : Nat) (s : State) : standing (reportLost cause trig why s) = standing s :=
  standing_report 2 11 181 _ _ s

theorem spares_reportLost (cause trig why : Nat) (s : State) : Spares s (reportLost cause trig why s) :=
  spares_report 2 11 (i := 181) (by decide) _ _ s

theorem mem_closeInsert {x r : Rec} {l : List Rec} : x ∈ closeInsert r l ↔ x = r ∨ x ∈ l := by
  induction l with
  | nil => simp [closeInsert]
  | cons y l ih =>
    rw [closeInsert]
    split
    · exact List.mem_cons
    · rw [List.mem_cons, ih, List.mem_cons, or_left_comm]

theorem mem_closeInto {x r : Rec} {s : State} : x ∈ closeInto r s ↔ x = r ∨ x ∈ s.granary.closed := by
  unfold closeInto
  split
  · next y rest hclosed => rw [hclosed, List.mem_cons, mem_closeInsert, List.mem_cons, or_left_comm]
  · exact mem_closeInsert

theorem codeSegments_openNo (s : State) (m n : Nat) (r : Rec) : (codeSegments s m n r).openNo = r.openNo := by
  induction n generalizing r with
  | zero => rfl
  | succ n ih =>
    unfold codeSegments
    extract_lets i
    split
    · rfl
    · exact ih _

theorem openNo_mem_of_opened {r : Rec} {s : State} (h : r ∈ s.granary.opened) : r.openNo ∈ openNos s :=
  List.mem_map_of_mem (List.mem_append_left _ h)

theorem openNo_mem_of_closed {r : Rec} {s : State} (h : r ∈ s.granary.closed) : r.openNo ∈ openNos s :=
  List.mem_map_of_mem (List.mem_append_right _ h)

/-- Records enter the closed ones, and nothing else (R260). -/
theorem closeInto_foldl (l : List Rec) (s : State) : ∃ c,
    l.foldl (fun s r => { s with granary := { s.granary with closed := closeInto r s } }) s =
      { s with granary := { s.granary with closed := c } } ∧ ∀ r ∈ c, r ∈ l ∨ r ∈ s.granary.closed := by
  induction l generalizing s with
  | nil => exact ⟨s.granary.closed, rfl, fun _ => .inr⟩
  | cons a l ih =>
    obtain ⟨c, heq, hmem⟩ := ih { s with granary := { s.granary with closed := closeInto a s } }
    refine ⟨c, heq, fun r hr => ?_⟩
    rcases hmem r hr with hl | hc
    · exact .inl (List.mem_cons_of_mem _ hl)
    · rcases mem_closeInto.mp hc with rfl | hs
      · exact .inl List.mem_cons_self
      · exact .inr hs

theorem spares_closeRecords (p : Rec → Bool) (s : State) : Spares s (closeRecords p s) := by
  unfold closeRecords
  extract_lets out fin held s1
  obtain ⟨c, heq, hmem⟩ := closeInto_foldl fin s1
  rw [heq]
  refine spares_records s.granary.failures fun n hn => ?_
  obtain ⟨r, hr, rfl⟩ := List.mem_map.mp hn
  rcases List.mem_append.mp hr with hopen | hc
  · exact openNo_mem_of_opened (List.mem_of_mem_filter hopen)
  · rcases hmem r hc with hfin | hclosed
    · obtain ⟨r0, hr0, rfl⟩ := List.mem_map.mp hfin
      rw [codeSegments_openNo]
      exact openNo_mem_of_opened (r := r0) (List.mem_of_mem_filter hr0)
    · exact openNo_mem_of_closed hclosed

theorem spares_shrinkOpen (m n : Nat) (s : State) : Spares s (shrinkOpen m n s) := by
  induction n generalizing s with
  | zero => exact .refl s
  | succ n ih =>
    unfold shrinkOpen
    split
    · exact .refl s
    · split
      · exact .refl s
      · next r hr =>
        extract_lets last r' held s1
        have hmark : Spares s s1 := by
          refine spares_records s.granary.failures fun k hk => ?_
          have hnos : (s.granary.opened.map (fun x => if x.openNo = r.openNo then r' else x)).map (fun r => r.openNo) =
              s.granary.opened.map (fun r => r.openNo) := by
            rw [List.map_map]
            refine List.map_congr_left fun x _ => ?_
            by_cases hx : x.openNo = r.openNo
            · simp [hx, r']
            · simp [hx]
          rw [List.map_append, hnos, ← List.map_append] at hk
          exact hk
        exact hmark.trans ((spares_closeRecords _ _).trans ((spares_reportTruncated r' _).trans (ih _)))

/-- A pass over records that keeps each under its number. -/
theorem foldl_openNos {β : Type} (f : β × List Rec → Rec → β × List Rec)
    (h : ∀ st r, (f st r).2.map (fun r => r.openNo) = st.2.map (fun r => r.openNo) ++ [r.openNo]) (l : List Rec)
    (st : β × List Rec) :
    (l.foldl f st).2.map (fun r => r.openNo) = st.2.map (fun r => r.openNo) ++ l.map (fun r => r.openNo) := by
  induction l generalizing st with
  | nil => exact (List.append_nil _).symm
  | cons a l ih => rw [List.foldl_cons, ih, h, List.append_assoc, List.map_cons, List.singleton_append]

theorem spares_redraw (s : State) : Spares s (redraw s) := by
  unfold redraw
  extract_lets draw step a b
  have hstep (st : List (Nat × Nat) × List Rec) (r : Rec) :
      (step st r).2.map (fun r => r.openNo) = st.2.map (fun r => r.openNo) ++ [r.openNo] := List.map_append
  refine spares_records s.granary.failures fun n hn => ?_
  rw [List.map_append, foldl_openNos step hstep, foldl_openNos step hstep] at hn
  rw [openNos, holders, List.map_append]
  exact hn

/-- The state without the records that an error hit; the failures counted were those of the record in front (R249, R261). -/
def unhit (hit : List Nat) (s : State) : State :=
  { s with granary := { s.granary with
    opened := s.granary.opened.filter (fun r => !hit.contains r.openNo)
    closed := s.granary.closed.filter (fun r => !hit.contains r.openNo)
    failures := if (s.granary.closed.head?.map (fun r => hit.contains r.openNo)).getD false then 0
      else s.granary.failures } }

theorem dropHit_eq (hit : List Nat) (s : State) : dropHit hit s =
    ((holders s).filter (fun r => hit.contains r.openNo)).foldl (fun s r => reportLost r.cause r.triggerM 1 s)
      (unhit hit s) := rfl

theorem standing_dropHit (hit : List Nat) (s : State) : standing (dropHit hit s) = standing (unhit hit s) := by
  rw [dropHit_eq]
  exact foldl_keeps standing _ (fun s _ => standing_reportLost _ _ _ s) _ _

theorem spares_dropHit (hit : List Nat) (s : State) : Spares s (dropHit hit s) := by
  have hunhit : Spares s (unhit hit s) := by
    refine spares_records _ fun n hn => ?_
    rw [← List.filter_append] at hn
    obtain ⟨r, hr, rfl⟩ := List.mem_map.mp hn
    exact List.mem_map_of_mem (List.mem_of_mem_filter hr)
  rw [dropHit_eq]
  exact hunhit.trans (.foldl (fun s _ => spares_reportLost _ _ _ s) _ _)

theorem openNos_dropHit {hit : List Nat} {s : State} {n : Nat} (h : n ∈ openNos (dropHit hit s)) : n ∉ hit := by
  rw [openNos_of_standing (standing_dropHit hit s), openNos, holders, unhit, ← List.filter_append] at h
  obtain ⟨r, hr, rfl⟩ := List.mem_map.mp h
  simpa using (List.mem_filter.mp hr).2

/-- An uncorrectable error, counted, with its sticky bit, and the region that it leaves (R249, R282). -/
def uncorrectable (region : Option Nat) (s : State) : State :=
  { sticky 2 1 (count 186 1 s) with granary := { s.granary with shrunk := region } }

theorem uncorrectable_marks {s : State} (hrun : s.glb.running = true) (hlen : s.stk.sets.length = 4) :
    bit (regAt (sticky 2 1 (count 186 1 s)).stk.sets 2) 1 = true := by
  have hsets : (sticky 2 1 (count 186 1 s)).stk.sets = modAt (fun w => setBit w 1) 2 s.stk.sets :=
    congrArg Sticky.sets (sticky_running 2 1 (count 186 1 s) hrun)
  rw [hsets, regAt_modAt, if_pos ⟨rfl, by omega⟩]
  exact bit_setBit_self _ (by decide)

/-- What stands after an uncorrectable error that spares what it did not hit (R249, R282). -/
theorem uncorrectable_spares {region : Option Nat} {s t : State} (h : Spares (uncorrectable region s) t) :
    t.granary.shrunk = region ∧ t.granary.stored = s.granary.stored ∧ t.granary.nextNo = s.granary.nextNo ∧
      t.cfg = s.cfg ∧ t.zones = s.zones ∧ t.insts = s.insts ∧ t.logic = s.logic ∧ t.wires = s.wires ∧ t.pf0 = s.pf0 ∧
      t.pf1 = s.pf1 ∧ FMap.get t.cnt 0 186 = FMap.get s.cnt 0 186 + 1 ∧
      (s.glb.running = true → s.stk.sets.length = 4 → bit (regAt t.stk.sets 2) 1 = true) := by
  have hmark : standing (sticky 2 1 (count 186 1 s)) = standing s := standing_sticky _ _ _
  have hcount : FMap.get t.cnt 0 186 = FMap.get s.cnt 0 186 + 1 := by
    refine h.counted.trans ((congrArg (fun c => FMap.get c 0 186) (sticky_cnt 2 1 (count 186 1 s))).trans ?_)
    exact ((count_spec 186 1 s).1 186).trans (if_pos rfl)
  have part {α : Type} (f : Standing → α) : f (unheld t) = f (unheld (uncorrectable region s)) := congrArg f h.rest
  have same {α : Type} (f : Standing → α) : f (standing (sticky 2 1 (count 186 1 s))) = f (standing s) := congrArg f hmark
  exact ⟨part (fun x => x.granary.shrunk), part (fun x => x.granary.stored), part (fun x => x.granary.nextNo),
    (part Standing.cfg).trans (same Standing.cfg), (part Standing.zones).trans (same Standing.zones),
    (part Standing.insts).trans (same Standing.insts), (part Standing.logic).trans (same Standing.logic),
    (part Standing.wires).trans (same Standing.wires), (part Standing.pf0).trans (same Standing.pf0),
    (part Standing.pf1).trans (same Standing.pf1), hcount, fun hrun hlen => h.raised 2 1 (uncorrectable_marks hrun hlen)⟩

theorem ddrFault_unmapped (hit : List Nat) (s : State) :
    ddrFault false none hit s = dropHit hit (uncorrectable s.granary.shrunk s) := by
  have hgranary : (sticky 2 1 (count 186 1 s)).granary = s.granary :=
    congrArg Standing.granary (standing_sticky 2 1 (count 186 1 s))
  rw [uncorrectable, ← hgranary]
  rfl

theorem ddrFault_mapped (n : Nat) (hit : List Nat) (s : State) :
    Spares (dropHit hit (uncorrectable (some (min n (s.granary.shrunk.getD n))) s)) (ddrFault false (some n) hit s) := by
  have hgranary : (sticky 2 1 (count 186 1 s)).granary = s.granary :=
    congrArg Standing.granary (standing_sticky 2 1 (count 186 1 s))
  rw [uncorrectable, ← hgranary]
  exact (spares_shrinkOpen _ _ _).trans (spares_redraw _)

/-- Settles O54: the records that were hit leave first; what follows closes and reserves anew those that are left. -/
theorem ddrErrorsLoseOnlyHitRecords : Obligations.DdrErrorsLoseOnlyHitRecords := by
  refine fun n hit s => ⟨fun _ _ => rfl, ⟨_, congrArg Host.Outcome.next (ddrFault_unmapped hit s), ?_⟩, ⟨_, rfl, ?_⟩⟩
  · have hgranary := congrArg Standing.granary (standing_dropHit hit (uncorrectable s.granary.shrunk s))
    exact ⟨congrArg Granary.opened hgranary, congrArg Granary.closed hgranary,
      uncorrectable_spares (spares_dropHit hit _)⟩
  · have hlater := ddrFault_mapped n hit s
    obtain ⟨hregion, hrest⟩ := uncorrectable_spares ((spares_dropHit hit _).trans hlater)
    refine ⟨fun r hr => openNos_dropHit (hlater.held (List.mem_map_of_mem hr)),
      ⟨_, hregion, Nat.min_le_left _ _, fun k hk => ?_⟩, hrest⟩
    rw [hk]
    exact Nat.min_le_right _ _

end Sys2Proof.Machine.GranaryProofs
end

section
/-!
SUPPORT. W1C writes, and the writer of the Tally's entries (12_tally.md R276 to R281).
-/
namespace Sys2Proof.Machine.TallyProofs

/-- Settles O7: PF1's write meets no effect, and PF0's is stickyWrite's own two cases. -/
theorem stickyW1cIsPrivileged : Obligations.StickyW1cIsPrivileged := by
  refine fun n w s => ⟨congrArg Host.Outcome.next (ite_self s), fun hn hopen => ?_⟩
  show Host.Outcome.next (if barOpen s .pf0 = true then stickyWrite .pf0 n w s else s) = _
  rw [if_pos hopen, stickyWrite, if_neg (Nat.not_le.mpr hn)]

theorem fillStopped_live {s : State} (h : s.glb.gstate ≠ .halted) : fillStopped s = s := if_neg h

theorem dropSummary_noDrop {s : State} (h : s.tally.drops.count = 0) : dropSummary s = s := if_pos (.inl h)

/-- The supply state once the entry in progress is written (R278). -/
def powerAfterEntry (s : State) : Power := if s.power.pfail then { s.power with lastEntry := false } else s.power

theorem finishEntry_eq (s : State) : finishEntry s = { s with power := powerAfterEntry s } := by
  unfold finishEntry powerAfterEntry
  split <;> rfl

/-- The number after n is n + 1 where no STORE_FAILOVER entry has taken it (R279). -/
theorem nextNumber_fresh {log : List TallyEntry} {n : Quad} (h : ∀ t ∈ log, t.seq ≠ n + 1) :
    nextNumber log n = n + 1 := by
  rw [nextNumber, if_neg]
  simpa using h

theorem mem_insertEntry {t u : TallyEntry} {log : List TallyEntry} (h : t ∈ insertEntry u log) : t = u ∨ t ∈ log := by
  induction log with
  | nil => exact .inl (List.mem_singleton.mp h)
  | cons x log ih =>
    unfold insertEntry at h
    split at h
    · exact List.mem_cons.mp h
    · rcases List.mem_cons.mp h with rfl | h
      · exact .inr List.mem_cons_self
      · exact (ih h).imp id (List.mem_cons_of_mem x)

/-- The Tally with an entry in its log, marked where a single mirror holds it (R276, R279). -/
def logged (t : TallyEntry) (s : State) : Tally :=
  { s.tally with
    single := if s.store.norA && s.store.norB then s.tally.single else t.seq :: s.tally.single
    log := (insertEntry t s.tally.log).take tallyKept }

theorem logEntry_eq (e : TallyEvent) (seq : Quad) (eflags : Word) (s : State) :
    ∃ tr, logEntry e seq eflags s = { s with trace := tr, tally := logged ⟨e, seq, eflags, 0⟩ s } := ⟨_, rfl⟩

/-- An entry that is no STORE_FAILOVER takes the next number and leaves the queue (R276). -/
theorem acceptEntry_plain {e : TallyEvent} (rest : List TallyEvent) {s : State} (he : e.event ≠ evStoreFailover)
    (hfresh : ∀ t ∈ s.tally.log, t.seq ≠ s.tally.nextSeq + 1) :
    ∃ tr, acceptEntry e rest s = { s with
      trace := tr
      tally := { logged ⟨e, s.tally.nextSeq, 0, 0⟩ s with queue := rest, nextSeq := s.tally.nextSeq + 1 } } := by
  have hself : s.tally.nextSeq ≠ s.tally.nextSeq + 1 := by bv_omega
  have hnext : nextNumber (logged ⟨e, s.tally.nextSeq, 0, 0⟩ s).log s.tally.nextSeq = s.tally.nextSeq + 1 := by
    refine nextNumber_fresh fun t ht => ?_
    rcases mem_insertEntry (List.mem_of_mem_take ht) with rfl | h
    · exact hself
    · exact hfresh t h
  obtain ⟨tr, htr⟩ := logEntry_eq e s.tally.nextSeq 0 { s with tally := { s.tally with queue := rest } }
  refine ⟨tr, ?_⟩
  rw [acceptEntry, if_neg (fun h => he h.1), if_neg he, htr, ← hnext]
  rfl

/-- With no mirror in service the one entry that waits enters the ring (R280). -/
theorem ringFlush_single {e : TallyEvent} {s : State} (h : anyMirror s = false) (hq : s.tally.queue = [e])
    (he : e.filled = true) :
    ringFlush s.tally.queue.length s = ringEntry e { s with tally := { s.tally with queue := [] } } := by
  rw [hq, List.length_singleton, ringFlush, if_neg (by simp [h]), hq]
  exact if_pos he

/-- The ring keeps the newest 64 entries under rising numbers, and counts the one that it gives up (R280). -/
theorem ringEntry_eq (e : TallyEvent) (s : State) :
    ∃ c, ringEntry e s = { s with
      cnt := c
      tally := { s.tally with
        ring := (⟨e, 0xFFFFFFFFFFFFFFFF, 4, BitVec.ofNat 32 s.tally.nextRing⟩ :: s.tally.ring).take 64
        nextRing := s.tally.nextRing + 1 } } ∧ (s.tally.ring.length < 64 → c = s.cnt) := by
  by_cases h : 64 ≤ s.tally.ring.length
  · exact ⟨(count 183 1 s).cnt, by rw [ringEntry, if_pos h]; rfl, fun hl => absurd h (Nat.not_le.mpr hl)⟩
  · exact ⟨s.cnt, by rw [ringEntry, if_neg h], fun _ => rfl⟩

/-- The writer's act once the mirrors that failed are out of service (R276, R280). -/
def writeFront (s : State) : State :=
  if anyMirror s then
    match s.tally.queue with
    | [] => s
    | h :: rest => if h.filled then dropSummary (acceptEntry h rest s) else s
  else dropSummary (ringFlush s.tally.queue.length s)

/-- A new STORE_FAILOVER entry in front waits for its snapshot (R273, R279). -/
theorem writeFront_unfilled {h : TallyEvent} {rest : List TallyEvent} {s : State} (hany : anyMirror s = true)
    (hq : s.tally.queue = h :: rest) (hfilled : h.filled = false) : writeFront s = s := by
  simp only [writeFront, if_pos hany, hq, if_neg (Bool.eq_false_iff.mp hfilled)]

/-- With a mirror in service and no drop to report, the oldest entry is accepted (R275, R276). -/
theorem writeFront_mirrored {e : TallyEvent} {rest : List TallyEvent} {s : State} (hany : anyMirror s = true)
    (hq : s.tally.queue = e :: rest) (hfilled : e.filled = true) (hdrops : s.tally.drops.count = 0)
    (he : e.event ≠ evStoreFailover) (hfresh : ∀ t ∈ s.tally.log, t.seq ≠ s.tally.nextSeq + 1) :
    ∃ tr, writeFront s = { s with
      trace := tr
      tally := { logged ⟨e, s.tally.nextSeq, 0, 0⟩ s with queue := rest, nextSeq := s.tally.nextSeq + 1 } } := by
  obtain ⟨tr, htr⟩ := acceptEntry_plain rest he hfresh
  refine ⟨tr, ?_⟩
  simp only [writeFront, if_pos hany, hq, if_pos hfilled, htr]
  exact dropSummary_noDrop hdrops

/-- With no mirror in service and no drop to report, the one entry that waits enters the ring (R275, R280). -/
theorem writeFront_mirrorless {e : TallyEvent} {s : State} (hany : anyMirror s = false) (hq : s.tally.queue = [e])
    (hfilled : e.filled = true) (hdrops : s.tally.drops.count = 0) :
    writeFront s = ringEntry e { s with tally := { s.tally with queue := [] } } := by
  obtain ⟨c, hring, -⟩ := ringEntry_eq e { s with tally := { s.tally with queue := [] } }
  rw [writeFront, if_neg (Bool.eq_false_iff.mp hany), ringFlush_single hany hq hfilled, hring]
  exact dropSummary_noDrop hdrops

/-- Mirror A fails while B is in service (R279): its sticky bit waits for the boundary, and an unfilled STORE_FAILOVER
entry that names the number stands in front. -/
theorem retireMirrors_first {s : State} (ha : s.store.norA = true) (hb : s.store.norB = true)
    (hrun : s.glb.running = true) (n : Quad) :
    ∃ h : TallyEvent, h.event = evStoreFailover ∧ h.detail = [0, n] ∧ h.filled = false ∧
      retireMirrors true false n s = { s with
        store := { s.store with norA := false }
        stk := { s.stk with sets := modAt (fun w => setBit w 5) 2 s.stk.sets }
        tally := { s.tally with queue := h :: s.tally.queue } } := by
  have honly : retireMirrors true false n s = retireMirror false n s := rfl
  have hset : sticky 2 5 { s with store := { s.store with norA := false } } = { s with
      store := { s.store with norA := false }
      stk := { s.stk with sets := modAt (fun w => setBit w 5) 2 s.stk.sets } } := if_pos hrun
  rw [honly, retireMirror, if_neg (by simp [ha])]
  simp only [Bool.false_eq_true, if_false, hset]
  rw [if_pos (by simp [anyMirror, hb])]
  exact ⟨_, rfl, rfl, rfl, rfl⟩

section
variable {e : TallyEvent} {rest : List TallyEvent} {s : State} (hlive : s.glb.gstate ≠ .halted)
include hlive

theorem tallyWritten_empty (hq : s.tally.queue = []) (a b : Bool) : tallyWritten a b s = s := by
  simp only [tallyWritten, fillStopped_live hlive, hq]

theorem tallyWritten_barred (hq : s.tally.queue = e :: rest) (a b : Bool)
    (h : e.filled = false ∨ s.power.inReset = true ∨ (s.power.pfail = true ∧ s.power.lastEntry = false)) :
    tallyWritten a b s = s := by
  simp only [tallyWritten, fillStopped_live hlive, hq, if_pos h]

/-- A write that is not barred ends the entry in progress and retires the mirrors that failed (R276, R278, R279). -/
theorem tallyWritten_allowed (hq : s.tally.queue = e :: rest) (hfilled : e.filled = true)
    (hreset : s.power.inReset = false) (hpower : s.power.pfail = false ∨ s.power.lastEntry = true) (a b : Bool) :
    tallyWritten a b s = writeFront (retireMirrors a b s.tally.nextSeq { s with power := powerAfterEntry s }) := by
  have hnot : ¬ (e.filled = false ∨ s.power.inReset = true ∨ (s.power.pfail = true ∧ s.power.lastEntry = false)) := by
    rcases hpower with h | h <;> simp [hfilled, hreset, h]
  have hcore := core_retireMirrors a b s.tally.nextSeq { s with power := powerAfterEntry s }
  have hlive' : (retireMirrors a b s.tally.nextSeq { s with power := powerAfterEntry s }).glb.gstate ≠ .halted :=
    fun h => hlive ((congrArg Core.gstate hcore).symm.trans h)
  simp only [tallyWritten, fillStopped_live hlive, hq, if_neg hnot, finishEntry_eq, fillStopped_live hlive']
  rfl

end

/-- Settles O49: a write that is not barred acts by the mirrors that it leaves in service. That the log keeps its
newest entries only, and that one entry is in progress under PFAIL_N, are the model's choices (logs 32 and 77). -/
theorem tallyEntriesAreAccepted : Obligations.TallyEntriesAreAccepted := by
  intro e rest s hlive
  refine ⟨fun a b hq => congrArg Host.Outcome.next (tallyWritten_empty hlive hq a b), fun hq =>
    ⟨fun a b h => congrArg Host.Outcome.next (tallyWritten_barred hlive hq a b h), fun hfilled hreset hpower => ?_⟩⟩
  have hwrite := tallyWritten_allowed hlive hq hfilled hreset hpower
  refine ⟨fun hany he hfresh hdrops => ?_, fun ha hb hrun hdrops => ?_, fun hany hrest hdrops => ?_⟩
  · obtain ⟨tr, htr⟩ := writeFront_mirrored (s := { s with power := powerAfterEntry s }) hany hq hfilled hdrops he hfresh
    exact ⟨_, congrArg Host.Outcome.next ((hwrite false false).trans htr), rfl⟩
  · obtain ⟨h, hevent, hdetail, hun, hretire⟩ :=
      retireMirrors_first (s := { s with power := powerAfterEntry s }) ha hb hrun s.tally.nextSeq
    refine ⟨h, congrArg Host.Outcome.next ((hwrite true false).trans ?_), hevent, hdetail, hun⟩
    rw [hretire, writeFront_unfilled (by simp [anyMirror, hb]) rfl hun, hq]
    rfl
  · subst hrest
    have hring := writeFront_mirrorless (s := { s with power := powerAfterEntry s }) hany hq hfilled hdrops
    obtain ⟨c, hc, hcnt⟩ :=
      ringEntry_eq e { s with power := powerAfterEntry s, tally := { s.tally with queue := [] } }
    refine ⟨_, congrArg Host.Outcome.next ((hwrite false false).trans (hring.trans hc)), ?_⟩
    exact ⟨rfl, rfl, rfl, rfl, rfl, rfl, hcnt⟩

end Sys2Proof.Machine.TallyProofs
end

section
/-!
SUPPORT. What STK0 to STK3 read stays as it is until the next boundary: the shared operations (12_tally.md R281, R282).
-/
namespace Sys2Proof.Machine.TallyProofs
open Sys2Proof.Machine.SheafProofs

/-- A register list that counts where boundaries run. -/
def whileRunning (running : Bool) (regs : List Word) : Option (List Word) := if running then some regs else none

/-- What STK0 to STK3 read where boundaries run, none where a set is readable at once (R281, R282). No operation of a
boundary after stickyCommit changes it: a lemma visible_<operation> for each carries it to the boundary's end. -/
def visible (s : State) : Option (List Word) := whileRunning s.glb.running s.stk.regs

theorem regs_of_visible {s : State} {regs : List Word} (h : visible s = some regs) : s.stk.regs = regs := by
  unfold visible whileRunning at h
  split at h
  · exact Option.some.inj h
  · cases h

/-- An operation that touches neither the engine's own registers nor the sticky record changes nothing here. -/
theorem visible_congr {s t : State} (hglb : t.glb = s.glb) (hstk : t.stk = s.stk) : visible t = visible s := by
  rw [visible, visible, hglb, hstk]

@[simp] theorem visible_fields (s : State) : whileRunning s.glb.running s.stk.regs = visible s := by rw [visible]

@[simp] theorem visible_mk {pending pf0 pf1 bells glb stk cnt cfg samp ing tb ldf dovetail zones tenon insts results}
    {logic wires bi thr lanes pair tally granary bist dumpDdr dumpEmmc dumpBusy zst zstHidden dumpNo trust store power}
    {trace sent mem} :
    visible (.mk pending pf0 pf1 bells glb stk cnt cfg samp ing tb ldf dovetail zones tenon insts results logic wires bi
      thr lanes pair tally granary bist dumpDdr dumpEmmc dumpBusy zst zstHidden dumpNo trust store power trace sent mem) =
      whileRunning glb.running stk.regs := by rw [visible]

@[simp] theorem visible_ite (c : Prop) [Decidable c] (s t : State) :
    visible (if c then s else t) = if c then visible s else visible t := apply_ite visible c s t

@[simp] theorem visible_foldl {α : Type} {f : State → α → State} (h : ∀ s a, visible (f s a) = visible s) (l : List α)
    (s : State) : visible (l.foldl f s) = visible s := foldl_keeps visible f h l s

/-- The same where the fold carries other values with the state. -/
theorem visible_foldl_of {α σ : Type} (st : σ → State) {f : σ → α → σ} (h : ∀ x a, visible (st (f x a)) = visible (st x))
    (l : List α) (x : σ) : visible (st (l.foldl f x)) = visible (st x) := by
  induction l generalizing x with
  | nil => rfl
  | cons a l ih => exact (ih _).trans (h x a)

section
variable (n : Nat) (v : View) (s : State)

@[simp] theorem visible_count (i : Nat) : visible (count i n s) = visible s := visible_congr rfl rfl
@[simp] theorem visible_takeChanges (p : Pending → Bool) : visible (takeChanges p s).2 = visible s :=
  visible_congr rfl rfl
@[simp] theorem visible_setZone (x : Zone) : visible (setZone n x s) = visible s := visible_congr rfl rfl
@[simp] theorem visible_setPair (x : BiPair) : visible (setPair n x s) = visible s := visible_congr rfl rfl
@[simp] theorem visible_biLog (m : Nat) (b : Bool) : visible (biLog m n b s) = visible s := visible_congr rfl rfl
@[simp] theorem visible_setLane (x : LaneState) : visible (setLane n x s) = visible s := visible_congr rfl rfl
@[simp] theorem visible_setPosition (o : Option Nat) : visible (setPosition n o s) = visible s := visible_congr rfl rfl
@[simp] theorem visible_setGroup (x : CalGroup) : visible (setGroup n x s) = visible s := visible_congr rfl rfl
@[simp] theorem visible_setHead (r : BistRun) : visible (setHead r s) = visible s := visible_congr rfl rfl
@[simp] theorem visible_zeroSecrets : visible (zeroSecrets s) = visible s := visible_congr rfl rfl
@[simp] theorem visible_releaseWires : visible (releaseWires s) = visible s := visible_congr rfl rfl
@[simp] theorem visible_setView (x : ViewState) : visible (s.setView v x) = visible s := by
  cases v <;> exact visible_congr rfl rfl

/-- A set waits for the boundary (R281), or no boundary runs. -/
@[simp] theorem visible_sticky (r b : Nat) : visible (sticky r b s) = visible s := by
  have hrun : (sticky r b s).glb.running = s.glb.running := congrArg Core.running (core_sticky r b s)
  by_cases h : s.glb.running = true
  · rw [visible, hrun, sticky_running r b s h]
    rfl
  · rw [visible, visible, hrun, whileRunning, whileRunning, if_neg h, if_neg h]

@[simp] theorem visible_dropEvent : visible (dropEvent s) = visible s := by simp [dropEvent]

@[simp] theorem visible_tally (event : Half) (detail : List Quad) : visible (tally event detail s) = visible s := by
  simp [tally]

@[simp] theorem visible_postEvent (code : Half) (arg : Quad) : visible (postEvent code arg s) = visible s := by
  simp [postEvent]

@[simp] theorem visible_withRole (f : State → State) : visible (withRole f s) = visible (f s) := by simp [withRole]

end

section
variable (v : View) (e : Inflight) (status : Half) (result : List Byte) (s : State)

@[simp] theorem visible_postCompletion (slot : Nat) (host engine : Quad) (cflags : Half) :
    visible (postCompletion v slot host status cflags engine result s) = visible s := by
  simp [postCompletion, traceMsg]

@[simp] theorem visible_setStage (x : Stage) : visible (setStage v e x s) = visible s := by simp [setStage]

@[simp] theorem visible_finish (cflags : Half) : visible (finish v e status cflags result s) = visible s := by
  simp [finish, dropInflight, journalDone]

@[simp] theorem visible_complete (cflags : Half) : visible (complete v e status cflags result s) = visible s := by
  simp [complete]

@[simp] theorem visible_answer : visible (answer v e status s) = visible s := by simp [answer]

@[simp] theorem visible_answerChange (p : Pending) : visible (answerChange p result s) = visible s := by
  unfold answerChange
  extract_lets
  split
  · exact visible_complete _ _ _ _ _ _
  · rfl

@[simp] theorem visible_answerSwap : visible (answerSwap status result s) = visible s := by simp [answerSwap]

end

end Sys2Proof.Machine.TallyProofs
end

section
/-!
SUPPORT. What STK0 to STK3 read stays as it is: lane results, zones, gates, messages sent (R25, R33, R81).
-/
namespace Sys2Proof.Machine.TallyProofs
open Sys2Proof.Machine.SheafProofs

section
variable (k n : Nat) (s : State)

@[simp] theorem visible_queueLaunch (x : TxKind) (t : Time) (h : EthHead) (d : TxData) (c : Option Rct) :
    visible (queueLaunch n x t h d c s) = visible s := by simp [queueLaunch, setPort]

@[simp] theorem visible_ldfBuild (ws : List Word) : visible (ldfBuild n ws k s) = visible s := by simp [ldfBuild, setLdf]

theorem visible_ldfBoundary : visible (ldfBoundary k s) = visible s := by simp [ldfBoundary, setLdf]

@[simp] theorem visible_makeSuspect (x : Suspect) : visible (makeSuspect x s) = visible s := by simp [makeSuspect]

@[simp] theorem visible_missPosition : visible (missPosition n s) = visible s := visible_congr rfl rfl

@[simp] theorem visible_holdSegments : visible (holdSegments n s) = visible s := by simp [holdSegments]

@[simp] theorem visible_overrun (z : Nat) : visible (overrun k n z s) = visible s := by simp [overrun]

theorem visible_laneCheck : visible (laneCheck k s).2 = visible s := by
  unfold laneCheck
  split
  · rfl
  · simp

theorem visible_publishCycle : visible (publishCycle s) = visible s := by
  unfold publishCycle
  split <;> rfl

theorem visible_endCycle : visible (endCycle k s).2 = visible s := by
  unfold endCycle
  dsimp only
  split
  · simp
  · split <;> simp [visible_publishCycle]

theorem visible_applyResults (f : LaneFindings) : visible (applyResults f s) = visible s := by
  simp only [applyResults, visible_mk, visible_fields]
  refine (visible_foldl (fun t z => ?_) _ _).trans (visible_foldl (fun _ _ => visible_setZone _ _ _) _ _)
  split <;> simp

theorem visible_imageCycle : visible (imageCycle s) = visible s := visible_congr rfl rfl

theorem visible_publishSheaf (f : LaneFindings) : visible (publishSheaf k f s) = visible s := by
  unfold publishSheaf
  dsimp only
  split
  · simp [visible_applyResults]
  · simp [visible_applyResults, visible_endCycle, visible_imageCycle]

theorem visible_gateWire (b : Bool) : visible (gateWire k n b s) = visible s := by simp [gateWire, setWire]

theorem visible_gateAll : visible (gateAll k s) = visible s := by
  simp [gateAll, gatesWith, visible_gateWire, zoneTrips]

theorem visible_queueBoth (p : Option Package) (x : TxKind) (t : Time) (h : EthHead) (a : Nat) (b : Bool)
    (m : GooseMsg) : visible (queueBoth p n x t h a b m s) = visible s := by
  unfold queueBoth
  split <;> simp [takePrpSeq, setPort]

@[simp] theorem visible_queueGoose (ws : List Word) (t : Time) (l : List (Word × Half)) (x : GoosePub) :
    visible (queueGoose n ws t k l x s) = visible s := by simp [queueGoose, visible_queueBoth, setPub]

theorem visible_publishGoose : visible (publishGoose k s) = visible s := by
  simp [publishGoose, publishAll, publishBoundary]

end

end Sys2Proof.Machine.TallyProofs
end

section
/-!
SUPPORT. What STK0 to STK3 read stays as it is: Thresher and its records (R225, R241 to R249).
-/
namespace Sys2Proof.Machine.TallyProofs
open Sys2Proof.Machine.SheafProofs

section
variable (k m : Nat) (s : State)

@[simp] theorem visible_closeRecords (p : Rec → Bool) : visible (closeRecords p s) = visible s := by simp [closeRecords]

@[simp] theorem visible_reserve (r : Rec) : visible (reserve r s).2 = visible s := by
  unfold reserve
  extract_lets
  split
  · rfl
  · split
    · simp [reportLost]
    · simp [reportTruncated]

theorem visible_extendRecord (r : Rec) (post : Nat) : visible (extendRecord r post m s) = visible s := by
  unfold extendRecord
  extract_lets limit want new r1 r2 moved put g
  have hput (x : Rec) (t : State) : visible (put x t) = visible t := visible_congr rfl rfl
  split
  · exact hput _ _
  · split
    · exact (hput _ _).trans (visible_reserve _ _)
    · exact hput _ _

theorem visible_openGroup (t : Nat) (l : List Fire) : visible (openGroup k m t l s) = visible s := by
  unfold openGroup
  dsimp only
  split
  · simp
  · split <;> simp

theorem visible_resolveFires : visible (resolveFires k m s).2 = visible s := by
  unfold resolveFires
  extract_lets fires thr sent start taken
  have hsent : visible sent = visible s := by simp [sent, sendCross]
  have htaken : visible taken.2.2 = visible sent := by
    refine visible_foldl_of (fun x : List Fire × List (Fire × FireResult) × State => x.2.2) (fun x f => ?_) _ _
    dsimp only
    split
    · rfl
    · split <;> simp [visible_extendRecord]
  clear_value taken
  exact (visible_foldl_of Prod.snd (fun x t => visible_openGroup _ _ _ _ _) _ _).trans (htaken.trans hsent)

theorem visible_stepProgram (ws : List Word) (p : Nat) : visible (stepProgram p ws m s) = visible s := by
  simp [stepProgram, setTrig]

@[simp] theorem visible_stepSample : visible (stepSample k m s).2 = visible s := by
  simp [stepSample, closeByMasks, visible_resolveFires, visible_stepProgram]

theorem visible_thresherSheaf (l : List Nat) : visible (thresherSheaf k l s).2 = visible s := by
  simp [thresherSheaf, noteFacts, notePoints]

theorem visible_runThresher : visible (runThresher k s) = visible s := by
  simp [runThresher, visible_thresherSheaf]

theorem visible_thresherLater : visible (thresherLater k s).1 = visible s := by
  simp [thresherLater, visible_runThresher]

/-- What Thresher counts and reports is put in after the copies of C_k (R225, R273). -/
theorem visible_laterOf (t : State) : visible ((thresherLater k s).2 t) = visible t := by
  simp [thresherLater]

end

end Sys2Proof.Machine.TallyProofs
end

section
/-!
SUPPORT. What STK0 to STK3 read stays as it is: lanes, converters, self-test at a boundary (R31, R286 to R288, R312).
-/
namespace Sys2Proof.Machine.TallyProofs
open Sys2Proof.Machine.SheafProofs

section
variable (k n : Nat) (s : State)

@[simp] theorem visible_retireServing (p c : Nat) : visible (retireServing k n p c s) = visible s := by
  simp [retireServing, markPosition]

theorem visible_suspectOutcome (x : Suspect) (a b : Bool) : visible (suspectOutcome k x n a b s) = visible s := by
  unfold suspectOutcome
  dsimp only
  split <;> simp

theorem visible_recallOutcome (x : Suspect) (b : Bool) : visible (recallOutcome k x b s) = visible s := by
  simp [recallOutcome, markPosition]

theorem visible_decideSuspect (l : List Nat) (b : Bool) (o : Option Nat) (x : Suspect) :
    visible (decideSuspect k l b o s x) = visible s := by
  unfold decideSuspect
  split
  · simp [visible_recallOutcome]
  · dsimp only
    split <;> simp [visible_suspectOutcome]

theorem visible_laneBoundary (l : List Nat) (b : Bool) (f : LaneFindings) :
    visible (laneBoundary k l b f s) = visible s := by
  unfold laneBoundary
  extract_lets _ checked due _ waiting decided retired _ emptied
  have hchecked : visible checked = visible s := by
    unfold checked
    split
    · simp
    · rfl
  have hwaiting : visible waiting = visible checked := visible_congr rfl rfl
  have hdecided : visible decided = visible waiting := visible_foldl (fun t x => visible_decideSuspect k t l b _ x) _ _
  have hretired : visible retired = visible decided := by
    refine visible_foldl (fun t r => ?_) _ _
    split <;> simp
  have hemptied : visible emptied = visible retired := visible_congr rfl rfl
  clear_value emptied
  simp [hemptied, hretired, hdecided, hwaiting, hchecked]

@[simp] theorem visible_setSlice (x : Slice) : visible (setSlice n x s) = visible s := visible_congr rfl rfl

@[simp] theorem visible_setChannel (x : Channel) : visible (setChannel n x s) = visible s := visible_congr rfl rfl

theorem visible_applyFixes : visible (applyFixes k s) = visible s := by simp [applyFixes, applyFix]

theorem visible_gleanerStep : visible (gleanerStep n s) = visible s := by
  unfold gleanerStep
  extract_lets +onlyGivenNames x subj spare
  clear_value x subj spare
  split
  · rfl
  · split
    · rfl
    · dsimp only
      split
      · simp
      · split
        · rw [visible_setGroup]
          split <;> simp
        · simp

theorem visible_gleanerBoundary : visible (gleanerBoundary s) = visible s := by
  simp [gleanerBoundary, visible_gleanerStep]

theorem visible_answerRun (r : BistRun) (x : Half) (l : List Byte) : visible (answerRun r x l s) = visible s := by
  unfold answerRun
  split <;> simp

@[simp] theorem visible_bistHead : visible (bistHead n s) = visible s := by
  induction n generalizing s with
  | zero => rfl
  | succ n ih =>
    unfold bistHead
    split
    · rfl
    · simp [ih, visible_answerRun, dropHead]

@[simp] theorem visible_endRun (r : BistRun) (o c : Nat) : visible (endRun r o c s) = visible s := by
  simp [endRun, visible_answerRun, dropHead]

theorem visible_bistAbort : visible (bistAbort n s) = visible s := by
  unfold bistAbort
  split
  · rfl
  · simp [bistEntry, scanEnds]

theorem visible_resumeRun (r : BistRun) : visible (resumeRun r n s) = visible s := by
  unfold resumeRun
  split <;> simp

theorem visible_laneOutcome : visible (laneOutcome k s) = visible s := by
  unfold laneOutcome
  split <;> simp

theorem visible_startLaneRun (r : BistRun) : visible (startLaneRun k r s) = visible s := by
  unfold startLaneRun
  dsimp only
  split
  · rfl
  · rw [visible_zeroSecrets, visible_setHead, visible_setLane]
    split <;> simp

theorem visible_startSliceRun (r : BistRun) : visible (startSliceRun k r s) = visible s := by
  simp [startSliceRun, insertSlot]

theorem visible_freeTested : visible (freeTested s) = visible s := by simp [freeTested]

theorem visible_bistBoundary : visible (bistBoundary k s) = visible s := by
  unfold bistBoundary
  have hstart : visible (bistHead 8 (freeTested (laneOutcome k s))) = visible s := by
    rw [visible_bistHead, visible_freeTested, visible_laneOutcome]
  generalize bistHead 8 (freeTested (laneOutcome k s)) = t at hstart
  rw [← hstart]
  dsimp only
  split
  · rfl
  · split
    · rfl
    · split
      · simp [visible_resumeRun, visible_bistAbort]
      · split
        · exact visible_startLaneRun _ _ _
        · exact visible_startSliceRun _ _ _
        · rfl

theorem visible_recallLane : visible (recallLane k n s).2 = visible s := by
  unfold recallLane
  split
  · split <;> simp [visible_bistAbort, visible_resumeRun]
  · simp

theorem visible_recallFor (f : LaneFindings) : visible (recallFor k f s).2 = visible s := by
  unfold recallFor
  split
  · dsimp only
    split
    · simp [visible_recallLane]
    · rfl
  · rfl

theorem visible_reassign (l : List Nat) (b : Bool) (f : LaneFindings) : visible (reassign k l b f s) = visible s := by
  simp [reassign, visible_bistBoundary, visible_gleanerBoundary, visible_applyFixes, visible_laneBoundary,
    visible_recallFor]

end

end Sys2Proof.Machine.TallyProofs
end

section
/-!
SUPPORT. What STK0 to STK3 read stays as it is: the changes that a boundary applies (R30, R31, R194 to R201).
-/
namespace Sys2Proof.Machine.TallyProofs
open Sys2Proof.Machine.SheafProofs

section
variable (k n : Nat) (p : Pending) (s : State)

@[simp] theorem visible_logicStart (l : List (Nat × Word × Half)) (b : Bool) :
    visible (logicStart n l b s) = visible s := by
  simp [logicStart, clearForces]

@[simp] theorem visible_closeEarly (q : Rec → Bool) (m : Nat) : visible (closeEarly q m n s) = visible s := by
  simp [closeEarly]

theorem visible_pairDiscrepancy (m : Nat) : visible (pairDiscrepancy n m s) = visible s := by
  unfold pairDiscrepancy
  dsimp only
  split <;> simp

theorem visible_pairRecovery (m : Nat) : visible (pairRecovery n m s) = visible s := by
  unfold pairRecovery
  dsimp only
  split <;> simp

theorem visible_pairStep (m : Nat) (a b : Bool) : visible (pairStep n m a b s) = visible s := by simp [pairStep]

theorem visible_switchPair (old : Option Package) (m : Nat) : visible (switchPair old m n s) = visible s := by
  simp [switchPair, pairReplay, visible_pairStep, visible_pairRecovery, visible_pairDiscrepancy]

theorem visible_reportStream (w : List Word) : visible (reportStream n w s) = visible s := by
  unfold reportStream
  dsimp only
  split <;> simp [streamLost, setStream]

theorem visible_switchIngest (old : Option Package) : visible (switchIngest old s) = visible s := by
  simp [switchIngest, visible_reportStream]

theorem visible_selectMaster : visible (selectMaster s) = visible s := by
  unfold selectMaster
  dsimp only
  split <;> simp [setPtp]

theorem visible_thresherPackage (old : Option Package) (m : FMap Bool) :
    visible (thresherPackage old m n s) = visible s := by
  simp [thresherPackage]

theorem visible_repartition : visible (repartition s) = visible s := by simp [repartition]

theorem visible_switchCopies (b : Bool) : visible (switchCopies b s) = visible s := by simp [switchCopies, writeCopy]

theorem visible_replaceProgram : visible (replaceProgram k s) = visible s := by simp [replaceProgram, checkpoint]

theorem visible_switchZones (old : Option Package) : visible (switchZones old s) = visible s := visible_congr rfl rfl

theorem visible_bindSlots (old : Option Package) : visible (bindSlots old s) = visible s := visible_congr rfl rfl

theorem visible_takeEffect (b : Bool) (new : Package) : visible (takeEffect k b new s) = visible s := by
  simp only [takeEffect, visible_mk, visible_fields, visible_selectMaster, visible_repartition, visible_thresherPackage,
    visible_foldl (fun t p => visible_switchPair p t _ _), visible_switchZones, visible_switchIngest, visible_bindSlots,
    visible_ite, visible_replaceProgram, visible_switchCopies, ite_self]

theorem visible_applyPackage : visible (applyPackage k p s) = visible s := by
  unfold applyPackage
  split <;> simp [visible_takeEffect]

theorem visible_applySnapsets : visible (applySnapsets k p s) = visible s := by
  unfold applySnapsets
  split <;> simp

theorem visible_applyGroup : visible (applyGroup k p s) = visible s := by
  unfold applyGroup
  split <;> simp

theorem visible_sourceGroup : visible (sourceGroup n s) = visible s := by
  unfold sourceGroup
  split <;> simp

theorem visible_applyParam : visible (applyParam k p s) = visible s := by
  unfold applyParam
  split <;> simp

theorem visible_forceEntry (r key : Nat) (w : Word) : visible (forceEntry r key w k s) = visible s := by
  simp [forceEntry]

theorem visible_applyForce : visible (applyForce k p s) = visible s := by
  unfold applyForce
  split <;> simp [visible_forceEntry]

theorem visible_applyUnforce : visible (applyUnforce k p s) = visible s := by
  unfold applyUnforce
  split <;> simp [visible_forceEntry]

theorem visible_applyRestart : visible (applyRestart k p s) = visible s := by
  unfold applyRestart
  split <;> simp

theorem visible_endUnforce : visible (endUnforce k s) = visible s := by
  refine (visible_foldl (fun t p => ?_) _ _).trans (visible_takeChanges _ _)
  split
  · simp
  · rfl

theorem visible_inputPoints (w : List Word) (t : Time) : visible (inputPoints n w t s) = visible s := by
  unfold inputPoints
  dsimp only
  split
  · rfl
  · simp

theorem visible_inputBoundary (t : Time) : visible (inputBoundary t s) = visible s := by
  simp [inputBoundary, visible_inputPoints]

theorem visible_applyKind {f : Pending → State → State} (h : ∀ p s, visible (f p s) = visible s) (kind : Pending → Bool)
    (s : State) : visible (applyKind k kind f s) = visible s :=
  (visible_foldl (fun s p => h p s) _ _).trans (visible_takeChanges _ _)

theorem visible_applyChanges : visible (applyChanges k s) = visible s := by
  simp only [applyChanges, visible_applyKind k (visible_applyRestart k), visible_applyKind k (visible_applyUnforce k),
    visible_applyKind k (visible_applyForce k), visible_applyKind k (visible_applyParam k),
    visible_foldl (fun t z => visible_sourceGroup z t), visible_inputBoundary,
    visible_applyKind k (visible_applyGroup k), visible_applyKind k (visible_applySnapsets k),
    visible_applyKind k (visible_applyPackage k)]

end

end Sys2Proof.Machine.TallyProofs
end

section
/-!
SUPPORT. What STK0 to STK3 read stays as it is: engine state, pair, end of a boundary (R34, R299 to R308, R365).
-/
namespace Sys2Proof.Machine.TallyProofs
open Sys2Proof.Machine.SheafProofs

section
variable (k n : Nat) (s : State)

theorem visible_toDegraded : visible (toDegraded s) = visible s := by simp [toDegraded]

theorem visible_degradeEvery : visible (degradeEvery k s) = visible s := by simp [degradeEvery, visible_toDegraded]

theorem visible_degradeAll (l : List Nat) : visible (degradeAll k n l s) = visible s := by
  simp [degradeAll, degradeZone, visible_toDegraded]

theorem visible_markZones (l : List Nat) : visible (markZones k l s) = visible s := by
  simp [markZones, visible_degradeAll, visible_degradeEvery]

theorem visible_tokenByState : visible (tokenByState s) = visible s := by simp [tokenByState, loseToken]

theorem visible_enterConfig : visible (enterConfig s) = visible s := by simp [enterConfig, visible_tokenByState]

theorem visible_applyState : visible (applyState k s) = visible s := by
  unfold applyState
  split
  · rfl
  · simp [visible_enterConfig]

theorem visible_changeStates (l : List Nat) (b : Bool) : visible (changeStates k l b s) = visible s := by
  simp [changeStates, visible_applyState, lockCheck, visible_markZones]

theorem visible_adoptEpoch (c : EpochCopy) : visible (adoptEpoch c n s) = visible s := by
  simp [adoptEpoch, adoptRetained, setPub]

theorem visible_swapBoundary : visible (swapBoundary k s) = visible s := by
  unfold swapBoundary
  dsimp only
  split <;> simp

theorem visible_ilkBoundary (x : IlkInputs) : visible (ilkBoundary k x s) = visible s := visible_congr rfl rfl

theorem visible_epochEnd : visible (epochEnd k s) = visible s := by
  unfold epochEnd
  split
  · rfl
  · simp

theorem visible_pairBoundary (x : IlkInputs) : visible (pairBoundary k x s) = visible s := by
  unfold pairBoundary
  split
  · simp
  · simp only [visible_withRole, visible_swapBoundary, visible_epochEnd, visible_mk, visible_fields]
    split
    · simp only [visible_adoptEpoch, visible_mk, visible_fields, visible_ilkBoundary]
    · simp only [visible_mk, visible_fields, visible_ilkBoundary]

theorem visible_ringFlush : visible (ringFlush n s) = visible s := by
  induction n generalizing s with
  | zero => rfl
  | succ n ih =>
    unfold ringFlush
    split
    · rfl
    · split
      · simp [ih, ringEntry]
      · rfl

theorem visible_nextSheaf : visible (nextSheaf k s) = visible s := by
  unfold nextSheaf
  split
  · simp [regridTo, shiftLaunches, thresherRestart]
  · simp

theorem visible_afterBoundary : visible (afterBoundary k s) = visible s := by
  simp [afterBoundary, latchCycle, visible_nextSheaf, dropSummary, visible_ringFlush, fillSnapshots, snapshotStart]

end

end Sys2Proof.Machine.TallyProofs
end

section
/-!
SUPPORT. What STK0 to STK3 read stays as it is: commands that start or end after a boundary (R289, R334 to R338).
-/
namespace Sys2Proof.Machine.TallyProofs
open Sys2Proof.Machine.SheafProofs

section
variable (v : View) (e : Inflight) (s : State)

@[simp] theorem visible_keepRunning : visible (keepRunning v e s) = visible s := by simp [keepRunning]

@[simp] theorem visible_holdChange (j : Nat) (c : Change) : visible (holdChange v e j c s) = visible s := by
  simp [holdChange]

@[simp] theorem visible_writeBuffer (n : Nat) (l : List Byte) : visible (writeBuffer e n l s) = visible s :=
  visible_congr rfl rfl

@[simp] theorem visible_deferCommand (b : Bool) : visible (deferCommand b v e s) = visible s := by
  unfold deferCommand
  split <;> simp [takeFree]

@[simp] theorem visible_writeRecord : visible (writeRecord s) = visible s := visible_congr rfl rfl

theorem visible_tbGo (x : TbState) : visible (tbGo x s) = visible s := by
  unfold tbGo
  split <;> simp

theorem visible_sourceLost : visible (sourceLost s) = visible s := by
  unfold sourceLost
  dsimp only
  split <;> simp [visible_tbGo]

theorem visible_applyTimeConfig (c : List Word) : visible (applyTimeConfig c s).2 = visible s := by
  unfold applyTimeConfig
  dsimp only
  split_ifs <;> simp [visible_sourceLost]

theorem visible_applyOwner (l : List Byte) : visible (applyOwner l s) = visible s := by simp [applyOwner]

theorem visible_doRequireSigned : visible (doRequireSigned v e s) = visible s := by
  unfold doRequireSigned
  split <;> simp

theorem visible_doFetchDump : visible (doFetchDump v e s) = visible s := by
  unfold doFetchDump
  dsimp only
  split_ifs
  · simp
  · simp
  · simp
  · split <;> simp

theorem visible_doSetOwner : visible (doSetOwner v e s) = visible s := by
  unfold doSetOwner
  dsimp only
  split_ifs
  · simp
  · simp
  · simp
  · split <;> simp [visible_applyOwner]

theorem visible_doInstall : visible (doInstall v e s) = visible s := by
  unfold doInstall
  dsimp only
  split
  · simp
  · split
    · simp
    · split <;> simp [recordSlot]

theorem visible_doActivate : visible (doActivate v e s) = visible s := by simp [doActivate]

/-- A command that waits for no boundary (R335). -/
theorem visible_runPlain : visible (runPlain v e s) = visible s := by
  unfold runPlain
  split
  · simp [doGetInfo]
  · simp [doGetCerts]
  · simp [doStage]
  · simp [doSetLpipe]
  · simp [doLoad]
  · simp [doListRecords]
  · simp [doFetchRecord]
  · simp [doReleaseRecord, releaseThrough]
  · simp [doFetchTally]
  · simp [doTimeConfig, visible_applyTimeConfig]
  · simp [doTimeStatus]
  · simp [doPairConfig]
  · simp [doSwapRoles]
  · simp [doSpotConvert]
  · simp [doCalStatus]
  · exact visible_doInstall v e s
  · exact visible_doActivate v e s
  · simp [doAttest]
  · exact visible_doSetOwner v e s
  · exact visible_doRequireSigned v e s
  · exact visible_doFetchDump v e s
  · rfl

theorem visible_armSubscriptions (j : Nat) (p : Package) : visible (armSubscriptions j p s) = visible s :=
  visible_congr rfl rfl

theorem visible_doCommit (g : Nat) : visible (doCommit g v e s) = visible s := by
  unfold doCommit
  dsimp only
  split
  · simp
  · simp [visible_armSubscriptions]

theorem visible_doParamWrite (g : Nat) : visible (doParamWrite g v e s) = visible s := by
  unfold doParamWrite
  dsimp only
  split
  · simp
  · split <;> simp

/-- A command of a boundary or a self-test, or one that waits for neither (R30, R310, R335). -/
theorem visible_runEffect (g : Nat) : visible (runEffect g v e s) = visible s := by
  unfold runEffect
  split
  · exact visible_doCommit v e s g
  · simp [doSelectGroup]
  · exact visible_doParamWrite v e s g
  · simp [doForce]
  · simp [doUnforce]
  · simp [doRestartLogic]
  · simp [doManualTrigger]
  · simp [doConfigSnapsets]
  · simp [doRunBist]
  · exact visible_runPlain v e s

theorem visible_runNow (g : Nat) : visible (runNow g v e s) = visible s := by
  unfold runNow
  split
  · rfl
  · simp [visible_runEffect]

theorem visible_wakeView (n : Nat) : visible (wakeView v n s) = visible s := by
  induction n generalizing s with
  | zero => rfl
  | succ n ih =>
    unfold wakeView
    split
    · simp [ih, visible_runNow]
    · rfl

theorem visible_execute (g : Nat) : visible (execute g v e s) = visible s := by simp [execute, visible_runNow]

theorem visible_takeBell (b : Bell) : visible (takeBell b s) = visible s := by
  unfold takeBell
  split
  · simp [rejectNow]
  · simp [replayNow]
  · simp [acceptedNow]
  · simp [addInflight]
  · simp [visible_execute, addInflight]

theorem visible_takeDoorbells (n : Nat) : visible (takeDoorbells n s) = visible s := by
  induction n generalizing s with
  | zero => rfl
  | succ n ih =>
    unfold takeDoorbells
    split
    · split
      · rfl
      · simp [ih, visible_takeBell]
    · rfl

theorem visible_settle : visible (settle s) = visible s := by
  simp [settle, wake, visible_takeDoorbells, visible_wakeView]

end

end Sys2Proof.Machine.TallyProofs
end

section
/-!
SUPPORT. The sticky record at a boundary (12_tally.md R281; 08_logic_program.md R197; 13_redundancy.md R285, R286).
-/
namespace Sys2Proof.Machine.TallyProofs
open Sys2Proof.Machine.SheafProofs Sys2Proof.Machine.GranaryProofs

theorem bit_or (v w : Word) (n : Nat) : bit (v ||| w) n = (bit v n || bit w n) := by
  simp only [bit, BitVec.toNat_or, Nat.testBit_or]

theorem bit_andNot (v w : Word) {n : Nat} (h : n < 32) : bit (v &&& ~~~w) n = (bit v n && !bit w n) := by
  have hbit (u : Word) : bit u n = u.getLsbD n := rfl
  simp [hbit, h]

theorem bit_setBit (w : Word) {i : Nat} (h : i < 32) (n : Nat) : bit (setBit w i) n = (bit w n || decide (n = i)) := by
  have htwo : (2 ^ i % 2 ^ 32).testBit n = decide (n = i) := by
    rw [Nat.mod_eq_of_lt (Nat.pow_lt_pow_right (by decide) h), Nat.testBit_two_pow]
    exact decide_eq_decide.mpr eq_comm
  rw [setBit, bit_or]
  exact congrArg _ ((congrArg (fun x : Nat => x.testBit n) (BitVec.toNat_ofNat _ _)).trans htwo)

/-- A word of two register lists combined word by word. -/
theorem regAt_zip_map (f : Word × Word → Word) {a b : List Word} {r : Nat} (ha : r < a.length) (hb : r < b.length) :
    regAt ((a.zip b).map f) r = f (regAt a r, regAt b r) := by
  simp [regAt, ha, hb]

/-- A bit of STKn after the boundary: a set wins over a clear of the same period (R281). -/
theorem bit_stickyNext {x : Sticky} {r n : Nat} (hregs : r < x.regs.length) (hsets : r < x.sets.length)
    (hclears : r < x.clears.length) (hn : n < 32) :
    bit (regAt (stickyNext x) r) n =
      (bit (regAt x.sets r) n || (bit (regAt x.regs r) n && !bit (regAt x.clears r) n)) := by
  have hkept : r < (andNot x.regs x.clears).length := by simp [andNot, hregs, hclears]
  rw [stickyNext, orWords, regAt_zip_map _ hkept hsets, andNot, regAt_zip_map _ hregs hclears, bit_or, bit_andNot _ _ hn,
    Bool.or_comm]

/-- The bits of the period with bit i of STK0 among them where c holds. -/
def withSet (c : Bool) (i : Nat) (sets : List Word) : List Word := if c then modAt (fun w => setBit w i) 0 sets else sets

theorem withSet_length (c : Bool) (i : Nat) (sets : List Word) : (withSet c i sets).length = sets.length := by
  cases c <;> cases sets <;> rfl

theorem bit_withSet (c : Bool) {i : Nat} (hi : i < 32) {sets : List Word} {r : Nat} (hr : r < sets.length) (n : Nat) :
    bit (regAt (withSet c i sets) r) n = (bit (regAt sets r) n || (decide (r = 0 ∧ n = i) && c)) := by
  cases c with
  | false => simp [withSet]
  | true =>
    by_cases h : r = 0
    · subst h
      simp [withSet, regAt_modAt, bit_setBit, hi, hr]
    · simp [withSet, regAt_modAt, h, Ne.symm h]

/-- The sticky record with FORCE_ACTIVE among the period's sets while a force is active (R197). -/
def forcesMarked (s : State) : Sticky := { s.stk with sets := withSet (!s.logic.forces.isEmpty) 8 s.stk.sets }

/-- STK0 to STK3 once a boundary has taken its sets and clears; the entries that report them change nothing any more. -/
theorem visible_stickyCommit (k : Nat) (s : State) :
    visible (stickyCommit k s) = whileRunning s.glb.running (stickyNext (forcesMarked s)) := by
  unfold stickyCommit
  extract_lets old x rising next seen fault power t
  have hx : x = forcesMarked s := by
    unfold x forcesMarked withSet
    cases s.logic.forces.isEmpty <;> rfl
  rw [← hx]
  refine visible_foldl (fun u p => ?_) _ t
  split
  · rfl
  · exact visible_tally _ _ _

/-- The state at C_k of the sheaf in the pipeline, before its boundary's work (R14, R25). -/
def atCommit (s : State) : State :=
  let n := advance (commitInstantOf (runningLpipe s) s.glb.cur) s
  { n with
    glb := { n.glb with sheaf := s.glb.cur, hlthArmed := true, flipFrom := some n.glb.sheaf }
    tb := { n.tb with shown := n.tb.state } }

/-- What the sticky record takes at a commit stands until the boundary's end (R25, R31, R281). -/
theorem visible_commitSheaf (x : IlkInputs) (l : List Nat) (b : Bool) (s : State) :
    visible (commitSheaf x l b s) = visible (stickyCommit s.glb.cur (markMismatch s.glb.cur (atCommit s))) := by
  unfold commitSheaf
  extract_lets k s1 lock _ _ s2 s3
  have hldf : visible s3 = visible s2 := by
    unfold s3
    split
    · exact visible_ldfBoundary _ _
    · rfl
  have hcheck : visible (laneCheck k s3).2 = visible s2 := (visible_laneCheck k s3).trans hldf
  have htaken : s2 = stickyCommit s.glb.cur (markMismatch s.glb.cur (atCommit s)) := rfl
  rw [← htaken]
  clear_value s2 s3
  generalize laneCheck k s3 = r at hcheck ⊢
  obtain ⟨f, s4⟩ := r
  dsimp only at hcheck ⊢
  have hpublish : visible (publishSheaf k f s4) = visible s2 := (visible_publishSheaf k s4 f).trans hcheck
  generalize publishSheaf k f s4 = s5 at hpublish ⊢
  have hgates : visible (if protecting s5 = true then gateAll k s5 else s5) = visible s2 := by
    rw [visible_ite, visible_gateAll, ite_self, hpublish]
  generalize (if protecting s5 = true then gateAll k s5 else s5) = s6 at hgates ⊢
  rw [visible_settle, visible_laterOf, visible_afterBoundary, visible_pairBoundary, visible_changeStates,
    visible_applyChanges, visible_reassign, zstCommit, visible_mk, visible_fields, visible_endUnforce,
    visible_thresherLater, visible_publishGoose, hgates]

/-- STK0.LANE_MISMATCH is among the period's sets where the comparison found a mismatch (R285, R286). -/
theorem markMismatch_stk (k : Nat) {s : State} (h : s.glb.running = true) :
    (markMismatch k s).stk = { s.stk with sets := withSet (mismatchFound k s) 1 s.stk.sets } := by
  unfold markMismatch withSet
  cases mismatchFound k s with
  | false => rfl
  | true => exact sticky_running 0 1 (count 153 1 s) h

theorem markMismatch_logic (k : Nat) (s : State) : (markMismatch k s).logic = s.logic := by
  have hsticky := congrArg State.logic (sticky_spec 0 1 (count 153 1 s))
  unfold markMismatch
  split
  · exact hsticky
  · rfl

theorem markMismatch_running (k : Nat) (s : State) : (markMismatch k s).glb.running = s.glb.running :=
  congrArg Core.running (core_markMismatch k s)

theorem atCommit_eq (s : State) : ∃ tb, atCommit s = { s with
    tb := tb, glb := { s.glb with sheaf := s.glb.cur, hlthArmed := true, flipFrom := some s.glb.sheaf } } := by
  unfold atCommit advance
  split <;> exact ⟨_, rfl⟩

theorem atCommit_running (s : State) : (atCommit s).glb.running = s.glb.running := by
  obtain ⟨tb, htb⟩ := atCommit_eq s
  rw [htb]

/-- The sticky record that a commit works on, with LANE_MISMATCH and FORCE_ACTIVE among the sets where they hold (R197,
R286); that a mismatch shows at C_k and not at the next boundary is the model's choice (log 11). -/
def recordAtCommit (s : State) : Sticky :=
  { s.stk with sets := withSet (!s.logic.forces.isEmpty) 8 (withSet (mismatchFound s.glb.cur s) 1 s.stk.sets) }

theorem forcesMarked_atCommit {s : State} (h : s.glb.running = true) :
    forcesMarked (markMismatch s.glb.cur (atCommit s)) = recordAtCommit s := by
  rw [forcesMarked, markMismatch_stk _ ((atCommit_running s).trans h), markMismatch_logic]
  obtain ⟨tb, htb⟩ := atCommit_eq s
  have hfound : mismatchFound s.glb.cur (atCommit s) = mismatchFound s.glb.cur s := by rw [htb]; rfl
  rw [hfound, htb]
  rfl

theorem visible_together (f : State → State) (s : State) : visible (together f s) = visible (f s) :=
  visible_congr rfl rfl

/-- What STK0 to STK3 read after the commit of a frozen sheaf (R281). -/
theorem visible_commit (x : IlkInputs) (l : List Nat) (b : Bool) {s : State} (h : s.glb.running = true) :
    visible (together (commitSheaf x l b) s) = some (stickyNext (recordAtCommit s)) := by
  have hrun : (markMismatch s.glb.cur (atCommit s)).glb.running = true :=
    (markMismatch_running _ _).trans ((atCommit_running s).trans h)
  rw [visible_together, visible_commitSheaf, visible_stickyCommit, hrun, forcesMarked_atCommit h, whileRunning,
    if_pos rfl]

/-- A bit of STKn after the commit, by what the period set and cleared (R281). -/
theorem bit_recordAtCommit {s : State} (hregs : s.stk.regs.length = 4) (hsets : s.stk.sets.length = 4)
    (hclears : s.stk.clears.length = 4) {r n : Nat} (hr : r < 4) (hn : n < 32) :
    bit (regAt (stickyNext (recordAtCommit s)) r) n =
      (bit (regAt s.stk.sets r) n || (decide (r = 0 ∧ n = 8) && !s.logic.forces.isEmpty) ||
        (decide (r = 0 ∧ n = 1) && mismatchFound s.glb.cur s) ||
        (bit (regAt s.stk.regs r) n && !bit (regAt s.stk.clears r) n)) := by
  have hset : r < s.stk.sets.length := hsets ▸ hr
  have hmarked : r < (withSet (mismatchFound s.glb.cur s) 1 s.stk.sets).length := (withSet_length _ _ _).symm ▸ hset
  have hnext : bit (regAt (stickyNext (recordAtCommit s)) r) n =
      (bit (regAt (withSet (!s.logic.forces.isEmpty) 8 (withSet (mismatchFound s.glb.cur s) 1 s.stk.sets)) r) n ||
        (bit (regAt s.stk.regs r) n && !bit (regAt s.stk.clears r) n)) :=
    bit_stickyNext (hregs ▸ hr) ((withSet_length _ _ _).symm ▸ hmarked) (hclears ▸ hr) hn
  rw [hnext, bit_withSet _ (by decide) hmarked, bit_withSet _ (by decide) hset, Bool.or_right_comm (bit _ n)]

/-- Settles O24: nothing after stickyCommit changes what STK0 to STK3 read, and its own words are read bit by bit. -/
theorem commitAppliesStickyBits : Obligations.CommitAppliesStickyBits := by
  intro x l b s hrun hfrozen hregs hsets hclears
  refine ⟨together (commitSheaf x l b) s, congrArg Host.Outcome.next (if_pos ⟨hrun, hfrozen⟩), fun r hr n hn => ?_⟩
  rw [regs_of_visible (visible_commit x l b hrun)]
  exact bit_recordAtCommit hregs hsets hclears hr hn

end Sys2Proof.Machine.TallyProofs
end

section
/-!
SUPPORT. Facts that the proofs about lanes and pairs share: what an entry with its sticky bit, a change of role and the passing
of time touch, and when the supervisor has nothing to do after an event (16_mailbox.md R334, R338).
-/
namespace Sys2Proof.Machine.PairProofs
open Sys2Proof.Safety Sys2Proof.Machine.SheafProofs

/-- A Tally entry leaves everything but the queue, the counters and the sticky record as it was (R273, R275). -/
theorem tally_eq (event : Half) (detail : List Quad) (s : State) :
    ∃ q c k, tally event detail s = { s with tally := q, cnt := c, stk := k } := by
  refine ⟨(tally event detail s).tally, (tally event detail s).cnt, (tally event detail s).stk, ?_⟩
  have h := congrArg (fun x : State => { x with
    tally := (tally event detail s).tally, cnt := (tally event detail s).cnt, stk := (tally event detail s).stk })
    (tally_frame event detail s)
  exact h

/-- The same for an entry that comes with a sticky bit (R281). -/
theorem report_eq (r b : Nat) (event : Half) (detail : List Quad) (s : State) :
    ∃ q c k, sticky r b (tally event detail s) = { s with tally := q, cnt := c, stk := k } := by
  obtain ⟨q, c, k, h⟩ := tally_eq event detail s
  refine ⟨q, c, (sticky r b (tally event detail s)).stk, ?_⟩
  rw [h]
  have hs := congrArg (fun x : State => { x with stk := (sticky r b { s with tally := q, cnt := c, stk := k }).stk })
    (sticky_spec r b { s with tally := q, cnt := c, stk := k })
  exact hs

/-- The passing of time moves the timebase alone (R87). -/
theorem advance_eq (t : Time) (s : State) : ∃ tb, advance t s = { s with tb := tb } := by
  refine ⟨(advance t s).tb, ?_⟩
  have h := congrArg (fun x : State => { x with tb := (advance t s).tb }) (advance_spec t s).2
  exact h

/-- The report of a changed role touches views and supplies alone, and no command in flight (R353). -/
theorem withRole_eq (f : State → State) (s : State) :
    ∃ x y p, withRole f s = { f s with pf0 := x, pf1 := y, power := p } ∧ x.inflight = (f s).pf0.inflight := by
  unfold withRole
  dsimp only
  split
  · exact ⟨_, _, _, rfl, rfl⟩
  · generalize hr : BitVec.ofNat 64 _ = role
    have h := congrArg (fun x : State => { x with
      pf0 := (postEvent 0x0E03 role (f s)).pf0, pf1 := (postEvent 0x0E03 role (f s)).pf1
      power := (postEvent 0x0E03 role (f s)).power }) (postEvent_spec 0x0E03 role (f s)).1
    exact ⟨_, _, _, h, congrArg Committed.flight0 (committed_postEvent _ _ _)⟩

/-- Where no doorbell waits and no command's turn has come, the supervisor does nothing after an event (R334, R338). -/
theorem settle_noTurn {s : State} (hbells : s.bells = []) (hready : readyCommand s .pf0 = none) : settle s = s := by
  have hview (n : Nat) : wakeView .pf0 n s = s := by
    cases n with
    | zero => rfl
    | succ n => simp [wakeView, hready]
  have hwake : wake s = s := by rw [wake, hview, ite_self]
  simp [settle, hwake, hbells, takeDoorbells]

theorem settle_nothingWaits {s : State} (h : NothingWaits s) : settle s = s :=
  settle_noTurn h.1 (by simp [readyCommand, State.view, h.2])

/-- A command alone in flight that waits for no other leaves the supervisor nothing to do (R338). -/
theorem settle_alone {s : State} {e : Inflight} (hbells : s.bells = []) (hflight : s.pf0.inflight = [e])
    (hstage : ∀ g, e.stage ≠ .awaitOrder g) : settle s = s := by
  refine settle_noTurn hbells ?_
  cases hst : e.stage with
  | awaitOrder g => exact absurd hst (hstage g)
  | _ => simp [readyCommand, State.view, hflight, hst]

end Sys2Proof.Machine.PairProofs
end

section
/-!
SUPPORT. The periodic known-answer test of a lane (13_redundancy.md R287, R288; 14_self_test.md R307).
-/
namespace Sys2Proof.Machine.PairProofs

/-- A lane that is no suspect yet becomes one (R286, R287). -/
theorem makeSuspect_new {x : Suspect} {s : State} (h : ∀ y ∈ s.lanes.suspects, y.lane ≠ x.lane) :
    makeSuspect x s = { s with lanes := { s.lanes with suspects := s.lanes.suspects ++ [x] } } := by
  have hnone : s.lanes.suspects.any (fun y => y.lane == x.lane && y.pos == x.pos) = false := by
    rw [List.any_eq_false]
    intro y hy
    simp [h y hy]
  rw [makeSuspect, if_neg (by simp [hnone])]

section
variable {n w : Nat} {tok : Word} {d : Quad} {s : State} (hrun : s.glb.running = true) (hopen : s.glb.frozen = false)
  (hsheaf : s.glb.sheaf % 4800 = 360 * n)

/-- The digest, the end token and the count that the running image's table has (R287). -/
def KatPasses (tok : Word) (d : Quad) (w : Nat) (s : State) : Prop :=
  w = 2112 ∧ (d, tok) = Config.katExpected ((s.trust.slotDigest[s.trust.running]?).getD 0) Config.silicon

/-- What every failing test reports: entry 0x0B04 and STK0.LANE_KAT_FAIL (R287). -/
def katReport (n : Nat) (d : Quad) (w : Nat) (s : State) : State :=
  sticky 0 4 (tally 0x0B04 [item n, item s.glb.sheaf, d, item w] s)

theorem katReport_lanes (n : Nat) (d : Quad) (w : Nat) (s : State) : (katReport n d w s).lanes = s.lanes := by
  obtain ⟨q, c, k, h⟩ := report_eq 0 4 0x0B04 [item n, item s.glb.sheaf, d, item w] s
  rw [katReport, h]

theorem katReport_glb (n : Nat) (d : Quad) (w : Nat) (s : State) : (katReport n d w s).glb = s.glb := by
  obtain ⟨q, c, k, h⟩ := report_eq 0 4 0x0B04 [item n, item s.glb.sheaf, d, item w] s
  rw [katReport, h]

theorem knownAnswer_pass (h : KatPasses tok d w s) : knownAnswer n tok d w s = s := if_pos (.inr h)

include hrun hopen hsheaf

/-- At the lane's sheaf a failing test is judged (R287). -/
theorem not_skipped_of_fails (h : ¬ KatPasses tok d w s) :
    ¬ (¬ (s.glb.running && s.glb.sheaf % 4800 == 360 * n && !s.glb.frozen) = true ∨ KatPasses tok d w s) :=
  not_or.mpr ⟨not_not_intro (by simp [hrun, hopen, hsheaf]), h⟩

/-- A serving lane that fails becomes a suspect, or retires at the next boundary where there is no spare (R287, R288). -/
theorem knownAnswer_serving (h : ¬ KatPasses tok d w s) {p : Nat} (hlane : laneState s n = .serving)
    (hpos : positionOf s n = some p) :
    knownAnswer n tok d w s =
      if (spareLane s).isNone then
        { katReport n d w s with lanes := { s.lanes with retire := s.lanes.retire ++ [(n, 0)] } }
      else makeSuspect ⟨n, p, s.glb.sheaf, s.glb.cur, true, false⟩ (katReport n d w s) := by
  have hspare : spareLane (katReport n d w s) = spareLane s := by rw [spareLane, katReport_lanes, spareLane]
  rw [← hspare, ← katReport_glb n d w s, ← katReport_lanes n d w s]
  refine (if_neg (not_skipped_of_fails hrun hopen hsheaf h)).trans ?_
  rw [hlane, hpos]
  rfl

/-- A spare that fails retires at the next boundary (R288). -/
theorem knownAnswer_spare (h : ¬ KatPasses tok d w s) (hlane : laneState s n = .spare) :
    knownAnswer n tok d w s =
      { sticky 0 3 (katReport n d w s) with lanes := { s.lanes with retire := s.lanes.retire ++ [(n, 0)] } } := by
  have hkept : (sticky 0 3 (katReport n d w s)).lanes = s.lanes :=
    (congrArg State.lanes (sticky_spec 0 3 (katReport n d w s))).trans (katReport_lanes n d w s)
  rw [← hkept]
  refine (if_neg (not_skipped_of_fails hrun hopen hsheaf h)).trans ?_
  rw [hlane]
  rfl

end

/-- Settles O28: a pass does nothing; a failing lane is judged by whether it serves, and whether there is a spare. -/
theorem knownAnswerTestOutcome : Obligations.KnownAnswerTestOutcome := by
  intro n tok d w s hrun hopen hsheaf pass r
  refine ⟨fun hpass => congrArg Host.Outcome.next (knownAnswer_pass hpass), fun hfail => ⟨?_, ?_, ?_⟩⟩
  · intro p hlane hpos hspare hnew
    refine congrArg Host.Outcome.next ((knownAnswer_serving hrun hopen hsheaf hfail hlane hpos).trans ?_)
    rw [if_neg (by simpa using Option.isSome_iff_ne_none.mp hspare),
      makeSuspect_new (by rw [katReport_lanes]; exact hnew), katReport_lanes]
    rfl
  · intro p hlane hpos hspare
    refine congrArg Host.Outcome.next ((knownAnswer_serving hrun hopen hsheaf hfail hlane hpos).trans ?_)
    rw [if_pos (by simp [hspare])]
    rfl
  · intro hlane
    exact congrArg Host.Outcome.next (knownAnswer_spare hrun hopen hsheaf hfail hlane)

end Sys2Proof.Machine.PairProofs
end

section
/-!
SUPPORT. The line fault of a holder that reads CLAIM (13_redundancy.md R299, R300).
-/
namespace Sys2Proof.Machine.PairProofs
open Sys2Proof.Safety Sys2Proof.Machine.SheafProofs

/-- A holder that reads CLAIM on both lines gives the token up unless PREFER acts as 1, also where the fault was reported
before (R300: either way the sticky bit and the entry come beside it). -/
theorem lineFaultAt_reported {i : IlkInputs} {s : State} (hpaired : paired s = true) (hat : atBoundary s = true)
    (hknown : ∀ n ∈ lineCauses s.pair (ilkClasses s s.glb.sheaf i), n ∈ s.pair.faults)
    (hclaim : 0 ∈ lineCauses s.pair (ilkClasses s s.glb.sheaf i)) (hprefer : preferActs s = false) :
    lineFaultAt i s = withRole loseToken s := by
  have hnone : (lineCauses s.pair (ilkClasses s s.glb.sheaf i)).filter (fun n => !s.pair.faults.contains n) = [] := by
    rw [List.filter_eq_nil_iff]
    intro n hn
    simp [hknown n hn]
  unfold lineFaultAt
  rw [if_neg (by simp [hpaired, hat])]
  dsimp only
  rw [hnone, List.foldl_nil, if_pos ⟨by simpa using hclaim, hprefer⟩]

theorem token_withRole_loseToken (s : State) : (withRole loseToken s).pair.token = false :=
  (congrArg Core.token (core_withRole loseToken s)).trans (parts_loseToken s).2.1

/-- A holder of PREFER 0 at C_100 that has reported CLAIM on both lines. -/
def reportedHolder : State := { State.reset with
  glb := { Glb.init with gstate := .protecting, running := true, sheaf := 100, cur := 101, lpipe := 240 }
  pair := { Pair.init with c0 := 1, token := true, faults := [0] } }

/-- CLAIM on every input at C_100: 15 edges with 8 µs between them, the last at the boundary (R299). -/
def claimEdges : List Time := (List.range 15).reverse.map (fun n => commitInstantOf 240 100 - usSteps (8 * n))
def claimInputs : IlkInputs := ⟨claimEdges, claimEdges, claimEdges⟩

theorem lineCauses_reportedHolder :
    lineCauses reportedHolder.pair (ilkClasses reportedHolder reportedHolder.glb.sheaf claimInputs) = [0] := by decide

/-- At reportedHolder the row ILK_LINE_FAULT takes the token, though every cause that holds stands reported. -/
theorem ilkLineFault_reportedHolder :
    ∃ t, exec (.ilkLineFault claimInputs) reportedHolder = .next t ∧ t.pair.token = false := by
  have hgives : lineFaultAt claimInputs reportedHolder = withRole loseToken reportedHolder :=
    lineFaultAt_reported rfl rfl (by rw [lineCauses_reportedHolder]; exact fun _ h => h)
      (by rw [lineCauses_reportedHolder]; exact List.mem_singleton_self 0) rfl
  have hidle : (committed (withRole loseToken reportedHolder)).idle := by
    rw [committed_withRole, committed_loseToken rfl]
    exact ⟨rfl, rfl, rfl⟩
  refine ⟨withRole loseToken reportedHolder, ?_, token_withRole_loseToken _⟩
  show execIlkLineFault claimInputs reportedHolder = _
  rw [execIlkLineFault, hgives, settle_idle hidle]

/-- Refutes O43: the clause that a line fault whose causes are all reported changes nothing. A holder of PREFER 0 whose CLAIM
fault stands reported still gives the token up (R300). -/
theorem not_claimsFollowTheInterlock : ¬ Obligations.ClaimsFollowTheInterlock := by
  intro h
  obtain ⟨-, hfault⟩ := h
  have hsame := (hfault claimInputs reportedHolder ⟨rfl, rfl⟩ rfl rfl rfl).1
    (by rw [lineCauses_reportedHolder]; exact fun _ h => h)
  obtain ⟨t, ht, htoken⟩ := ilkLineFault_reportedHolder
  obtain rfl := Host.Outcome.next.inj (ht.symm.trans hsame)
  exact absurd htoken (by decide)

end Sys2Proof.Machine.PairProofs
end

section
/-!
SUPPORT. A PF0 command of the token holder that is alone in flight: its acceptance, and the end of its wait for the standby
(13_redundancy.md R294; 16_mailbox.md R336, R338).
-/
namespace Sys2Proof.Machine.PairProofs
open Sys2Proof.Safety Sys2Proof.Machine.SheafProofs

section
variable {e : Inflight} {s : State} (hflight : s.pf0.inflight = [e])
include hflight

theorem inSlot_local (hlocal : e.remote = false) : inSlot s .pf0 e.slot = some e := by
  simp [inSlot, findInflight, State.view, hflight, hlocal]

theorem setStage_alone (st : Stage) :
    setStage .pf0 e st s = { s with pf0 := { s.pf0 with inflight := [{ e with stage := st }] } } := by
  simp [setStage, State.view, State.setView, hflight, sameCommand]

theorem acceptedView_alone : (acceptedView .pf0 e s).inflight = [numbered e s] := by
  simp [acceptedView, State.view, hflight, sameCommand]

theorem acceptedState_alone (b : List Byte) : (acceptedState .pf0 e b s).pf0.inflight = [numbered e s] :=
  acceptedView_alone hflight

/-- The effect f of an accepted command leaves the views alone; then it waits at stage st. -/
theorem setStage_accepted (st : Stage) {f : State} (hf : f.pf0 = acceptedView .pf0 e s) :
    setStage .pf0 (numbered e s) st f =
      { f with pf0 := { acceptedView .pf0 e s with inflight := [{ numbered e s with stage := st }] } } := by
  rw [← hf]
  exact setStage_alone (by rw [hf]; exact acceptedView_alone hflight) st

/-- Nothing holds the command back (R338), so it runs once it is accepted, where the state permits it (R342). -/
theorem accept_alone {c : CmdSpec} (hplain : e.flags = 0) (hspec : commandSpec e.opcode = some c)
    (hstate : c.states.contains s.glb.gstate = true) (hdesc : c.desc = none) :
    ∃ b, accept .pf0 e s = runEffect s.glb.sheaf .pf0 (numbered e s) (acceptedState .pf0 e b s) := by
  obtain ⟨b, hb⟩ := accept_eq .pf0 (s := s) hplain
  refine ⟨b, hb.trans ?_⟩
  have hfree : blocked (acceptedState .pf0 e b s) .pf0 (numbered e s) = false := by
    simp [blocked, State.view, acceptedState_alone hflight, holdsBack]
  have hspec' : commandSpec (numbered e s).opcode = some c := hspec
  have hstate' : c.states.contains (acceptedState .pf0 e b s).glb.gstate = true := hstate
  rw [execute, if_neg (by simp [hfree])]
  unfold runNow
  rw [hspec']
  dsimp only
  rw [hstate', if_neg (by simp), if_neg (by simp [hdesc])]

/-- The standby's acknowledgement accepts the command that waits for it (R294). -/
theorem partnerAck_waiting (hlocal : e.remote = false) (honline : s.power.online = true)
    (hstage : e.stage = .awaitPartner) :
    partnerAck e.slot none s = accept .pf0 e { s with pair := { s.pair with alone := false } } := by
  unfold partnerAck
  rw [inSlot_local hflight hlocal]
  dsimp only
  rw [if_neg (by simp [honline]), hstage]

/-- Without an answer the command is accepted alone; one that this engine executes goes on as any other (R294). -/
theorem ackTimeout_waiting (hlocal : e.remote = false) (honline : s.power.online = true) (hstage : e.stage = .awaitPartner)
    {a : Inflight} (hthen : (accept .pf0 e (markAlone e.hostSeq s)).pf0.inflight = [a]) (hslot : a.slot = e.slot)
    (hhere : a.remote = false ∧ a.stage ≠ .atPartner) :
    ackTimeout e.slot s = accept .pf0 e (markAlone e.hostSeq s) := by
  unfold ackTimeout
  rw [inSlot_local hflight hlocal]
  dsimp only
  rw [if_neg (by simp [honline]), hstage]
  dsimp only
  rw [← hslot, inSlot_local hthen hhere.1]
  exact if_neg hhere.2

end

theorem pdStates_protecting {s : State} (h : protecting s = true) : pdStates.contains s.glb.gstate = true :=
  pdStates_running (by simpa [protecting] using h)

end Sys2Proof.Machine.PairProofs
end

section
/-!
SUPPORT. Role swaps (13_redundancy.md R301, R302).
-/
namespace Sys2Proof.Machine.PairProofs
open Sys2Proof.Safety Sys2Proof.Machine.SheafProofs

/-- The state of a failed periodic swap, due again in 1 h (R302). -/
def swapEnded (byCommand : Bool) (s : State) : State :=
  { s with pair := { s.pair with
    swap := .idle
    swapFrom := if byCommand then s.pair.swapFrom
      else s.tb.now + 3600 * stepsPerSec - 3600 * swapHours s * stepsPerSec } }

/-- With no SWAP_ROLES in flight a failure is its entry and its sticky bit (R302). -/
theorem swapFailed_idle (cause r : Nat) (b : Bool) {s : State} (h : s.pf0.inflight = []) :
    swapFailed cause r b s = sticky 3 8 (tally 0x0A05 [item cause, item r] (swapEnded b s)) := by
  obtain ⟨q, c, k, hq⟩ := report_eq 3 8 0x0A05 [item cause, item r] (swapEnded b s)
  have hflight : (sticky 3 8 (tally 0x0A05 [item cause, item r] (swapEnded b s))).pf0.inflight = [] := by
    rw [hq]
    exact h
  exact answerSwap_idle 0x0104 [] hflight

/-- The passing of time changes neither the pair nor SWAP_H. -/
theorem swapEnded_advance (t : Time) (s : State) :
    swapEnded false (advance t s) = { advance t s with pair := { s.pair with
      swap := .idle
      swapFrom := (advance t s).tb.now + 3600 * stepsPerSec - 3600 * swapHours s * stepsPerSec } } := by
  have hpair : (advance t s).pair = s.pair := by
    obtain ⟨tb, htb⟩ := advance_eq t s
    rw [htb]
  have hhours : swapHours (advance t s) = swapHours s := by rw [swapHours, hpair, swapHours]
  rw [swapEnded, hpair, hhours, if_neg Bool.false_ne_true]

/-- A failed swap leaves everything but the pair, the queue, the counters and the sticky record as it was. -/
theorem swapFailed_eq (cause r : Nat) (b : Bool) {s : State} (h : s.pf0.inflight = []) :
    ∃ q c k, swapFailed cause r b s = { swapEnded b s with tally := q, cnt := c, stk := k } := by
  obtain ⟨q, c, k, hq⟩ := report_eq 3 8 0x0A05 [item cause, item r] (swapEnded b s)
  exact ⟨q, c, k, (swapFailed_idle cause r b h).trans hq⟩

/-- A swap that has been due for 60 s without a swap boundary fails with cause 0 (R302). -/
theorem swapFailAt_due {i : IlkInputs} {t u : Time} {s : State} (h : s.pair.swap = .due u false) :
    swapFailAt i t s =
      if u + 60 * stepsPerSec ≤ (advance t s).tb.now then swapFailed 0 0 false (advance t s) else advance t s := by
  have hswap : (advance t s).pair.swap = .due u false := by
    obtain ⟨tb, htb⟩ := advance_eq t s
    rw [htb]
    exact h
  unfold swapFailAt
  dsimp only
  rw [hswap]
  simp

/-- The old active of a failed swap takes the token again (R299). -/
def takeBack (s : State) : State := { s with pair := { s.pair with token := true, captures := [] } }

/-- What the old active does at C_(r+2) where CLAIM is missing: it takes the token back where both lines read RELEASE (R302). -/
def reclaim (i : IlkInputs) (s : State) : State :=
  if bothRelease (ilkClasses s s.glb.sheaf i) = true ∧ protecting s = true ∧ paired s = true then withRole takeBack s else s

/-- CLAIM missing at C_(r+2) ends the swap with cause 1 (R302). -/
theorem swapFailAt_handed {i : IlkInputs} {t u : Time} {b : Bool} {r : Nat} {s : State} (h : s.pair.swap = .handed u b r)
    (hat : atBoundary s = true) (hsheaf : s.glb.sheaf = r + 2) (hclaim : bothClaim (ilkClasses s s.glb.sheaf i) = false) :
    swapFailAt i t s = swapFailed 1 r b (reclaim i (advance t s)) := by
  obtain ⟨tb, htb⟩ := advance_eq t s
  have hswap : (advance t s).pair.swap = .handed u b r := by rw [htb]; exact h
  have hdue : atBoundary (advance t s) = true ∧ (advance t s).glb.sheaf = r + 2 ∧
      bothClaim (ilkClasses (advance t s) (advance t s).glb.sheaf i) = false := by
    rw [htb]
    exact ⟨hat, hsheaf, hclaim⟩
  unfold swapFailAt
  dsimp only
  rw [hswap]
  dsimp only
  rw [if_neg (not_not_intro hdue)]
  rfl

/-- Taking the token back touches the pair, the views and the supplies alone, and no command in flight; it happens exactly where
both lines read RELEASE and the paired engine protects. -/
theorem reclaim_eq (i : IlkInputs) {s : State} (hpaired : paired s = true) (htoken : s.pair.token = false) :
    ∃ x y p w, reclaim i s = { s with pf0 := x, pf1 := y, power := p, pair := w } ∧ x.inflight = s.pf0.inflight ∧
      (w.token = true ↔ bothRelease (ilkClasses s s.glb.sheaf i) = true ∧ protecting s = true) := by
  unfold reclaim
  split
  next h =>
    obtain ⟨x, y, p, heq, hx⟩ := withRole_eq takeBack s
    exact ⟨x, y, p, _, heq, hx, iff_of_true rfl ⟨h.1, h.2.1⟩⟩
  next h =>
    exact ⟨_, _, _, _, rfl, rfl, iff_of_false (by simp [htoken]) (fun hr => h ⟨hr.1, hr.2, hpaired⟩)⟩

theorem runEffect_swapRoles {g : Nat} {v : View} {e : Inflight} {s : State} (h : e.opcode = 0x0702) :
    runEffect g v e s = doSwapRoles v e s := by
  unfold runEffect runPlain
  rw [h]
  rfl

theorem doSwapRoles_idle (v : View) (e : Inflight) {s : State} (hpaired : paired s = true) (htoken : s.pair.token = true)
    (hstep : s.pair.inStep = true) (hidle : s.pair.swap = .idle) :
    doSwapRoles v e s = setStage v e .swapping { s with pair := { s.pair with swap := .due s.tb.now true } } := by
  unfold doSwapRoles
  rw [if_neg (by simp [hpaired, htoken, hstep])]
  dsimp only
  rw [hidle]

/-- The swap interval decides whether a swap falls due (R301). -/
theorem swapDue_idle {s : State} (hpaired : paired s = true) (htoken : s.pair.token = true) (hidle : s.pair.swap = .idle) :
    swapDue s = if s.pair.swapFrom + 3600 * swapHours s * stepsPerSec ≤ s.tb.now
      then { s with pair := { s.pair with swap := .due s.tb.now false } } else s := by
  simp [swapDue, hpaired, htoken, hidle]

/-- A periodic swap without a swap boundary, with nothing for the supervisor to do after it (R302). -/
theorem settle_swapFailAt_due {i : IlkInputs} {t u : Time} {s : State} (hwaits : NothingWaits s)
    (hdue : s.pair.swap = .due u false) :
    settle (swapFailAt i t s) =
      if u + 60 * stepsPerSec ≤ (advance t s).tb.now then
        sticky 3 8 (tally 0x0A05 [0, 0] (swapEnded false (advance t s)))
      else advance t s := by
  obtain ⟨tb, htb⟩ := advance_eq t s
  have hquiet : NothingWaits (advance t s) := by rw [htb]; exact hwaits
  rw [swapFailAt_due hdue]
  split
  · obtain ⟨q, c, k, hq⟩ := swapFailed_eq 0 0 false hquiet.2
    rw [settle_nothingWaits (by rw [hq]; exact hquiet), swapFailed_idle 0 0 false hquiet.2]
    rfl
  · exact settle_nothingWaits hquiet

/-- SWAP_ROLES, once it is accepted by a holder in step, makes a swap due (R301). -/
theorem accept_swapRoles {e : Inflight} {s : State} (hflight : s.pf0.inflight = [e]) (hplain : e.flags = 0)
    (hop : e.opcode = 0x0702) (hprot : protecting s = true) (hpaired : paired s = true) (htoken : s.pair.token = true)
    (hstep : s.pair.inStep = true) (hidle : s.pair.swap = .idle) :
    ∃ b, accept .pf0 e s = { acceptedState .pf0 e b s with
      pf0 := { acceptedView .pf0 e s with inflight := [{ numbered e s with stage := .swapping }] }
      pair := { s.pair with swap := .due s.tb.now true } } := by
  obtain ⟨b, hb⟩ := accept_alone (c := ⟨0x0702, false, pdStates, false, 0, none, true⟩) hflight hplain (by rw [hop]; rfl)
    (pdStates_protecting hprot) rfl
  refine ⟨b, hb.trans ?_⟩
  rw [runEffect_swapRoles (e := numbered e s) hop,
    doSwapRoles_idle .pf0 _ (s := acceptedState .pf0 e b s) hpaired htoken hstep hidle]
  exact setStage_accepted hflight _ rfl

/-- Settles O45: the interval, the two limits, and the acknowledgement of the command each by its own rule. -/
theorem roleSwaps : Obligations.RoleSwaps := by
  refine ⟨fun s hpaired htoken hidle => congrArg Host.Outcome.next (swapDue_idle hpaired htoken hidle),
    fun i t u s hwaits hdue => congrArg Host.Outcome.next
      ((settle_swapFailAt_due hwaits hdue).trans (by rw [swapEnded_advance])),
    fun i t u b r s hwaits hpaired hswap htoken hrun hopen hsheaf hclaim => ?_,
    fun e s hbells hflight hstage hop hlocal hplain _ honline hpaired htoken hstep hidle hprot => ?_⟩
  · have hat : atBoundary s = true := by simp [atBoundary, hrun, hopen]
    obtain ⟨tb, htb⟩ := advance_eq t s
    obtain ⟨x, y, p, w, hw, hx, hback⟩ := reclaim_eq i (s := { s with tb := tb }) hpaired htoken
    obtain ⟨q, c, k, hq⟩ := swapFailed_eq 1 r b (s := reclaim i { s with tb := tb })
      (by rw [hw]; exact hx.trans hwaits.2)
    have hfail := swapFailAt_handed (t := t) hswap hat hsheaf hclaim
    rw [htb, hq, hw] at hfail
    refine ⟨_, congrArg Host.Outcome.next ((congrArg settle hfail).trans (settle_nothingWaits ?_)), rfl, hback, rfl, rfl, rfl,
      rfl, rfl⟩
    exact ⟨hwaits.1, hx.trans hwaits.2⟩
  · obtain ⟨b, hb⟩ := accept_swapRoles (s := { s with pair := { s.pair with alone := false } }) hflight hplain hop hprot
      hpaired htoken hstep hidle
    have hack := (partnerAck_waiting hflight hlocal honline hstage).trans hb
    refine ⟨_, congrArg Host.Outcome.next ((congrArg settle hack).trans (settle_alone hbells rfl ?_)), rfl, rfl, rfl, rfl, rfl,
      rfl, rfl, rfl⟩
    exact fun _ => nofun

end Sys2Proof.Machine.PairProofs
end

section
/-!
SUPPORT. Commands of a pair at the standby, and without it (13_redundancy.md R294; 16_mailbox.md R337).
-/
namespace Sys2Proof.Machine.PairProofs
open Sys2Proof.Safety Sys2Proof.Machine.SheafProofs

/-- A command of the token holder as the standby keeps it while the holder executes it (R294). -/
def mirrored (c : Submit) (op : Half) (len : Nat) (q : Quad) : Inflight :=
  ⟨c.slot, op, c.flags, c.hostSeq, slice c.payload 0 len, q, .running, true, false⟩

/-- The standby's journal takes a command of the token holder that it is not to execute; that ENGINE_SEQ becomes the larger of
the two, and the buffer comes into host memory, are the model's choices (R294, R337; logs 63, 68). -/
theorem mirrorCommand_waits {c : Submit} {op : Half} {q : Quad} {g : Nat} {s : State} {r : CmdSpec}
    (hflight : s.pf0.inflight = []) (hmirror : anyMirror s = true) (hnew : hasCompletion s .pf0 c.hostSeq = false)
    (hflag : partnerFlag c.flags = false) (hspec : commandSpec op = some r) (hlocal : r.mirrored = false) :
    mirrorCommand c op q g s = { s with
      hostMem := writtenMem c r.desc s.hostMem
      store := { s.store with engineSeq := if s.store.engineSeq < q then q else s.store.engineSeq }
      pf0 := { s.pf0 with
        nextSeq := c.hostSeq + 1
        inflight := [{ mirrored c op r.len q with stage := .atPartner }] } } := by
  unfold mirrorCommand
  rw [hspec]
  dsimp only
  rw [if_neg (by simp [hmirror, hnew, hflight]), if_neg (by simp [hlocal, hflag])]
  refine (setStage_alone (e := mirrored c op r.len q) ?_ _).trans ?_
  · cases r.desc <;> simp [addInflight, State.setView, State.view, hflight, mirrored]
  · cases r.desc <;> rfl

/-- A completion of one of the last 64 accepted commands comes first in the journal (R337). -/
theorem journalDone_newest {c : Completed} {s : State} (h : s.pf0.nextSeq.toNat ≤ c.hostSeq.toNat + 64) :
    ∃ l, journalDone .pf0 c s = { s with pf0 := { s.pf0 with completed := c :: l } } := by
  unfold journalDone State.view State.setView
  dsimp only
  rw [List.filter_cons_of_pos (by simpa using h)]
  exact ⟨_, rfl⟩

/-- With no command in flight the token holder's completion is journaled and ends nothing (R337). -/
theorem mirrorDone_journals {c : Submit} {op : Half} {q : Quad} {d : PairDone} {s : State} (hflight : s.pf0.inflight = [])
    (hwindow : s.pf0.nextSeq.toNat ≤ c.hostSeq.toNat + 64) :
    ∃ l, mirrorDone c op q d s = { s with pf0 := { s.pf0 with
      completed := ⟨c.hostSeq, op, d.status, d.cflags, q, d.result⟩ :: l } } := by
  obtain ⟨l, hl⟩ := journalDone_newest (c := ⟨c.hostSeq, op, d.status, d.cflags, q, d.result⟩) hwindow
  refine ⟨l, ?_⟩
  simp [mirrorDone, hl, findInflight, State.view, hflight]

/-- What the pair link brings reaches the journal of a paired engine whose mailbox serves (R294, R337). -/
theorem pairMirror_command {c : Submit} {op : Half} {q : Quad} {g : Nat} {s : State} (hpaired : paired s = true)
    (honline : s.power.online = true) (hpfail : s.power.pfail = false) (htoken : s.pair.token = false) :
    pairMirror c op q g none s = mirrorCommand c op q g s := by
  unfold pairMirror
  rw [if_neg (by simp [hpaired, honline, hpfail])]
  exact if_neg (by simp [htoken])

theorem pairMirror_completion {c : Submit} {op : Half} {q : Quad} {g : Nat} {d : PairDone} {s : State}
    (hpaired : paired s = true) (honline : s.power.online = true) (hpfail : s.power.pfail = false) :
    pairMirror c op q g (some d) s = mirrorDone c op q d s := by
  unfold pairMirror
  rw [if_neg (by simp [hpaired, honline, hpfail])]

/-- The Tally entry of a run of commands accepted alone (R294). -/
theorem markAlone_eq (h : Quad) (s : State) :
    markAlone h s = { (if s.pair.alone then s else tally 0x0A01 [h] s) with
      pair := { s.pair with alone := true, inStep := false, agreeing := 0 } } := by
  obtain ⟨q, c, k, hq⟩ := tally_eq 0x0A01 [h] s
  unfold markAlone
  dsimp only
  split
  · rfl
  · rw [hq]

/-- A MANUAL_TRIGGER that is accepted while no change waits is held for the third sheaf (R27, R241). -/
theorem accept_manualTrigger {e : Inflight} {s : State} (hflight : s.pf0.inflight = [e]) (hplain : e.flags = 0)
    (hop : e.opcode = 0x0404) (hprot : protecting s = true) (hno : s.cfg.changes = []) (hworks : thresherWorks s = true)
    (hp : leAt e.payload 0 1 ≤ 7) (hen : tgEnabled (tgWords s.cfg.package (leAt e.payload 0 1)) = true) :
    ∃ b, accept .pf0 e s = { withChange (s.glb.sheaf + 3) .pf0 e (.manual (leAt e.payload 0 1)) (acceptedState .pf0 e b s) with
      pf0 := { acceptedView .pf0 e s with
        inflight := [{ numbered e s with stage := .awaitBoundary (s.glb.sheaf + 3) }] } } := by
  obtain ⟨b, hb⟩ := accept_alone (c := ⟨0x0404, false, pdStates, true, 4, none, true⟩) hflight hplain (by rw [hop]; rfl)
    (pdStates_protecting hprot) rfl
  refine ⟨b, hb.trans ?_⟩
  have hsoon : effectSheaf .pf0 s.glb.sheaf (acceptedState .pf0 e b s) = s.glb.sheaf + 3 :=
    effectSheaf_first .pf0 (s := acceptedState .pf0 e b s) hno
  rw [runEffect_manualTrigger (e := numbered e s) hop,
    doManualTrigger_holds _ .pf0 (e := numbered e s) (s := acceptedState .pf0 e b s) hworks hp hen, hsoon]
  exact setStage_accepted hflight _ rfl

/-- Settles O46: the standby's journal takes the command or its completion; without the standby the command is accepted alone. -/
theorem pairCommandsReachBothEngines : Obligations.PairCommandsReachBothEngines := by
  refine ⟨fun c op q g s hbells hflight hpaired honline hpfail htoken => ⟨?_, ?_⟩, ?_⟩
  · intro hmirror hnew hflag r hspec hlocal
    refine congrArg Host.Outcome.next ?_
    rw [pairMirror_command hpaired honline hpfail htoken,
      mirrorCommand_waits hflight hmirror hnew hflag hspec hlocal]
    exact settle_alone hbells rfl (fun _ => nofun)
  · intro d hwindow
    obtain ⟨l, hl⟩ := mirrorDone_journals (op := op) (q := q) (d := d) hflight hwindow
    have hmirror := (pairMirror_completion (g := g) hpaired honline hpfail).trans hl
    exact ⟨_, congrArg Host.Outcome.next ((congrArg settle hmirror).trans (settle_nothingWaits ⟨hbells, hflight⟩)), rfl, rfl⟩
  · intro e s hbells hflight hstage hop hlocal hplain _ honline _ _ hprot hno hworks hp hen a j
    have hmark : markAlone e.hostSeq s = { a with pair := { s.pair with alone := true, inStep := false, agreeing := 0 } } :=
      markAlone_eq e.hostSeq s
    obtain ⟨q, c, k, ha⟩ : ∃ q c k, a = { s with tally := q, cnt := c, stk := k } := by
      unfold a
      split
      · exact ⟨_, _, _, rfl⟩
      · exact tally_eq _ _ _
    clear_value a
    subst ha
    obtain ⟨b, hb⟩ := accept_manualTrigger (e := e) (s := markAlone e.hostSeq s) (by rw [hmark]; exact hflight) hplain hop
      (by rw [hmark]; exact hprot) (by rw [hmark]; exact hno) (by rw [hmark]; exact hworks) hp (by rw [hmark]; exact hen)
    have hone : (accept .pf0 e (markAlone e.hostSeq s)).pf0.inflight =
        [{ numbered e (markAlone e.hostSeq s) with stage := .awaitBoundary ((markAlone e.hostSeq s).glb.sheaf + 3) }] := by
      rw [hb]
    have hack := (ackTimeout_waiting hflight hlocal honline hstage hone rfl ⟨hlocal, nofun⟩).trans hb
    rw [hmark] at hack
    refine ⟨_, congrArg Host.Outcome.next ((congrArg settle hack).trans (settle_alone hbells rfl ?_)), rfl, rfl, rfl⟩
    exact fun _ => nofun

end Sys2Proof.Machine.PairProofs
end

section
/-!
SUPPORT. What the answer to a command touches (16_mailbox.md R337, R340), and the ends of self-tests (14_self_test.md R305, R308,
R312, R313).
-/
namespace Sys2Proof.Machine.SelfTestProofs
open Sys2Proof.Safety Sys2Proof.Machine.PairProofs

/-- A state without what the answer to a command touches: the two views, the sticky record and the trace messages (R340). -/
def besidesAnswer (s : State) : State :=
  { s with pf0 := State.reset.pf0, pf1 := State.reset.pf1, stk := State.reset.stk, trace := State.reset.trace }

section
variable (v : View) (e : Inflight) (status cflags : Half) (result : List Byte) (s : State)

@[simp] theorem besidesAnswer_setView (x : ViewState) : besidesAnswer (s.setView v x) = besidesAnswer s := by
  cases v <;> rfl

@[simp] theorem besidesAnswer_traceMsg (t : Nat) (b : List Byte) : besidesAnswer (traceMsg t b s) = besidesAnswer s := rfl

@[simp] theorem besidesAnswer_sticky (r b : Nat) : besidesAnswer (sticky r b s) = besidesAnswer s := by
  have h := congrArg besidesAnswer (sticky_spec r b s)
  exact h

@[simp] theorem besidesAnswer_ite (c : Prop) [Decidable c] (s t : State) :
    besidesAnswer (if c then s else t) = if c then besidesAnswer s else besidesAnswer t := apply_ite besidesAnswer c s t

@[simp] theorem besidesAnswer_postCompletion (slot : Nat) (host engine : Quad) :
    besidesAnswer (postCompletion v slot host status cflags engine result s) = besidesAnswer s := by
  simp [postCompletion]

@[simp] theorem besidesAnswer_setStage (x : Stage) : besidesAnswer (setStage v e x s) = besidesAnswer s := by
  simp [setStage]

@[simp] theorem besidesAnswer_finish : besidesAnswer (finish v e status cflags result s) = besidesAnswer s := by
  simp [finish, dropInflight, journalDone]

@[simp] theorem besidesAnswer_complete : besidesAnswer (complete v e status cflags result s) = besidesAnswer s := by
  simp [complete]

theorem besidesAnswer_answerRun (r : BistRun) : besidesAnswer (answerRun r status result s) = besidesAnswer s := by
  unfold answerRun
  split
  · exact besidesAnswer_complete ..
  · rfl

end

theorem sameProtection_of_besidesAnswer {s t : State} (h : besidesAnswer t = besidesAnswer s) : sameProtection s t := by
  have part {α : Type} (f : State → α) : f (besidesAnswer t) = f (besidesAnswer s) := congrArg f h
  exact ⟨part State.glb, part State.cfg, part State.samp, part State.ing, part State.tb, part State.ldf, part State.zones,
    part State.tenon, part State.insts, part State.results, part State.logic, part State.wires, part State.bi,
    part State.thr, part State.lanes⟩

theorem bistHead_noRun {s : State} (h : s.bist.queue = []) (n : Nat) : bistHead n s = s := by
  cases n with
  | zero => rfl
  | succ n => simp [bistHead, h]

/-- A lane test that is to run and is not refused waits for its boundary (R289, R310). -/
theorem bistHead_laneReady {r : BistRun} {rest : List BistRun} {s : State} (hqueue : s.bist.queue = r :: rest)
    (hstarted : r.started = false) (hwaiting : r.waiting = false) (hclass : bistClass r = 0)
    (hallowed : bistRefused s r = false) (n : Nat) : bistHead n s = s := by
  cases n with
  | zero => rfl
  | succ n => simp [bistHead, hqueue, hstarted, hwaiting, hallowed, hclass]

/-- Whether a lane's test is refused depends on the lanes and its target alone (R289, R309). -/
theorem bistRefused_lane_congr {r q : BistRun} {s t : State} (htarget : q.target = r.target) (hlanes : t.lanes = s.lanes)
    (hclass : bistClass r = 0) : bistRefused t q = bistRefused s r := by
  have hclass' : bistClass q = 0 := by rw [bistClass, htarget, ← bistClass, hclass]
  simp only [bistRefused, hclass, hclass', bistIndex, htarget, laneState, spareLane, hlanes]

/-- The only run of the queue ends: its command is answered, and the queue is empty (R310, R312). -/
theorem endRun_last {r : BistRun} {s : State} (hqueue : s.bist.queue = [r]) (outcome effect : Nat) :
    let t := endRun r outcome effect s
    t.bist.queue = [] ∧ t.lanes = s.lanes ∧ sameProtection s t := by
  have hanswer := besidesAnswer_answerRun 0 (bistResult s r outcome effect) (dropHead s) r
  have hempty : (answerRun r 0 (bistResult s r outcome effect) (dropHead s)).bist.queue = [] := by
    have h := congrArg (fun x : State => x.bist.queue) hanswer
    exact h.trans (by simp [besidesAnswer, dropHead, hqueue])
  rw [endRun, bistHead_noRun hempty]
  have hlanes := congrArg State.lanes hanswer
  exact ⟨hempty, hlanes, sameProtection_of_besidesAnswer (s := dropHead s) hanswer⟩

/-- What becomes readable of a sticky bit depends on the sticky record and on whether boundaries run (R281, R282). -/
theorem sticky_stk_congr {s t : State} (hglb : t.glb = s.glb) (hstk : t.stk = s.stk) (r b : Nat) :
    (sticky r b t).stk = (sticky r b s).stk := by
  simp only [sticky, hglb, hstk, apply_ite State.stk]

/-- A sticky bit that is set changes the sticky record alone (R281). -/
theorem sticky_eq (r b : Nat) (s : State) : ∃ k, sticky r b s = { s with stk := k } := by
  have h := congrArg (fun x : State => { x with stk := (sticky r b s).stk }) (sticky_spec r b s)
  exact ⟨_, h⟩

@[simp] theorem sticky_tally (r b : Nat) (s : State) : (sticky r b s).tally = s.tally := by
  have h := congrArg State.tally (sticky_spec r b s)
  exact h

/-- A run with its measured values (R305, R314). -/
def measured (v : BistValues) (r : BistRun) : BistRun := { r with values := v, runs := r.runs + 1 }

/-- The end of a run as it is reported: its entry, BIST_FAILED where it fails, and the instant from which the re-derivation of
the secrets counts (R308, R313, R314). -/
def runReport (ran : BistRun) (pass : Bool) (s : State) : State :=
  let t := scanEnds (bistEntry ran (boolNat (!pass)) s)
  if pass then t else sticky 3 4 t

/-- The report touches the Tally, its counters, the sticky record and the end of the scan alone (R275, R308). -/
theorem runReport_eq (ran : BistRun) (pass : Bool) (s : State) :
    ∃ q c k, runReport ran pass s =
      { s with tally := q, cnt := c, stk := k, bist := { s.bist with scanEnd := some s.tb.now } } := by
  obtain ⟨q, c, k, hentry⟩ : ∃ q c k, bistEntry ran (boolNat (!pass)) s = { s with tally := q, cnt := c, stk := k } :=
    tally_eq ..
  unfold runReport
  rw [hentry]
  cases pass with
  | true => exact ⟨q, c, k, rfl⟩
  | false =>
    obtain ⟨k', hsticky⟩ := sticky_eq 3 4 (scanEnds { s with tally := q, cnt := c, stk := k })
    exact ⟨q, c, k', hsticky⟩

/-- Where the Tally has room, a run's entry waits at the end of its queue (R273, R314). -/
theorem bistEntry_waits (ran : BistRun) (outcome : Nat) {s : State} (hroom : tallyWaiting s.tally < 1023) :
    ∃ e, bistEntry ran outcome s = { s with tally := { s.tally with queue := s.tally.queue ++ [e] } } ∧
      e.event = 0x0B01 + BitVec.ofNat 16 outcome ∧ e.detail[0]? = some (ran.target.zeroExtend 64) :=
  ⟨_, (tally_spec ..).1 hroom, rfl, rfl⟩

/-- The sticky record and the Tally's queue as a report leaves them where the Tally has room: BIST_FAILED for a failure alone,
and one entry (R273, R313, R314). -/
def reportedIn (ran : BistRun) (pass : Bool) (s : State) (k : Sticky) (q : Tally) : Prop :=
  k = (if pass then s.stk else (sticky 3 4 s).stk) ∧
    ∃ e, q.queue = s.tally.queue ++ [e] ∧ e.event = (if pass then 0x0B01 else 0x0B02) ∧
      e.detail[0]? = some (ran.target.zeroExtend 64)

theorem runReport_waits (ran : BistRun) (pass : Bool) {s : State} (hroom : tallyWaiting s.tally < 1023) :
    reportedIn ran pass s (runReport ran pass s).stk (runReport ran pass s).tally := by
  obtain ⟨e, hentry, hevent, hdetail⟩ := bistEntry_waits ran (boolNat (!pass)) hroom
  unfold runReport
  rw [hentry]
  cases pass with
  | true => exact ⟨rfl, e, rfl, hevent, hdetail⟩
  | false =>
    refine ⟨?_, e, congrArg Tally.queue (sticky_tally 3 4 _), hevent, hdetail⟩
    exact sticky_stk_congr (by rfl) (by rfl) 3 4

/-- The outcome of a lane's run waits for the next boundary (R289). -/
def outcomeWaits (ran : BistRun) (pass : Bool) (s : State) : State :=
  { s with bist := { s.bist with decided := some (ran, pass) } }

/-- A lane's run that ends is reported, and its outcome waits (R289, R305, R313). -/
theorem bistRunEnd_lane {r : BistRun} {rest : List BistRun} {s : State} (v : BistValues) (hqueue : s.bist.queue = r :: rest)
    (hstarted : r.started = true) (hundecided : s.bist.decided = none) (hclass : bistClass r = 0) :
    let pass := decide ((v.misr, v.patterns, v.endToken) = expectedOf s r.target)
    bistRunEnd v s = outcomeWaits (measured v r) pass (runReport (measured v r) pass (setHead (measured v r) s)) := by
  have hclass' : bistClass { r with values := v, runs := r.runs + 1 } = 0 := hclass
  have hpass : ((v.misr, v.patterns, v.endToken) == expectedOf s r.target) =
      decide ((v.misr, v.patterns, v.endToken) = expectedOf s r.target) := beq_eq_decide ..
  simp only [bistRunEnd, hqueue]
  rw [if_neg (by simp [hstarted, hundecided]), hpass, hclass']
  rfl

/-- BIST_RERUN of a lane test that is not refused: it may start from boundary C_(g+1) on, g the sheaf of the last commit
(R312). -/
theorem bistRerun_lane {r : BistRun} {rest : List BistRun} {s : State} (t : Time) (hqueue : s.bist.queue = r :: rest)
    (hwaiting : r.waiting = true) (hcause : r.abortCause = 2 ∨ r.abortCause = 3) (hclass : bistClass r = 0)
    (hstarted : r.started = false) (hallowed : bistRefused s r = false) :
    bistRerun t s = { advance t s with
      power := { s.power with vcoreLow := false, tempHigh := false }
      bist := { s.bist with queue := { r with waiting := false, notBefore := s.glb.sheaf + 1 } :: rest } } := by
  obtain ⟨tb, htime⟩ := advance_eq t s
  unfold bistRerun
  rw [htime]
  dsimp only
  rw [hqueue]
  dsimp only
  rw [if_pos ⟨hwaiting, hcause⟩, bistHead_laneReady (r := { r with waiting := false, notBefore := s.glb.sheaf + 1 })
    (rest := rest) (by simp [setHead, hqueue]) hstarted rfl hclass]
  · simp [setHead, hqueue]
  · exact (bistRefused_lane_congr (r := r) (s := s) rfl rfl hclass).trans hallowed

/-- With no run in the queue no chain shifts, and outside TEST and reset the secrets come back (R308, R393). -/
theorem secretsBack_noRun {s : State} (hqueue : s.bist.queue = []) (htest : s.glb.gstate ≠ .test)
    (hreset : s.power.inReset = false) :
    secretsBack s = { s with bist := { s.bist with
      settingsKey := ownerPackageWhole s, identityKey := !zeroised s, sessionKeys := !zeroised s, scanEnd := none } } := by
  have hshifts : chainShifts s = false := by simp [chainShifts, hqueue]
  exact if_neg (by simp [hshifts, htest, hreset])

/-- Settles O31: a lane's run ends by its report, which touches neither the views nor protection; a rerun that is not
refused stays at the head of the queue; the timeout answers the last run; and without a run no chain shifts. -/
theorem selfTestEnds : Obligations.SelfTestEnds := by
  refine ⟨?_, ?_, ?_, ?_⟩
  · intro v r rest s hqueue hstarted hundecided hclass pass r'
    have hqueue' : (setHead r' s).bist.queue = r' :: rest := by simp [setHead, hqueue]
    have hreported := runReport_waits r' (decide pass) (s := setHead r' s)
    obtain ⟨q, c, k, hreport⟩ := runReport_eq r' (decide pass) (setHead r' s)
    rw [hreport] at hreported
    have hend := (bistRunEnd_lane v hqueue hstarted hundecided hclass).trans
      (congrArg (outcomeWaits r' (decide pass)) hreport)
    have hprotection : sameProtection s (outcomeWaits r' (decide pass)
        { setHead r' s with tally := q, cnt := c, stk := k, bist := { (setHead r' s).bist with scanEnd := some s.tb.now } }) :=
      ⟨rfl, rfl, rfl, rfl, rfl, rfl, rfl, rfl, rfl, rfl, rfl, rfl, rfl, rfl, rfl⟩
    refine ⟨_, congrArg Host.Outcome.next hend, rfl, hqueue', rfl, fun hroom => ?_, rfl, rfl, rfl, hprotection⟩
    obtain ⟨hstk, e, hentry, hevent, hdetail⟩ := hreported hroom
    have hfailed : (sticky 3 4 (setHead r' s)).stk = (sticky 3 4 s).stk := sticky_stk_congr (by rfl) (by rfl) 3 4
    refine ⟨fun hpass => ?_, fun hfail => ?_, e, hentry, ?_, hdetail⟩
    · exact hstk.trans (if_pos (decide_eq_true hpass))
    · exact (hstk.trans (if_neg (by simpa using hfail))).trans hfailed
    · simpa using hevent
  · intro t r rest s hqueue hwaiting hcause hclass hstarted hallowed a
    exact congrArg Host.Outcome.next (bistRerun_lane t hqueue hwaiting hcause hclass hstarted hallowed)
  · intro r s hqueue hruns hstarted
    have hend : bistTimeout s = endRun r 2 s.glb.sheaf s := by
      simp [bistTimeout, hqueue, hruns, hstarted]
    exact ⟨_, congrArg Host.Outcome.next hend, endRun_last hqueue 2 s.glb.sheaf⟩
  · intro s hqueue htest hreset
    exact congrArg Host.Outcome.next (secretsBack_noRun hqueue htest hreset)

end Sys2Proof.Machine.SelfTestProofs
end

section
/-!
SUPPORT. The two host views: one view's state beside the other's, BAR access, and the reads of R321 (15_host_registers.md
R316 to R321).
-/
namespace Sys2Proof.Machine.ViewProofs

@[simp] theorem setView_setView (v : View) (x y : ViewState) (s : State) : (s.setView v x).setView v y = s.setView v y := by
  cases v <;> rfl

@[simp] theorem setView_view (v : View) (s : State) : s.setView v (s.view v) = s := by cases v <;> rfl

theorem setView_comm {v w : View} (h : v ≠ w) (x y : ViewState) (s : State) :
    (s.setView v x).setView w y = (s.setView w y).setView v x := by
  cases v <;> cases w <;> first | rfl | exact absurd rfl h

/-- BAR access of a view depends on the supplies and on its own power state (R316). -/
theorem barOpen_congr {s t : State} {v : View} (hpower : t.power = s.power)
    (hd3 : (t.view v).d3hot = (s.view v).d3hot) : barOpen t v = barOpen s v := by
  simp only [barOpen, hpower, hd3]

theorem barOpen_setView {s : State} {v : View} {x : ViewState} (hd3 : x.d3hot = (s.view v).d3hot) :
    barOpen (s.setView v x) v = barOpen s v :=
  barOpen_congr (setView_power v x s) (by rw [view_setView, if_pos rfl, hd3])

/-- A read of an RL low word, which is never TB_NOW_NS (R321). -/
theorem readWord_low {v : View} {o : Nat} {s : State} (hopen : barOpen s v = true) (hlow : isRlLow o = true) :
    readWord v o s =
      s.setView v
        { s.view v with readData := liveWord s v o, holding := liveWord s v (o + 4), holdingOffset := some o } := by
  have hns : o ≠ 0x5000 := by
    rintro rfl
    exact absurd hlow (by decide)
  simp only [readWord, hopen, hns, hlow, if_true, if_false, Bool.true_eq_false]

/-- A read of the word above the low word that filled the holding register (R321). -/
theorem readWord_high {v : View} {p : Nat} {s : State} (hopen : barOpen s v = true) (hns : p + 4 ≠ 0x5000)
    (hlow : isRlLow (p + 4) = false) (hheld : (s.view v).holdingOffset = some p) :
    readWord v (p + 4) s = s.setView v { s.view v with readData := (s.view v).holding } := by
  have hlatch : (s.view v).holdingOffset = some (p + 4 - 4) ∧ 4 ≤ p + 4 := ⟨hheld, Nat.le_add_left 4 p⟩
  simp only [readWord, hopen, hns, hlow, if_pos hlatch, if_false, Bool.true_eq_false, Bool.false_eq_true]

/-- Any other read returns the live word (R320). -/
theorem readWord_live {v : View} {o : Nat} {s : State} (hopen : barOpen s v = true) (hns : o ≠ 0x5000)
    (hlow : isRlLow o = false) (hheld : ∀ p, (s.view v).holdingOffset = some p → o ≠ p + 4) :
    readWord v o s = s.setView v { s.view v with readData := liveWord s v o } := by
  have hlatch : ¬ ((s.view v).holdingOffset = some (o - 4) ∧ 4 ≤ o) := fun ⟨hp, h4⟩ => hheld _ hp (by omega)
  simp only [readWord, hopen, hns, hlow, if_neg hlatch, if_false, Bool.true_eq_false, Bool.false_eq_true]

/-- Settles O3: the three kinds of read, told apart by the offset and the holding register. -/
theorem rlReadLatchesHighWord : Obligations.RlReadLatchesHighWord := by
  intro v o s hopen hns
  refine congrArg Host.Outcome.next ?_
  cases hlow : isRlLow o with
  | true => rw [readWord_low hopen hlow, if_pos rfl]
  | false =>
    rw [if_neg Bool.false_ne_true]
    by_cases hheld : ∃ p, (s.view v).holdingOffset = some p ∧ o = p + 4
    · rw [if_pos hheld]
      obtain ⟨p, hp, rfl⟩ := hheld
      exact readWord_high hopen hns hlow hp
    · rw [if_neg hheld]
      exact readWord_live hopen hns hlow fun p hp ho => hheld ⟨p, hp, ho⟩

/-- The word above an RL low word is neither an RL low word nor TB_NOW_NS (R321). -/
theorem high_of_isRlLow {o : Nat} (h : isRlLow o = true) : isRlLow (o + 4) = false ∧ o + 4 ≠ 0x5000 := by
  simp only [isRlLow, Bool.or_eq_true, Bool.and_eq_true, beq_iff_eq, decide_eq_true_eq, Bool.or_eq_false_iff,
    Bool.and_eq_false_iff, beq_eq_false_iff_ne, decide_eq_false_iff_not] at h ⊢
  omega

end Sys2Proof.Machine.ViewProofs
end

section
/-!
SUPPORT. What a view's commands read and write: their own view, what both views share, and the time of the last event
(15_host_registers.md R316, R318).
-/
namespace Sys2Proof.Machine.ViewProofs
open Sys2Proof.Safety Sys2Proof.Machine.TimeProofs

/-- A value that does not depend on the state of the view other than v. -/
def OwnTo {α : Type} (v : View) (g : State → α) : Prop := ∀ s w x, v ≠ w → g (s.setView w x) = g s

/-- An event that concerns view v alone: it changes that view and the timebase only, and neither reads nor writes the other
view (R318). -/
structure KeepsApart (v : View) (f : State → State) : Prop where
  other : ∀ s w, v ≠ w → (f s).view w = s.view w
  frame : ∀ s, sameButViews { s with tb := (f s).tb } (f s)
  apart : ∀ s w x, v ≠ w → f (s.setView w x) = (f s).setView w x

section
variable {v : View}

theorem ownTo_view : OwnTo v (fun s => s.view v) := fun s w x h => by simp [h]

theorem OwnTo.map {α β : Type} {g : State → α} (k : α → β) (h : OwnTo v g) : OwnTo v (fun s => k (g s)) :=
  fun s w x hne => congrArg k (h s w x hne)

theorem OwnTo.map₂ {α β γ : Type} {f : State → α} {g : State → β} (k : α → β → γ) (hf : OwnTo v f) (hg : OwnTo v g) :
    OwnTo v (fun s => k (f s) (g s)) :=
  fun s w x hne => congrArg₂ k (hf s w x hne) (hg s w x hne)

theorem ownTo_barOpen : OwnTo v (fun s => barOpen s v) := fun s _ x h =>
  barOpen_congr (setView_power _ x s) (congrArg ViewState.d3hot (ownTo_view s _ x h))

theorem glbReg_setView (w : View) (x : ViewState) (s : State) (n : Nat) : glbReg (s.setView w x) n = glbReg s n := by
  cases w <;> rfl

theorem ownTo_mbxReg (n : Nat) : OwnTo v (fun s => mbxReg s v n) := fun s w x h => by
  have haccepts : pf0Accepts (s.setView w x) = pf0Accepts s := by cases w <;> rfl
  simp [mbxReg, mbxStat, inFlight, haccepts, h]

theorem ownTo_stkReg (n : Nat) : OwnTo v (fun s => stkReg s v n) := fun s w x h => by simp [stkReg, h]

theorem cntReg_setView (w : View) (x : ViewState) (s : State) (n : Nat) : cntReg (s.setView w x) n = cntReg s n := by
  simp [cntReg]

theorem ownTo_tbReg (n : Nat) : OwnTo v (fun s => tbReg s v n) := fun s w x h => by
  have hholdover : tbHoReg (s.setView w x) = tbHoReg s := by cases w <;> rfl
  simp [tbReg, tbStateReg, tbOffsetReg, hholdover, h]

/-- What a view reads depends on its own state and on what both views share (R318, R320). -/
theorem ownTo_liveWord (o : Nat) : OwnTo v (fun s => liveWord s v o) := fun s w x h => by
  have hview := ownTo_view s w x h
  have hmbx := ownTo_mbxReg (v := v) ((o - 0x1000) / 4) s w x h
  have hstk := ownTo_stkReg (v := v) ((o - 0x3000) / 4) s w x h
  have htb := ownTo_tbReg (v := v) ((o - 0x5000) / 4) s w x h
  have hzst : zstWord (s.setView w x) (o - 0x10000) = zstWord s (o - 0x10000) := by simp [zstWord]
  have hdump : dumpWord (s.setView w x) v (o - 0x4000000) = dumpWord s v (o - 0x4000000) := by simp [dumpWord]
  dsimp only at hview hmbx hstk htb ⊢
  simp only [liveWord, glbReg_setView, cntReg_setView, hview, hmbx, hstk, htb, hzst, hdump]

theorem keepsApart_id : KeepsApart v (fun s => s) := ⟨fun _ _ _ => rfl, fun _ => rfl, fun _ _ _ _ => rfl⟩

theorem keepsApart_setView {g : State → ViewState} (h : OwnTo v g) : KeepsApart v (fun s => s.setView v (g s)) where
  other s w hne := by simp [hne.symm]
  frame s := by cases v <;> rfl
  apart s w x hne := by rw [h s w x hne, setView_comm hne]

theorem keepsApart_advance (t : Time) : KeepsApart v (advance t) where
  other s w _ := advance_view t s w
  frame s := by unfold advance; split <;> rfl
  apart s w x _ := by unfold advance; simp only [setView_tb]; split <;> cases w <;> rfl

theorem KeepsApart.comp {f g : State → State} (hf : KeepsApart v f) (hg : KeepsApart v g) :
    KeepsApart v (fun s => f (g s)) where
  other s w hne := (hf.other (g s) w hne).trans (hg.other s w hne)
  frame s := by
    have hfg := hf.frame (g s)
    unfold sameButViews at hfg ⊢
    rw [hfg, hg.frame s]
  apart s w x hne := by rw [hg.apart s w x hne, hf.apart (g s) w x hne]

theorem KeepsApart.ite {c : State → Prop} [DecidablePred c] {f g : State → State} (hc : OwnTo v c)
    (hf : KeepsApart v f) (hg : KeepsApart v g) : KeepsApart v (fun s => if c s then f s else g s) where
  other s w hne := by
    split
    · exact hf.other s w hne
    · exact hg.other s w hne
  frame s := by
    split
    · exact hf.frame s
    · exact hg.frame s
  apart s w x hne := by
    simp only [hc s w x hne]
    split
    · exact hf.apart s w x hne
    · exact hg.apart s w x hne

theorem ownTo_barShut : OwnTo v (fun s => barOpen s v = false) := ownTo_barOpen.map (· = false)

/-- An event that works on its view's own state alone. -/
theorem keepsApart_onView (k : ViewState → ViewState) : KeepsApart v (fun s => s.setView v (k (s.view v))) :=
  keepsApart_setView (ownTo_view.map k)

theorem keepsApart_captureTime (t : Time) : KeepsApart v (captureTime v t) :=
  .ite ownTo_barShut keepsApart_id
    (KeepsApart.comp (f := fun s => s.setView v (captured s.tb.now (s.view v)))
      (keepsApart_setView (OwnTo.map₂ captured (fun s w x _ => congrArg Timebase.now (setView_tb w x s)) ownTo_view))
      (keepsApart_advance t))

theorem keepsApart_captureNow : KeepsApart v (fun s => captureTime v s.tb.now s) where
  other s := (keepsApart_captureTime s.tb.now).other s
  frame s := (keepsApart_captureTime s.tb.now).frame s
  apart s w x hne := by rw [setView_tb, (keepsApart_captureTime s.tb.now).apart s w x hne]

theorem keepsApart_readWord (o : Nat) : KeepsApart v (readWord v o) := by
  have hlatched : OwnTo v (fun s => (s.view v).holdingOffset = some (o - 4) ∧ 4 ≤ o) :=
    ownTo_view.map (fun x => x.holdingOffset = some (o - 4) ∧ 4 ≤ o)
  have hlow : OwnTo v (fun s =>
      { s.view v with readData := liveWord s v o, holding := liveWord s v (o + 4), holdingOffset := some o }) :=
    (ownTo_view.map₂ Prod.mk (ownTo_liveWord o)).map₂
      (fun p h => { p.1 with readData := p.2, holding := h, holdingOffset := some o }) (ownTo_liveWord (o + 4))
  have hlive : OwnTo v (fun s => { s.view v with readData := liveWord s v o }) :=
    ownTo_view.map₂ (fun x r => { x with readData := r }) (ownTo_liveWord o)
  exact .ite ownTo_barShut keepsApart_id <|
    .ite (fun _ _ _ _ => rfl) keepsApart_captureNow <|
    .ite (fun _ _ _ _ => rfl) (keepsApart_setView hlow) <|
    .ite hlatched (keepsApart_onView fun x => { x with readData := x.holding }) (keepsApart_setView hlive)

theorem keepsApart_snapshotWrite (b : Word) : KeepsApart v (snapshotWrite v b) :=
  .ite ownTo_barShut keepsApart_id
    (keepsApart_onView fun x => { x with snpReq := x.snpReq || bit b 0, snpIrq := bit b 1 })

/-- A view once the copy under way, if there is one, has completed (R324). -/
def copied (x : ViewState) : ViewState :=
  match x.snpCopy with
  | none => x
  | some (k, ws) =>
    let y := { x with
      snpImage := ws, snpCopy := none, snpReq := false, snpSheaf := BitVec.ofNat 64 k, snpSeq := x.snpSeq + 1 }
    if y.snpIrq then raiseIn 2 y else y

theorem snapshotDone_eq (v : View) (s : State) : snapshotDone v s = s.setView v (copied (s.view v)) := by
  cases hcopy : (s.view v).snpCopy with
  | none => simp [snapshotDone, copied, hcopy]
  | some p => simp [snapshotDone, copied, hcopy]

theorem keepsApart_snapshotDone : KeepsApart v (snapshotDone v) := by
  rw [funext (snapshotDone_eq v)]
  exact keepsApart_onView copied

theorem keepsApart_drainHeld : KeepsApart v (drainHeld v) :=
  .ite (ownTo_barShut.map₂ (fun p x => p ∨ x.held = []) ownTo_view) keepsApart_id
    (keepsApart_onView fun x =>
      let y := ringDrain x.held.length x
      if y.cplEn && y.cplHead != x.cplHead then raiseIn 0 y else y)

theorem keepsApart_tailWrite (b : Word) : KeepsApart v (tailWrite v b) :=
  .ite (ownTo_barShut.map₂ (fun p x => p ∨ 256 < (x.cplHead - b).toNat) ownTo_view) keepsApart_id
    (keepsApart_drainHeld.comp (keepsApart_onView fun x => { x with cplTail := b }))

theorem keepsApart_msixUnmask (n : Nat) : KeepsApart v (msixUnmask v n) :=
  .ite ownTo_barShut keepsApart_id <|
    .ite (ownTo_view.map fun x => bit x.msixPending n = true)
      (keepsApart_onView fun x => { x with
        msixMask := clearBit x.msixMask n, msixPending := clearBit x.msixPending n, messages := n :: x.messages })
      (keepsApart_onView fun x => { x with msixMask := clearBit x.msixMask n })

theorem keepsApart_flr : KeepsApart v (flr v) := keepsApart_drainHeld.comp (keepsApart_onView flrView)

theorem keepsApart_toD0 : KeepsApart v (toD0 v) :=
  keepsApart_drainHeld.comp (keepsApart_onView fun x => { x with d3hot := false })

/-- Every command of privateTo is an event that concerns that view alone. -/
theorem exec_private {c : Instr} (h : privateTo v c = true) :
    ∃ f, KeepsApart v f ∧ ∀ s, exec c s = .next (f s) := by
  cases c with
  | rlLowRead w o =>
    obtain rfl : w = v := of_decide_eq_true h
    exact ⟨_, keepsApart_readWord o, fun _ => rfl⟩
  | tbNowNsRead w t =>
    obtain rfl : w = v := of_decide_eq_true h
    exact ⟨_, keepsApart_captureTime t, fun _ => rfl⟩
  | snapshotRequest w b =>
    obtain rfl : w = v := of_decide_eq_true h
    exact ⟨_, keepsApart_snapshotWrite b, fun _ => rfl⟩
  | snapshotCopyComplete w =>
    obtain rfl : w = v := of_decide_eq_true h
    exact ⟨_, keepsApart_snapshotDone, fun _ => rfl⟩
  | mbxCplTailWrite w b =>
    obtain rfl : w = v := of_decide_eq_true h
    exact ⟨_, keepsApart_tailWrite b, fun _ => rfl⟩
  | msixUnmask w n =>
    obtain rfl : w = v := of_decide_eq_true h
    exact ⟨_, keepsApart_msixUnmask n, fun _ => rfl⟩
  | functionLevelReset w =>
    obtain rfl : w = v := of_decide_eq_true h
    exact ⟨_, keepsApart_flr, fun _ => rfl⟩
  | d3hotEntry w =>
    obtain rfl : w = v := of_decide_eq_true h
    exact ⟨_, keepsApart_onView fun x => { x with d3hot := true }, fun _ => rfl⟩
  | d0Return w =>
    obtain rfl : w = v := of_decide_eq_true h
    exact ⟨_, keepsApart_toD0, fun _ => rfl⟩
  | busMasterEnableClear w =>
    obtain rfl : w = v := of_decide_eq_true h
    exact ⟨_, keepsApart_onView fun x => { x with busMaster := false }, fun _ => rfl⟩
  | busMasterEnableSet w =>
    obtain rfl : w = v := of_decide_eq_true h
    exact ⟨_, keepsApart_onView fun x => { x with busMaster := true }, fun _ => rfl⟩
  | _ => exact absurd h Bool.false_ne_true

end

/-- Settles O13: a command of privateTo is an event that concerns its view alone. -/
theorem viewsKeepApart : Obligations.ViewsKeepApart := by
  intro v w c x s hne h
  obtain ⟨f, hf, hexec⟩ := exec_private h
  exact ⟨f s, hexec s, hf.other s w hne, hf.frame s, (hexec _).trans (congrArg Host.Outcome.next (hf.apart s w x hne))⟩

/-- Settles O4: the other view's read leaves the holding register, and the register alone answers the high word. -/
theorem rlPairReadsOneValue : Obligations.RlPairReadsOneValue := by
  intro v w o p s t hne hlow hopen
  obtain ⟨hhigh, hns⟩ := high_of_isRlLow hlow
  have ha := readWord_low hopen hlow
  refine ⟨_, _, rfl, by rw [ha]; simp, rfl, fun hview hpower => ⟨_, rfl, ?_⟩⟩
  have hb : (readWord w p (readWord v o s)).view v = (readWord v o s).view v :=
    (keepsApart_readWord p).other _ v hne.symm
  have hframe : (readWord w p (readWord v o s)).power = (readWord v o s).power := by
    rw [(keepsApart_readWord (v := w) p).frame (readWord v o s)]
  rw [hb, ha, view_setView, if_pos rfl] at hview
  rw [hframe, ha, setView_power] at hpower
  have hd3 : (t.view v).d3hot = (s.view v).d3hot := by rw [hview]
  have hopen' : barOpen t v = true := (barOpen_congr hpower hd3).trans hopen
  rw [readWord_high hopen' hns hhigh (congrArg ViewState.holdingOffset hview), view_setView, if_pos rfl, hview]

end Sys2Proof.Machine.ViewProofs
end

section
/-!
SUPPORT. The completion ring: how held entries are posted (15_host_registers.md R316, R323).
-/
namespace Sys2Proof.Machine.ViewProofs

/-- View y is view x after n of its held entries were posted from HEAD on, with or without a message (R319, R323). -/
structure Drained (x y : ViewState) (n : Nat) : Prop where
  head : y.cplHead = x.cplHead + BitVec.ofNat 32 n
  held : y.held = x.held.drop n
  entries : ∀ i < n, FMap.get? y.ring ((x.cplHead.toNat + i) % 256) = x.held[i]?
  others : ∀ j, (∀ i < n, (x.cplHead.toNat + i) % 256 ≠ j) → FMap.get? y.ring j = FMap.get? x.ring j
  frame : { y with
    ring := x.ring, cplHead := x.cplHead, held := x.held, msixPending := x.msixPending, messages := x.messages } = x
  idle : n = 0 → y = x

/-- Posting leaves TAIL to the host, and the slots and the commands to the journal (R333, R337). -/
theorem Drained.kept {x y : ViewState} {n : Nat} (h : Drained x y n) :
    y.cplTail = x.cplTail ∧ y.nextSeq = x.nextSeq ∧ y.inflight = x.inflight ∧ y.slots = x.slots ∧
      y.completed = x.completed := by
  have hkept := congrArg (fun z : ViewState => (z.cplTail, z.nextSeq, z.inflight, z.slots, z.completed)) h.frame
  simpa only [Prod.mk.injEq] using hkept

theorem Drained.refl (x : ViewState) : Drained x x 0 where
  head := (BitVec.add_zero x.cplHead).symm
  held := rfl
  entries _ h := absurd h (Nat.not_lt_zero _)
  others _ _ := rfl
  frame := rfl
  idle _ := rfl

/-- The place of a later entry, counted from HEAD before and after an entry is put. -/
theorem ringPut_place (e : RingEntry) (rest : List RingEntry) (x : ViewState) (i : Nat) :
    ((ringPut e { x with held := rest }).cplHead.toNat + i) % 256 = (x.cplHead.toNat + (i + 1)) % 256 := by
  have hhead : (ringPut e { x with held := rest }).cplHead.toNat = (x.cplHead.toNat + 1) % 4294967296 :=
    BitVec.toNat_add x.cplHead 1#32
  omega

/-- The first held entry is posted, then n more. -/
theorem Drained.cons {x y : ViewState} {e : RingEntry} {rest : List RingEntry} {n : Nat} (hheld : x.held = e :: rest)
    (hn : n < 256) (h : Drained (ringPut e { x with held := rest }) y n) : Drained x y (n + 1) where
  head := by
    rw [h.head, BitVec.ofNat_add, BitVec.add_comm (BitVec.ofNat 32 n), ← BitVec.add_assoc]
    rfl
  held := by
    rw [h.held, hheld]
    rfl
  entries i hi := by
    cases i with
    | zero =>
      have hfirst := h.others (x.cplHead.toNat % 256) fun i hi => by
        rw [ringPut_place]
        omega
      rw [Nat.add_zero, hfirst, hheld]
      simp [ringPut]
    | succ i =>
      have hnext := h.entries i (Nat.lt_of_succ_lt_succ hi)
      rw [ringPut_place] at hnext
      rw [hnext, hheld]
      rfl
  others j hj := by
    rw [h.others j fun i hi => by
      rw [ringPut_place]
      exact hj (i + 1) (Nat.succ_lt_succ hi)]
    have hfirst : x.cplHead.toNat % 256 ≠ j := hj 0 (Nat.succ_pos n)
    simp [ringPut, hfirst]
  frame := by
    have hframe := congrArg (fun z : ViewState => { z with ring := x.ring, cplHead := x.cplHead, held := x.held }) h.frame
    exact hframe
  idle h0 := absurd h0 (Nat.succ_ne_zero n)

theorem raiseIn_cplHead (vec : Nat) (x : ViewState) : (raiseIn vec x).cplHead = x.cplHead := by
  have h := congrArg ViewState.cplHead (raiseIn_spec vec x)
  exact h

theorem raiseIn_held (vec : Nat) (x : ViewState) : (raiseIn vec x).held = x.held := by
  have h := congrArg ViewState.held (raiseIn_spec vec x)
  exact h

theorem raiseIn_ring (vec : Nat) (x : ViewState) : (raiseIn vec x).ring = x.ring := by
  have h := congrArg ViewState.ring (raiseIn_spec vec x)
  exact h

/-- The message that the posting raises touches nothing of the ring (R319). -/
theorem Drained.raise {x y : ViewState} {n : Nat} (h : Drained x y n) (hn : n ≠ 0) (vec : Nat) :
    Drained x (raiseIn vec y) n where
  head := (raiseIn_cplHead vec y).trans h.head
  held := (raiseIn_held vec y).trans h.held
  entries i hi := by rw [raiseIn_ring, h.entries i hi]
  others j hj := by rw [raiseIn_ring, h.others j hj]
  frame := by
    have hraise := congrArg (fun z : ViewState => { z with
      ring := x.ring, cplHead := x.cplHead, held := x.held, msixPending := x.msixPending, messages := x.messages })
      (raiseIn_spec vec y)
    exact hraise.trans h.frame
  idle h0 := absurd h0 hn

theorem ringUsed_ringPut (e : RingEntry) {x : ViewState} (h : ringUsed x < 256) :
    ringUsed (ringPut e x) = ringUsed x + 1 := by
  simp only [ringUsed, ringPut] at h ⊢
  bv_omega

/-- As many held entries are posted as the ring has room for (R323). -/
theorem ringDrain_drained (k : Nat) (x : ViewState) (h : ringUsed x ≤ 256) :
    Drained x (ringDrain k x) (min (min k x.held.length) (256 - ringUsed x)) := by
  induction k generalizing x with
  | zero => simpa [ringDrain] using Drained.refl x
  | succ k ih =>
    rw [ringDrain]
    cases hheld : x.held with
    | nil => simpa using Drained.refl x
    | cons e rest =>
      dsimp only
      split
      · next hfull =>
        rw [Nat.sub_eq_zero_of_le hfull, Nat.min_zero]
        exact Drained.refl x
      · next hroom =>
        have hput : ringUsed (ringPut e { x with held := rest }) = ringUsed x + 1 :=
          ringUsed_ringPut e (x := { x with held := rest }) (Nat.lt_of_not_le hroom)
        have hrest := ih (ringPut e { x with held := rest }) (by omega)
        have hcount : min (min (k + 1) (e :: rest).length) (256 - ringUsed x) =
            min (min k rest.length) (256 - (ringUsed x + 1)) + 1 := by
          rw [List.length_cons]
          omega
        rw [hput] at hrest
        rw [hcount]
        exact Drained.cons hheld (by omega) hrest

/-- What the drain of a view whose BAR is open does (R323). -/
theorem drainHeld_open {v : View} {s : State} (hopen : barOpen s v = true) (hused : ringUsed (s.view v) ≤ 256) :
    ∃ y, drainHeld v s = s.setView v y ∧
      Drained (s.view v) y (min (s.view v).held.length (256 - ringUsed (s.view v))) := by
  have hdrained := ringDrain_drained (s.view v).held.length (s.view v) hused
  rw [Nat.min_self] at hdrained
  unfold drainHeld
  dsimp only
  split
  · next hidle =>
    have hheld : (s.view v).held = [] := by simpa [hopen] using hidle
    refine ⟨s.view v, (setView_view v s).symm, ?_⟩
    rw [hheld, List.length_nil, Nat.zero_min]
    exact Drained.refl _
  · split
    · next hraise =>
      refine ⟨_, rfl, hdrained.raise (fun h0 => ?_) 0⟩
      rw [hdrained.idle h0] at hraise
      simp at hraise
    · exact ⟨_, rfl, hdrained⟩

/-- With no entry held there is nothing to post. -/
theorem drainHeld_empty {v : View} {s : State} (h : (s.view v).held = []) : drainHeld v s = s := if_pos (.inr h)

/-- HEAD − TAIL after n entries more than the ring holds. -/
theorem used_add {h w : Word} {n : Nat} (hn : n ≤ 256 - (h - w).toNat) (hle : (h - w).toNat ≤ 256) :
    (h + BitVec.ofNat 32 n - w).toNat ≤ 256 := by
  bv_omega

/-- Settles O8: a write within the bounds sets TAIL, and the ring is drained from there. -/
theorem cplTailWriteBounds : Obligations.CplTailWriteBounds := by
  intro v w s hopen
  refine ⟨fun hbad => ?_, fun hok => ?_⟩
  · exact congrArg Host.Outcome.next (if_pos (.inr hbad))
  · let x := { s.view v with cplTail := w }
    have hview : (s.setView v x).view v = x := by simp
    have hset : tailWrite v w s = drainHeld v (s.setView v x) := 
      if_neg (not_or.mpr ⟨by simp [hopen], Nat.not_lt.mpr hok⟩)
    have hopen' : barOpen (s.setView v x) v = true := (barOpen_setView (x := x) rfl).trans hopen
    obtain ⟨y, hy, hdrained⟩ := drainHeld_open hopen' (by rw [hview]; exact hok)
    rw [hview] at hdrained
    refine ⟨y, congrArg Host.Outcome.next (hset.trans (hy.trans (setView_setView v x y s))),
      hdrained.kept.1, hdrained.head, hdrained.held, hdrained.entries, ?_, hdrained.idle⟩
    rw [hdrained.head]
    exact used_add (Nat.min_le_right _ _) hok

/-- Settles O10: the reset empties the ring and keeps the held entries, which are then posted from entry 0. -/
theorem heldEntriesPostedAfterFlr : Obligations.HeldEntriesPostedAfterFlr := by
  intro v s hopen
  have hview : (s.setView v (flrView (s.view v))).view v = flrView (s.view v) := by simp
  have hopen' : barOpen (s.setView v (flrView (s.view v))) v = true :=
    (barOpen_setView (x := flrView (s.view v)) rfl).trans hopen
  have hused : ringUsed (flrView (s.view v)) = 0 := by simp [ringUsed, flrView]
  obtain ⟨y, hy, hdrained⟩ := drainHeld_open hopen' (by rw [hview, hused]; exact Nat.zero_le 256)
  rw [hview, hused, Nat.sub_zero] at hdrained
  obtain ⟨htail, hkept⟩ := hdrained.kept
  refine ⟨y, congrArg Host.Outcome.next (hy.trans (setView_setView v _ y s)), htail,
    hdrained.head.trans (BitVec.zero_add _), hdrained.held, fun i hi => ?_, hkept⟩
  have hi' : i < 256 := lt_of_lt_of_le hi (Nat.min_le_right _ _)
  have hentry := hdrained.entries i hi
  rwa [show ((flrView (s.view v)).cplHead.toNat + i) % 256 = i from by
    rw [show (flrView (s.view v)).cplHead.toNat = 0 from rfl, Nat.zero_add, Nat.mod_eq_of_lt hi']] at hentry

end Sys2Proof.Machine.ViewProofs
end

section
/-!
SUPPORT. Snapshots, the events on the PCIe side, and register writes (15_host_registers.md R316 to R320, R324).
-/
namespace Sys2Proof.Machine.ViewProofs

/-- Settles O6: the request writes its two bits; the end of the copy writes the image and its numbers. -/
theorem snapshotRequestAndCopy : Obligations.SnapshotRequestAndCopy := by
  intro v w k ws s
  refine ⟨fun hopen => congrArg Host.Outcome.next (if_neg (by simp [hopen])),
    fun hcopy => congrArg Host.Outcome.next ?_⟩
  rw [snapshotDone_eq, copied, hcopy]

/-- Settles O9: FLR without a held entry only clears, and so does the loss of the link for both views. -/
theorem pcieEventsAndProtection : Obligations.PcieEventsAndProtection := by
  intro v s
  refine ⟨fun hheld => congrArg Host.Outcome.next (drainHeld_empty ?_), ?_⟩
  · rw [view_setView, if_pos rfl]
    exact hheld
  · intro c hc
    rcases List.mem_pair.mp hc with rfl | rfl <;> rfl

/-- Settles O11: with no entry held the returns of power and link post nothing. -/
theorem pciePowerAndMessages : Obligations.PciePowerAndMessages := by
  intro v n s
  refine ⟨rfl, fun hheld => congrArg Host.Outcome.next (drainHeld_empty ?_), rfl, rfl, fun hheld0 hheld1 => ?_,
    fun hopen _ => congrArg Host.Outcome.next ?_⟩
  · rw [view_setView, if_pos rfl]
    exact hheld
  · have h0 : drainHeld .pf0 { s with power := { s.power with linkUp := true } } =
        { s with power := { s.power with linkUp := true } } := drainHeld_empty hheld0
    refine congrArg Host.Outcome.next ?_
    rw [linkBack, h0]
    exact drainHeld_empty hheld1
  · rw [msixUnmask, if_neg (by simp [hopen])]
    dsimp only
    split <;> rfl

/-- A write that is not 4 bytes wide or not aligned is discarded (R317). -/
theorem registerWrite_ignored {v : View} {o n : Nat} {w : Word} {s : State} (h : n ≠ 4 ∨ o % 4 ≠ 0) :
    registerWrite v o n w s = s := if_pos (h.imp_right .inl)

theorem registerWrite_open {v : View} {o : Nat} {w : Word} {s : State} (hopen : barOpen s v = true) (h : o % 4 = 0) :
    registerWrite v o 4 w s = writeWord v o w s := if_neg (by simp [hopen, h])

theorem within_outside {o lo hi : Nat} (h : o < lo ∨ hi < o) : ¬ within o lo hi = true := by
  simp only [within, Bool.and_eq_true, decide_eq_true_eq]
  omega

theorem within_inside {o lo hi : Nat} (hlo : lo ≤ o) (hhi : o ≤ hi) : within o lo hi = true := by
  simp [within, hlo, hhi]

theorem slotCount_le (v : View) : slotCount v ≤ 64 := by cases v <;> decide

/-- The offsets of GLB, CNT, TB, ZST, of the read-only registers of MBX, SNP and STK, and the reserved ones (R320). -/
def ReadOnlyOffset (o : Nat) : Prop :=
  o < 0x1000 ∨ (0x1010 < o ∧ o < 0x2000) ∨ o = 0x1004 ∨ o = 0x100C ∨ (0x2000 < o ∧ o < 0x3000 ∧ o ≠ 0x2010) ∨
    (0x3010 ≤ o ∧ o < 0x3020) ∨ (0x3030 ≤ o ∧ o < 0x8000) ∨ (0xC000 ≤ o ∧ o < 0x100000)

theorem writeWord_readOnly {v : View} {o : Nat} {w : Word} {s : State} (h : ReadOnlyOffset o) : writeWord v o w s = s := by
  have hslots := slotCount_le v
  unfold ReadOnlyOffset at h
  rw [writeWord]
  iterate 5 rw [if_neg (by omega)]
  iterate 4 rw [if_neg (within_outside (by omega))]

theorem writeWord_mbxIrqEn (v : View) (w : Word) (s : State) :
    writeWord v 0x1010 w s = s.setView v { s.view v with cplEn := bit w 0, statEn := bit w 1 } := by
  rw [writeWord, if_neg (by decide), if_neg (by decide), if_pos rfl]

theorem writeWord_snpPage (v : View) (w : Word) (s : State) :
    writeWord v 0x2010 w s = s.setView v { s.view v with snpPage := w.truncate 2 } := by
  rw [writeWord, if_neg (by decide), if_neg (by decide), if_neg (by decide), if_neg (by decide), if_pos rfl]

theorem writeWord_stkIrqEn {v : View} {i : Nat} {w : Word} {s : State} (hi : i < 4) :
    writeWord v (0x3020 + 4 * i) w s =
      s.setView v { s.view v with stkIrqEn := modAt (fun _ => w) i (s.view v).stkIrqEn } := by
  rw [writeWord]
  iterate 5 rw [if_neg (by omega)]
  rw [if_neg (within_outside (by omega)), if_pos (within_inside (by omega) (by omega)),
    show (0x3020 + 4 * i - 0x3020) / 4 = i by omega]

/-- A sticky register is cleared through PF0 only (R318). -/
theorem writeWord_sticky_pf1 {i : Nat} {w : Word} {s : State} (hi : i < 4) : writeWord .pf1 (0x3000 + 4 * i) w s = s := by
  rw [writeWord]
  iterate 5 rw [if_neg (by omega)]
  rw [if_pos (within_inside (by omega) (by omega)), stickyWrite]

/-- An address or data word of the MSI-X table (R315, R319). -/
def MsixWordOffset (o : Nat) : Prop := 0x100000 ≤ o ∧ o ≤ 0x1001FC ∧ (o - 0x100000) % 16 ≠ 12

theorem writeWord_msixTable {v : View} {o : Nat} {w : Word} {s : State} (h : MsixWordOffset o) :
    writeWord v o w s =
      s.setView v { s.view v with msixTable := (s.view v).msixTable.set ((o - 0x100000) / 4) w } := by
  have hslots := slotCount_le v
  obtain ⟨hlo, hhi, hword⟩ := h
  rw [writeWord]
  iterate 5 rw [if_neg (by omega)]
  iterate 3 rw [if_neg (within_outside (by omega))]
  rw [if_pos (within_inside hlo hhi), msixWrite, if_neg hword]

theorem liveWord_msixTable {v : View} {o : Nat} {s : State} (h : MsixWordOffset o) :
    liveWord s v o = FMap.get (s.view v).msixTable 0 ((o - 0x100000) / 4) := by
  obtain ⟨hlo, hhi, hword⟩ := h
  rw [liveWord]
  iterate 12 rw [if_neg (by omega)]
  rw [if_pos (by omega), msixWord, if_pos (by omega), if_neg hword]

/-- Settles O12: the width and the alignment decide first, then the offset. -/
theorem registerWritesOfBar0 : Obligations.RegisterWritesOfBar0 := by
  intro v o n w s
  have hopened (hopen : barOpen s v = true) {p : Nat} (hp : p % 4 = 0) {t : State} (ht : writeWord v p w s = t) :
      exec (.registerWrite v p 4 w) s = .next t :=
    congrArg Host.Outcome.next ((registerWrite_open hopen hp).trans ht)
  refine ⟨fun h => congrArg Host.Outcome.next (registerWrite_ignored h), fun hopen => ⟨?_, ?_, ?_, ?_, ?_⟩, ?_⟩
  · exact hopened hopen rfl (writeWord_mbxIrqEn v w s)
  · exact hopened hopen rfl (writeWord_snpPage v w s)
  · exact fun i hi => hopened hopen (by omega) (writeWord_stkIrqEn hi)
  · intro i hi hword
    have hoffset : MsixWordOffset (0x100000 + 4 * i) := by unfold MsixWordOffset; omega
    refine ⟨_, hopened hopen (by omega) (writeWord_msixTable hoffset), ?_, by simp⟩
    rw [liveWord_msixTable hoffset]
    simp
  · intro ho
    by_cases halign : o % 4 = 0
    · exact hopened hopen halign (writeWord_readOnly ho)
    · exact congrArg Host.Outcome.next (registerWrite_ignored (.inr halign))
  · intro i hi
    refine congrArg Host.Outcome.next ?_
    unfold registerWrite
    split
    · rfl
    · exact writeWord_sticky_pf1 hi

end Sys2Proof.Machine.ViewProofs
end

section
/-!
SUPPORT. The safety invariant through every command (09_trip_path.md R218; 13_redundancy.md R293, R297; 18_startup_power.md R365).
-/
namespace Sys2Proof.Machine.InvariantProofs
open Sys2Proof.Safety

/-- The three ways in which a command keeps the invariant, each for the command's next state. -/
theorem next_inv {s t : State} (i : Invariant s) (h : Host.Outcome.next (φ := Fault) (ρ := Refusal) s = .next t) :
    Invariant t := by
  cases h
  exact i

theorem next_core {s u t : State} (k : core u = core s)
    (h : Host.Outcome.next (φ := Fault) (ρ := Refusal) u = .next t) (i : Invariant s) : Invariant t :=
  next_inv (inv_of_core k i) h

theorem next_keeps {s u t : State} (k : CmdKeeps s u)
    (h : Host.Outcome.next (φ := Fault) (ρ := Refusal) u = .next t) (i : Invariant s) : Invariant t :=
  next_inv (inv_of_keeps k i) h

/-- A command whose condition fails changes nothing. -/
theorem inv_ite {p : Prop} [Decidable p] {a s : State} (h : p → Invariant a) (i : Invariant s) :
    Invariant (if p then a else s) := by
  split
  · next hp => exact h hp
  · exact i

theorem inv_powerUp {f : StartFindings} {s t : State} (h : execPowerUp f s = .next t) (i : Invariant s) : Invariant t := by
  have hreset := (still_assertReset s i.memory).mem
  have hcold := (still_coldState true _ hreset).mem
  unfold execPowerUp at h
  refine next_inv ?_ h
  split
  · refine (still_enterTest _ ?_).inv
    exact hcold
  · exact (still_coldStart true f _ hreset).inv

theorem inv_resetLongHold {s t : State} (h : execResetLongHold s = .next t) (i : Invariant s) : Invariant t := by
  unfold execResetLongHold at h
  refine next_inv (inv_ite (fun _ => ?_) i) h
  exact inv_of_live (s := s) rfl i

theorem inv_activationWarmRestart {f : StartFindings} {s t : State} (h : execActivationWarmRestart f s = .next t)
    (i : Invariant s) : Invariant t := by
  unfold execActivationWarmRestart at h
  refine next_inv (inv_ite (fun _ => inv_warmStart _ _ ?_) i) h
  refine (still_assertReset _ ?_).inv
  exact i.memory

/-- Every command keeps the invariant: those that leave the core alone, those on a host command's way, and those that move
wires, the token or the engine's state. -/
theorem exec_keeps_invariant (c : Instr) (s t : State) (i : Invariant s) (h : exec c s = .next t) : Invariant t := by
  cases c with
  | getInfo c | getCerts c | stageSettings c | commitAtSheaf c | selectGroup c | setLpipe c | loadProgram c
    | paramWrite c | force c | unforce c | restartLogic c | listRecords c | fetchRecord c | releaseRecord c
    | manualTrigger c | fetchTally c | configSnapsets c | timeConfig c | timeStatus c | pairConfig c | swapRoles c
    | runBist c | spotConvert c | calStatus c | installFw c | activateFw c | attest c | setOwnerKey c
    | requireSignedSettings c | fetchDump c | badOpcodeDoorbell c =>
    exact next_keeps (keeps_submit c _ _ s) h i
  | commandAcceptance _ _ _ _ => exact next_keeps ((keeps_acceptance ..).trans (keeps_settle _)) h i
  | pairCommandMirror _ _ _ _ _ => exact next_keeps ((keeps_pairMirror ..).trans (keeps_settle _)) h i
  | pairAckTimeout _ => exact next_keeps ((keeps_ackTimeout ..).trans (keeps_settle _)) h i
  | rlLowRead _ _ => exact next_core (core_readWord ..) h i
  | tbNowNsRead _ _ => exact next_core (core_captureTime ..) h i
  | snapshotRequest _ _ => exact next_core (core_snapshotWrite ..) h i
  | snapshotCopyComplete _ => exact next_core (core_snapshotDone ..) h i
  | stickyW1cWrite _ _ _ => exact next_inv (inv_ite (fun _ => inv_of_core (core_stickyWrite ..) i) i) h
  | mbxCplTailWrite _ _ => exact next_core (core_tailWrite ..) h i
  | msixUnmask _ _ => exact next_core (core_msixUnmask ..) h i
  | registerWrite _ _ _ _ => exact next_keeps (keeps_registerWrite ..) h i
  | functionLevelReset _ => exact next_core (core_flr ..) h i
  | perstNAssert => exact next_core (core_linkLost ..) h i
  | pcieLinkDown => exact next_core (core_linkLost ..) h i
  | d3hotEntry _ => exact next_core (core_toD3 ..) h i
  | d0Return _ => exact next_core (core_toD0 ..) h i
  | busMasterEnableClear _ => exact next_core (core_setBusMaster ..) h i
  | closeDeadline _ => exact next_inv (inv_ite (fun _ => inv_closeSheaf _ s i) i) h
  | laneEvaluationDone _ _ => exact next_core (core_laneDone ..) h i
  | commitInstant _ _ _ => exact next_inv (inv_ite (fun _ => inv_of_core (core_together ..) (inv_commitSheaf _ _ _ s i)) i) h
  | flipComplete _ => exact next_inv (inv_ite (fun _ => inv_flipFails _ s i) (inv_ite (fun _ => inv_flipDone _ s i) i)) h
  | commitFailure _ => exact next_inv (inv_ite (fun _ => inv_flipFails _ s i) i) h
  | tripWireStartStop _ _ => exact next_inv (inv_wireEdge _ _ s i) h
  | readbackWindowEnd _ _ => exact next_inv (inv_readback _ _ s i) h
  | laneKnownAnswerTest _ _ _ _ => exact next_core (core_knownAnswer ..) h i
  | sliceStall _ _ => exact next_core (core_stall ..) h i
  | gleanerCalibrationResult _ _ => exact next_core ((core_calibrationResult ..).trans (core_advance ..)) h i
  | overlapCompare _ _ => exact next_core ((core_overlapResult ..).trans (core_advance ..)) h i
  | vanaDipStart _ => exact next_core (core_vanaStart ..) h i
  | vanaDipEnd _ => exact next_core (core_vanaEnd ..) h i
  | biDebounceChange _ _ _ => exact next_core (core_biChange ..) h i
  | biPairDiscrepancy _ _ => exact next_core (core_pairDiscrepancy ..) h i
  | biPairRecovery _ _ => exact next_core (core_pairRecovery ..) h i
  | definiteTimeOperate _ _ => exact next_core (core_definiteOperate ..) h i
  | resetDelayExpiry _ _ => exact next_core (core_resetExpiry ..) h i
  | inverseTimeOperate _ _ => exact next_core (core_inverseOperate ..) h i
  | autoRecloseTimerExpiry _ _ => exact next_core (core_recloseTimer ..) h i
  | logicTimerExpiry _ => exact next_core (core_timerExpiry ..) h i
  | thresherTimerExpiry _ _ => exact next_core (core_presetReached ..) h i
  | maskViolation _ _ _ => exact next_core (core_maskAct ..) h i
  | tenonSealInExpiry _ => exact next_core (core_sealInExpiry ..) h i
  | backstopDelayExpiry _ => exact next_core (core_backstopExpiry ..) h i
  | portFrameRx _ => exact next_core (core_portFrameIn ..) h i
  | svFrame _ => exact next_core (core_svFrameIn ..) h i
  | svStreamLost _ => exact next_core (core_streamLost ..) h i
  | gooseFrame _ => exact next_core (core_gooseFrameIn ..) h i
  | gooseTalExpiry _ => exact next_core (core_gooseStale ..) h i
  | gooseRetransmit _ => exact next_core (core_retransmit ..) h i
  | prpSupervisionTx _ => exact next_core (core_prpSupervision ..) h i
  | prpNodeExpiry _ _ _ => exact next_core (core_nodeExpiry ..) h i
  | prpLanDown _ _ _ => exact next_core (core_oneLan ..) h i
  | portLinkChange _ _ => exact next_core (core_linkChange ..) h i
  | timedLaunch _ _ _ => exact next_core (core_launch ..) h i
  | syncRx _ => exact next_inv (inv_of_noStep (core_syncIn ..) i) h
  | followUpRx _ => exact next_inv (inv_of_noStep (core_followUpIn ..) i) h
  | announceRx _ => exact next_core (core_announceIn ..) h i
  | pdelayReqRx _ => exact next_core (core_pdelayReqIn ..) h i
  | pdelayRespRx _ => exact next_core (core_pdelayRespIn ..) h i
  | pdelayReqTx _ _ => exact next_core (core_pdelayReqOut ..) h i
  | announceReceiptTimeout _ => exact next_core (core_announceTimeout ..) h i
  | syncLoss _ => exact next_core (core_syncLost ..) h i
  | holdoverExpiry _ => exact next_core (core_holdoverExpired ..) h i
  | ppsInEdge _ => exact next_inv (inv_ppsEdge _ s i) h
  | ppsInLoss _ => exact next_core (core_ppsLost ..) h i
  | ppsOutPulse _ _ => exact next_core (core_ppsOut ..) h i
  | tcxoFail => exact next_inv (inv_ite (fun _ => inv_of_keeps (keeps_settle _) (inv_halt 4 3 [] s i)) i) h
  | ldfFrameRx _ => exact next_core (core_ldfFrameIn ..) h i
  | ldfChannelLoss _ _ _ => exact next_core (core_ldfLoss ..) h i
  | ldfHoldoffEnd _ _ => exact next_core (core_ldfHoldoffOver ..) h i
  | ldfAlignTimeout _ => exact next_core (core_ldfAlignOut ..) h i
  | dovetailSampleRx _ _ _ _ _ _ => exact next_core (core_dovetailIn ..) h i
  | crossTriggerRx _ _ _ _ => exact next_core (core_crossIn ..) h i
  | epochCopyRx _ _ => exact next_core (core_epochCopyIn ..) h i
  | swapNoticeRx _ => exact next_core (core_swapNotice ..) h i
  | dovetailLinkChange _ _ => exact next_core (core_dovetailLink ..) h i
  | releaseClaim _ => exact next_inv (inv_of_keeps (keeps_settle _) (inv_releaseClaimAt _ s i)) h
  | absenceClaim _ => exact next_inv (inv_of_keeps (keeps_settle _) (inv_absenceClaimAt _ s i)) h
  | ilkLineFault _ => exact next_inv (inv_of_keeps (keeps_settle _) (inv_lineFaultAt _ s i)) h
  | roleSwapDue => exact next_core (core_swapDue ..) h i
  | roleSwapFail _ _ => exact next_inv (inv_of_keeps (keeps_settle _) (inv_swapFailAt _ _ s i)) h
  | bistRunEnd _ => exact next_core (core_bistRunEnd ..) h i
  | bistRerun _ => exact next_core (core_bistRerun ..) h i
  | secretsRederived => exact next_core (core_secretsBack ..) h i
  | tallyEntryWritten _ _ => exact next_core (core_tallyWritten ..) h i
  | retainedBatchWritten => exact next_core (core_batchWritten ..) h i
  | recordPersisted _ _ _ => exact next_core (core_persist ..) h i
  | granaryStoreRetry _ _ _ => exact next_core (core_retryStore ..) h i
  | granaryWalk => exact next_core (core_walkLog ..) h i
  | ddrError _ _ _ => exact next_core (core_ddrFault ..) h i
  | watchdogExpiry _ => exact next_inv (inv_ite (fun _ => inv_of_core (core_plainRestart ..) i) i) h
  | supervisorFatalError _ _ => exact next_inv (inv_ite (fun _ => inv_of_core (core_fatalError ..) i) i) h
  | mailboxReturn => exact next_keeps (keeps_mailboxReturns s) h i
  | dumpComplete => exact next_core (core_finishDump ..) h i
  | powerUp _ => exact inv_powerUp h i
  | bootComplete _ _ _ => exact next_inv (inv_ite (fun _ => inv_beginSheaves _ _ _ s i) i) h
  | rstNAssert => exact next_inv (inv_ite (fun _ => (still_assertReset s i.memory).inv) i) h
  | resetLongHold => exact inv_resetLongHold h i
  | rstNRelease _ _ => exact next_inv (inv_ite (fun _ => inv_releaseReset _ _ s i) i) h
  | pfailNAssert => exact next_core (core_powerFails ..) h i
  | flushMarkerVerified => exact next_core (core_flushVerified ..) h i
  | pfailNRelease => exact next_keeps (keeps_powerReturns s) h i
  | supplyOutOfRange => exact next_inv (inv_supplyLeaves s i) h
  | vcoreLow _ => exact next_core (core_vcoreSag ..) h i
  | tempHigh _ => exact next_core (core_overheats ..) h i
  | vidStep _ _ _ => exact next_core (core_vidStep ..) h i
  | lockWaitExpiry _ => exact next_core (core_lockWaitEnds ..) h i
  | activationWarmRestart _ => exact inv_activationWarmRestart h i
  | opsecTick => exact next_core (core_opsecTick ..) h i
  | tamperDetect _ => exact next_core (core_tamper ..) h i
  | tapInstruction _ =>
    refine next_inv ?_ h
    exact inv_of_live (s := s) rfl i
  | supervisorMemoryError _ => exact next_inv (inv_ite (fun _ => inv_of_core (core_plainRestart ..) i) i) h
  | epochAcknowledgement _ => exact next_core (core_epochAck ..) h i
  | pairCommandAck _ _ => exact next_keeps ((keeps_partnerAck ..).trans (keeps_settle _)) h i
  | commandExecutionEnd _ _ => exact next_keeps ((keeps_executionEnd ..).trans (keeps_settle _)) h i
  | busMasterEnableSet _ => exact next_core (core_setBusMaster ..) h i
  | perstNRelease => exact next_core (core_linkBack ..) h i
  | installResumeTimeout => exact next_keeps ((keeps_settle _).after (core_installTimeout _)) h i
  | bistRerunTimeout => exact next_core (core_bistTimeout ..) h i
  | backupLatchPowerLoss => exact next_core (core_latchLost ..) h i

theorem reset_meets_invariant : Invariant State.reset :=
  Quiet.inv ⟨fun _ _ h => absurd h (List.not_mem_nil), rfl⟩ rfl

/-- Settles O59: no wire is listed at reset, no token held, no byte of host memory written. -/
theorem resetMeetsInvariant : Obligations.ResetMeetsInvariant := reset_meets_invariant

/-- Settles O1: the two branches of step, by the queue. -/
theorem stepRunsFrontCommand : Obligations.StepRunsFrontCommand := by
  intro s
  refine ⟨fun c rest h => ?_, fun h => ?_⟩
  · rw [step, h]
  · rw [step, h]

/-- Settles O60: an idle step keeps the state; any other is exec of the front command, and the queue is no part of the invariant. -/
theorem stepKeepsInvariant : Obligations.StepKeepsInvariant := by
  intro s t i h
  obtain ⟨hfront, hidle⟩ := stepRunsFrontCommand s
  cases hq : s.pending with
  | nil =>
    rw [hidle hq] at h
    exact next_inv i h
  | cons c rest =>
    rw [hfront c rest hq] at h
    have hrest : Invariant { s with pending := rest } := inv_of_live (s := s) rfl i
    exact exec_keeps_invariant c _ t hrest h

end Sys2Proof.Machine.InvariantProofs
end

section
/-!
SUPPORT. The registers at reset (15_host_registers.md R320, R322 to R329).
-/
namespace Sys2Proof.Machine.ResetProofs

/-- No counter is listed at reset, so both words of each read 0 (R327). -/
theorem liveWord_reset_counter (v : View) {n : Nat} (hn : n < 512) : liveWord State.reset v (0x4000 + 4 * n) = 0#32 := by
  have hcnt (m : Nat) : FMap.get State.reset.cnt 0 m = 0 := rfl
  rw [liveWord]
  iterate 4 rw [if_neg (by omega)]
  rw [if_pos (by omega), cntReg, hcnt]
  simp [lo32, hi32]

/-- The sticky registers, the first sheaf and the interrupt enables (R326), register by register. -/
theorem liveWord_reset_sticky (v : View) : ∀ n < 12, liveWord State.reset v (0x3000 + 4 * n) = 0#32 := by
  cases v <;> decide

/-- Settles O2: each register of the tables evaluates in either view; the counters go by their number. -/
theorem resetRegisterValues : Obligations.ResetRegisterValues := by
  intro v w
  refine ⟨?identity, ?health, ?mailbox, ?snapshot, liveWord_reset_sticky v, fun n hn => liveWord_reset_counter v hn, ?timebase⟩
  case identity => cases v <;> decide
  case health => cases v <;> decide
  case mailbox => cases v <;> decide
  case snapshot => cases v <;> decide
  case timebase => cases v <;> decide

end Sys2Proof.Machine.ResetProofs
end

section
/-!
SUPPORT. The completion entry (16_mailbox.md R340), and doorbells taken one at a time (R333, R334).
-/
namespace Sys2Proof.Machine.MailboxProofs
open Sys2Proof.Safety Sys2Proof.Machine.PairProofs Sys2Proof.Machine.ViewProofs Sys2Proof.Machine.SelfTestProofs

/-- A view has room for an entry, which its host can be sent at once (R316, R323). -/
structure RingOpen (s : State) (v : View) : Prop where
  linkUp : s.power.linkUp = true
  d0 : (s.view v).d3hot = false
  held : (s.view v).held = []
  room : ringUsed (s.view v) < 256

/-- View y is view x with a completion of slot n posted (R340). -/
structure Posted (n : Nat) (h : Quad) (st cf : Half) (q : Quad) (r : List Byte) (x y : ViewState) : Prop where
  entry : FMap.get? y.ring (x.cplHead.toNat % 256) = some ⟨h, st, n, 0, cf, q.truncate 16⟩
  head : y.cplHead = x.cplHead + 1
  status : (slotOf y n).status = st
  cflags : (slotOf y n).cflags = cf
  engineSeq : (slotOf y n).engineSeq = q
  result : (slotOf y n).payload.take r.length = r
  nextSeq : y.nextSeq = x.nextSeq
  inflight : y.inflight = x.inflight
  completed : y.completed = x.completed

/-- SETTINGS_REJECTED of a 0x02xx status (R352). -/
def rejectSettings (st : Half) (s : State) : State := if st.toNat / 256 = 2 then sticky 0 6 s else s

/-- The state with the observation port as given. -/
def traced (tr : TracePort) (s : State) : State := { s with trace := tr }

theorem sticky_writes (r b : Nat) (s : State) : sticky r b s = { s with stk := (sticky r b s).stk } := by
  have h := congrArg (fun x : State => { x with stk := (sticky r b s).stk }) (sticky_spec r b s)
  exact h

theorem rejectSettings_setView (st : Half) (v : View) (y : ViewState) (tr : TracePort) (s : State) :
    rejectSettings st (traced tr (s.setView v y)) = traced tr ((rejectSettings st s).setView v y) := by
  unfold rejectSettings
  split
  · have hstk := sticky_stk_congr (t := traced tr (s.setView v y)) (setView_glb v y s) (setView_stk v y s) 0 6
    rw [sticky_writes 0 6 s, sticky_writes, hstk]
    cases v <;> rfl
  · rfl

/-- The message that an entry raises changes pending bits and messages alone (R319). -/
theorem raiseIn_eq (n : Nat) (x : ViewState) :
    ∃ p l, raiseIn n x = { x with msixPending := p, messages := l } := by
  have h := congrArg (fun y : ViewState => { y with
    msixPending := (raiseIn n x).msixPending, messages := (raiseIn n x).messages }) (raiseIn_spec n x)
  exact ⟨_, _, h⟩

theorem Posted.raise {n : Nat} {h : Quad} {st cf : Half} {q : Quad} {r : List Byte} {x y : ViewState}
    (hp : Posted n h st cf q r x y) (vec : Nat) : Posted n h st cf q r x (raiseIn vec y) := by
  obtain ⟨p, l, hr⟩ := raiseIn_eq vec y
  rw [hr]
  exact { hp with }

/-- The slot as a completion leaves it (R330, R340). -/
def completedSlot (st cf : Half) (q : Quad) (r : List Byte) (sl : Slot) : Slot :=
  { sl with payload := r ++ (slice sl.payload 0 224).drop r.length, status := st, cflags := cf, engineSeq := q }

/-- A posted entry stands at HEAD, whether or not it raises a message. -/
theorem postIn_posted (n : Nat) (h : Quad) (st cf : Half) (q : Quad) (r : List Byte) {x : ViewState} (hd0 : x.d3hot = false)
    (hheld : x.held = []) (hroom : ringUsed x < 256) :
    Posted n h st cf q r x (postIn true ⟨h, st, n, 0, cf, q.truncate 16⟩
      { x with slots := FMap.set x.slots n (completedSlot st cf q r (slotOf x n)) }) := by
  rw [postIn, if_neg (by
    rintro (hne | hfull | hd3 | hdown)
    · exact hne hheld
    · exact absurd hfull (Nat.not_le_of_lt hroom)
    · exact absurd (hd0.symm.trans hd3) (by decide)
    · exact absurd hdown (by decide))]
  have hput : Posted n h st cf q r x (ringPut ⟨h, st, n, 0, cf, q.truncate 16⟩
      { x with slots := FMap.set x.slots n (completedSlot st cf q r (slotOf x n)) }) := by
    constructor <;> simp [ringPut, slotOf, completedSlot]
  dsimp only
  split
  · exact hput.raise 0
  · exact hput

/-- A completion that finds room is posted; the rest of the view, and all but the sticky record and the trace, stay. -/
theorem postCompletion_open {v : View} {s : State} (n : Nat) (h : Quad) (st cf : Half) (q : Quad) (r : List Byte)
    (hopen : RingOpen s v) :
    ∃ y tr, postCompletion v n h st cf q r s = traced tr ((rejectSettings st s).setView v y) ∧
      Posted n h st cf q r (s.view v) y := by
  have hposted := postIn_posted n h st cf q r hopen.d0 hopen.held hopen.room
  rw [← hopen.linkUp] at hposted
  have hpost : ∃ tr, postCompletion v n h st cf q r s = rejectSettings st (traced tr (s.setView v
      (postIn s.power.linkUp ⟨h, st, n, 0, cf, q.truncate 16⟩
        { s.view v with slots := FMap.set (s.view v).slots n (completedSlot st cf q r (slotOf (s.view v) n)) }))) :=
    ⟨_, rfl⟩
  obtain ⟨tr, htr⟩ := hpost
  exact ⟨_, tr, htr.trans (rejectSettings_setView st v _ tr s), hposted⟩

/-- What the statements say of a posted completion, and that it leaves MBX_NEXT_SEQ, the commands in flight and the journal. -/
theorem Posted.posted {v : View} {n : Nat} {h : Quad} {st cf : Half} {q : Quad} {r : List Byte} {s u : State} {y : ViewState}
    (hp : Posted n h st cf q r (s.view v) y) (hview : u.view v = y) : posted v n h st cf q r s u := by
  subst hview
  exact ⟨hp.entry, hp.head, hp.status, hp.cflags, hp.engineSeq, hp.result⟩

theorem traced_view (v : View) (y : ViewState) (tr : TracePort) (s : State) : (traced tr (s.setView v y)).view v = y := by
  cases v <;> rfl

theorem traced_other {v w : View} (hw : w ≠ v) (y : ViewState) (tr : TracePort) (s : State) :
    (traced tr (s.setView v y)).view w = s.view w := by
  have hview : (traced tr (s.setView v y)).view w = (s.setView v y).view w := by cases w <;> rfl
  rw [hview, view_setView, if_neg hw]

theorem traced_frame (v : View) (y : ViewState) (tr : TracePort) (s : State) :
    let t := traced tr (s.setView v y)
    t = { s with pf0 := t.pf0, pf1 := t.pf1, trace := t.trace } := by
  cases v <;> rfl

/-- With no command's turn come, the supervisor takes the one doorbell that waits, where the mailbox takes doorbells (R334). -/
theorem settle_bell {b : Bell} {s : State} (hbells : s.bells = []) (htakes : takesBells s = true)
    (hquiet : journalBusy s = false) (hturn : readyCommand s .pf0 = none) :
    settle { s with bells := [b] } = takeBell b s := by
  let t : State := { s with bells := [b] }
  have hview (n : Nat) : wakeView .pf0 n t = t := by
    cases n with
    | zero => rfl
    | succ n =>
      have hnone : readyCommand t .pf0 = none := hturn
      rw [wakeView, hnone]
  have hwake : wake t = t := by rw [wake, hview, ite_self]
  have hopen : takesBells t = true ∧ journalBusy t = false := ⟨htakes, hquiet⟩
  have hempty : { t with bells := [] } = s := by
    show { s with bells := [] } = s
    rw [← hbells]
  show takeDoorbells (wake t).bells.length (wake t) = _
  rw [hwake]
  show takeDoorbells 1 t = _
  rw [takeDoorbells, if_pos hopen]
  show takeBell b { t with bells := [] } = _
  rw [hempty]

theorem takesBells_ready {s : State} (honline : s.power.online = true) (hpfail : s.power.pfail = false)
    (hboot : s.glb.gstate ≠ .boot) (htest : s.glb.gstate ≠ .test) : takesBells s = true := by
  simp [takesBells, honline, hpfail, hboot, htest]

/-- A write to MBX_DB rings the doorbell of a slot that is the host's (R323, R333). -/
theorem exec_ring {v : View} {slot : Nat} {s : State} (h : BellReady v slot s) :
    exec (.registerWrite v 0x1000 4 (BitVec.ofNat 32 slot)) s = .next (takeBell ⟨v, slot, false⟩ s) := by
  have hopen : barOpen s v = true := by simp [barOpen, h.linkUp, h.d0, h.noReset]
  have hslot : field (BitVec.ofNat 32 slot) 5 0 = slot := by
    have hcount := slotCount_le v
    have hlt := h.slotOk
    simp only [field, BitVec.toNat_ofNat, Nat.shiftRight_zero]
    omega
  have hmine : ¬ (slotCount v ≤ slot ∨ engineOwns s v slot = true) := by
    rintro (hle | howns)
    · exact absurd h.slotOk (Nat.not_lt.mpr hle)
    · exact absurd (h.owner.symm.trans howns) (by decide)
  have htakes := takesBells_ready h.online h.noPfail h.serving.1 h.serving.2
  refine congrArg Host.Outcome.next ?_
  rw [registerWrite_open hopen rfl, writeWord, if_pos rfl, hslot, ringDoorbell, if_neg hmine, h.bells, h.online]
  exact settle_bell h.bells htakes h.quiet h.noTurn

end Sys2Proof.Machine.MailboxProofs
end

section
/-!
SUPPORT. The checks of a doorbell in their order (16_mailbox.md R334, R335).
-/
namespace Sys2Proof.Machine.MailboxProofs
open Sys2Proof.Safety

/-- The command of a slot as its doorbell takes it (R334, R336). -/
def takenCommand (slot : Nat) (sl : Slot) (r : CmdSpec) : Inflight :=
  ⟨slot, sl.opcode, sl.flags, sl.hostSeq, slice sl.payload 0 r.len, 0, .journaling, false, false⟩

/-- What the judgement of HOST_SEQ makes of a slot (R335). -/
def judged (slot : Nat) (sl : Slot) (r : CmdSpec) : SeqVerdict → BellVerdict
  | .proceed => .journal (takenCommand slot sl r)
  | .fail st => .reject st
  | .replay c => .replay c
  | .pending q => .accepted q

section
variable {s : State} {v : View} {slot : Nat} {r : CmdSpec}

theorem bellChecks_unlisted (hspec : commandSpec (slotOf (s.view v) slot).opcode = none) :
    bellChecks s v slot = .reject 0x0100 := by
  simp [bellChecks, hspec]

theorem bellChecks_forbidden (hspec : commandSpec (slotOf (s.view v) slot).opcode = some r)
    (hperm : permitted s v r (slotOf (s.view v) slot).flags = false) : bellChecks s v slot = .reject 0x0103 := by
  simp [bellChecks, hspec, hperm]

theorem bellChecks_length (hspec : commandSpec (slotOf (s.view v) slot).opcode = some r)
    (hperm : permitted s v r (slotOf (s.view v) slot).flags = true) (hlen : (slotOf (s.view v) slot).len.toNat ≠ r.len) :
    bellChecks s v slot = .reject 0x0101 := by
  simp [bellChecks, hspec, hperm, hlen]

theorem bellChecks_noMirror (hspec : commandSpec (slotOf (s.view v) slot).opcode = some r)
    (hperm : permitted s v r (slotOf (s.view v) slot).flags = true) (hlen : (slotOf (s.view v) slot).len.toNat = r.len)
    (hmirror : anyMirror s = false) (hop : mirrorless (slotOf (s.view v) slot).opcode = false) :
    bellChecks s v slot = .reject 0x0107 := by
  simp [bellChecks, hspec, hperm, hlen, hmirror, hop]

/-- A doorbell that passes the earlier checks is judged by its HOST_SEQ (R335). -/
theorem bellChecks_judged (hspec : commandSpec (slotOf (s.view v) slot).opcode = some r)
    (hperm : permitted s v r (slotOf (s.view v) slot).flags = true) (hlen : (slotOf (s.view v) slot).len.toNat = r.len)
    (hmirror : anyMirror s = true) :
    bellChecks s v slot = judged slot (slotOf (s.view v) slot) r
      (judgeSeq (s.view v) (slotOf (s.view v) slot).opcode (slotOf (s.view v) slot).hostSeq) := by
  rw [bellChecks, hspec]
  dsimp only
  rw [if_neg (by simp [hperm]), if_neg (by simp [hlen]), if_neg (by simp [hmirror])]
  cases judgeSeq (s.view v) (slotOf (s.view v) slot).opcode (slotOf (s.view v) slot).hostSeq <;> rfl

end

theorem rejectSettings_none {st : Half} (h : st.toNat / 256 ≠ 2) (s : State) : rejectSettings st s = s := if_neg h

/-- A doorbell that fails a check completes at once (R334). -/
theorem takeBell_reject {v : View} {slot : Nat} {st : Half} {s : State} (hopen : RingOpen s v)
    (hchecks : bellChecks s v slot = .reject st) (hst : st.toNat / 256 ≠ 2) :
    ∃ y tr, takeBell ⟨v, slot, false⟩ s = traced tr (s.setView v y) ∧
      Posted slot (slotOf (s.view v) slot).hostSeq st 0 0 [] (s.view v) y := by
  obtain ⟨y, tr, hpost, hposted⟩ := postCompletion_open slot (slotOf (s.view v) slot).hostSeq st 0 0 [] hopen
  rw [rejectSettings_none hst] at hpost
  refine ⟨y, tr, ?_, hposted⟩
  rw [takeBell, hchecks]
  exact hpost

theorem ringOpen_of_bellReady {v : View} {slot : Nat} {s : State} (h : BellReady v slot s) : RingOpen s v :=
  ⟨h.linkUp, h.d0, h.held, h.room⟩

/-- An opcode other than the five of R334 needs a mirror. -/
theorem mirrorless_false {op : Half} (h : op ∉ [0x0101, 0x0602, 0x0803, 0x0501, 0x0B01]) : mirrorless op = false := by
  have hne (n : Half) (hn : op ≠ n) : op.toNat ≠ n.toNat := fun he => hn (BitVec.eq_of_toNat_eq he)
  simp only [List.mem_cons, not_or] at h
  obtain ⟨h1, h2, h3, h4, h5, -⟩ := h
  have h1 := hne _ h1
  have h2 := hne _ h2
  have h3 := hne _ h3
  have h4 := hne _ h4
  have h5 := hne _ h5
  simp_all [mirrorless]

/-- A submission to a mailbox that serves it at once: the slot and the buffer written, its doorbell not yet taken (R333). -/
def filled (c : Submit) (op : Half) (o : Option Nat) (s : State) : State :=
  let x := s.view c.view
  State.setView { s with hostMem := writtenMem c o s.hostMem } c.view
    { x with slots := FMap.set x.slots c.slot (writtenSlot c op (slotOf x c.slot)) }

theorem filled_view (c : Submit) (op : Half) (o : Option Nat) (s : State) :
    (filled c op o s).view c.view = { s.view c.view with
      slots := FMap.set (s.view c.view).slots c.slot (writtenSlot c op (slotOf (s.view c.view) c.slot)) } := by
  unfold filled
  cases c.view <;> rfl

theorem filled_slot (c : Submit) (op : Half) (o : Option Nat) (s : State) :
    slotOf ((filled c op o s).view c.view) c.slot = writtenSlot c op (slotOf (s.view c.view) c.slot) := by
  rw [filled_view]
  simp [slotOf]

theorem filled_other {c : Submit} {w : View} (hw : w ≠ c.view) (op : Half) (o : Option Nat) (s : State) :
    (filled c op o s).view w = s.view w := by
  rw [filled, view_setView, if_neg hw]
  cases w <;> rfl

/-- Writing the slot touches the views and host memory alone. -/
theorem filled_frame (c : Submit) (op : Half) (o : Option Nat) (s : State) :
    { filled c op o s with pf0 := s.pf0, pf1 := s.pf1, hostMem := s.hostMem } = s := by
  unfold filled
  cases c.view <;> rfl

theorem filled_ready {c : Submit} (op : Half) (o : Option Nat) {s : State} (h : MailboxReady c.view c.slot s) :
    MailboxReady c.view c.slot (filled c op o s) := by
  obtain ⟨v, slot, flags, hostSeq, len, payload, buffer⟩ := c
  cases v <;> exact ⟨h.online, h.noPfail, h.linkUp, h.noReset, h.d0, h.serving, h.mirror, h.slotOk, h.bells, h.idle0,
    h.idle1, h.held, h.room, h.single⟩

/-- Nothing holds the slot of an idle mailbox, so the host writes it and rings (R330, R333). -/
theorem writeSlot_ready {c : Submit} (op : Half) (o : Option Nat) {s : State} (h : MailboxReady c.view c.slot s) :
    writeSlot c op o s = { filled c op o s with bells := [⟨c.view, c.slot, false⟩] } := by
  have hidle (w : View) : (s.view w).inflight = [] := by
    cases w
    · exact h.idle0
    · exact h.idle1
  have hbar : barOpen s c.view = true := by simp [barOpen, h.linkUp, h.d0, h.noReset]
  have howns : engineOwns s c.view c.slot = false := by simp [engineOwns, h.bells, hidle, h.held]
  have hfree (m : List Host.Cell) :
      ¬ (barOpen { s with hostMem := m } c.view = false ∨ slotCount c.view ≤ c.slot ∨
        engineOwns { s with hostMem := m } c.view c.slot = true) := by
    have hbarM : barOpen { s with hostMem := m } c.view = barOpen s c.view := by cases c.view <;> rfl
    have hownsM : engineOwns { s with hostMem := m } c.view c.slot = engineOwns s c.view c.slot := by cases c.view <;> rfl
    rw [hbarM, hownsM, hbar, howns]
    simpa using h.slotOk
  have hbell : s.bells ++ [⟨c.view, c.slot, !s.power.online⟩] = [⟨c.view, c.slot, false⟩] := by
    rw [h.bells, h.online]
    rfl
  obtain ⟨v, slot, flags, hostSeq, len, payload, buffer⟩ := c
  cases o with
  | none =>
    refine (if_neg (hfree s.hostMem)).trans ?_
    rw [← hbell]
    cases v <;> rfl
  | some o =>
    refine (if_neg (hfree _)).trans ?_
    rw [← hbell]
    cases v <;> rfl

/-- A submission rings its doorbell, which the mailbox takes (R333). -/
theorem submit_ready {c : Submit} (op : Half) (o : Option Nat) {s : State} (h : MailboxReady c.view c.slot s) :
    submit c op o s = takeBell ⟨c.view, c.slot, false⟩ (filled c op o s) := by
  have hready := filled_ready op o h
  have hboot : (filled c op o s).glb.gstate ≠ .boot ∧ (filled c op o s).glb.gstate ≠ .test := by
    rcases hready.serving with hg | hg | hg <;> simp [hg]
  have hquiet : journalBusy (filled c op o s) = false := by
    simp [journalBusy, hready.idle0, hready.idle1]
  have hturn : readyCommand (filled c op o s) .pf0 = none := by
    simp [readyCommand, State.view, hready.idle0]
  rw [submit, writeSlot_ready op o h]
  exact settle_bell hready.bells (takesBells_ready hready.online hready.noPfail hboot.1 hboot.2) hquiet hturn

/-- Each of the 30 host commands submits its opcode with its descriptor (R333, R342). -/
theorem exec_hostCommand {c : Submit} {i : Instr} {op : Half} {o : Option Nat} (h : (i, op, o) ∈ hostCommands c) (s : State) :
    exec i s = .next (submit c op o s) := by
  have hall : ∀ x ∈ hostCommands c, exec x.1 s = .next (submit c x.2.1 x.2.2 s) := by
    simp only [hostCommands, hostCommands1, hostCommands2, List.forall_mem_append, List.forall_mem_cons]
    repeat' constructor
    all_goals exact fun x hx => absurd hx List.not_mem_nil
  exact hall _ h

/-- The one command of an idle view joins its in-flight table. -/
theorem addInflight_filled {c : Submit} (op : Half) (o : Option Nat) (e : Inflight) {s : State}
    (hidle : (s.view c.view).inflight = []) :
    addInflight c.view e (filled c op o s) =
      State.setView { s with hostMem := writtenMem c o s.hostMem } c.view { s.view c.view with
        slots := FMap.set (s.view c.view).slots c.slot (writtenSlot c op (slotOf (s.view c.view) c.slot))
        inflight := [e] } := by
  have hadd : (filled c op o s |>.view c.view).inflight ++ [e] = [e] := by
    rw [filled_view]
    exact congrArg (· ++ [e]) hidle
  rw [addInflight, hadd, filled_view, filled]
  cases c.view <;> rfl

/-- Settles O14: the submission writes the slot, the checks pass, and HOST_SEQ = N sends it to the journal. -/
theorem doorbellTakesCommand : Obligations.DoorbellTakesCommand := by
  intro c i op o r s hi hspec h hlen hflags hboth hseq x sl
  have hready := filled_ready op o h
  have hslot : slotOf ((filled c op o s).view c.view) c.slot = sl := filled_slot c op o s
  have hperm : permitted (filled c op o s) c.view r (slotOf ((filled c op o s).view c.view) c.slot).flags = true := by
    have hzero : sl.flags = 0 := hflags
    rw [hslot, hzero]
    cases hv : c.view with
    | pf0 => simp [permitted, pf0Accepts, hready.single, partnerFlag]
    | pf1 => simp [permitted, hboth hv, partnerFlag]
  have hview := filled_view c op o s
  have hproceed : judgeSeq ((filled c op o s).view c.view) sl.opcode sl.hostSeq = .proceed := by
    have hN : sl.hostSeq = ((filled c op o s).view c.view).nextSeq := by rw [hview]; exact hseq
    rw [hN, judgeSeq]
    exact if_pos rfl
  have hchecks := bellChecks_judged (r := r) (by rw [hslot]; exact hspec) hperm (by rw [hslot]; exact hlen) hready.mirror
  rw [hslot, hproceed] at hchecks
  have htaken : takenCommand c.slot sl r =
      ⟨c.slot, op, 0, c.hostSeq, slice sl.payload 0 r.len, 0, .journaling, false, false⟩ := by
    rw [takenCommand, ← hflags]
    rfl
  rw [exec_hostCommand hi, submit_ready op o h, takeBell, hchecks]
  have hidle : (s.view c.view).inflight = [] := by
    cases hv : c.view
    · exact h.idle0
    · exact h.idle1
  refine congrArg Host.Outcome.next ?_
  rw [← htaken]
  exact addInflight_filled op o _ hidle

/-- A doorbell whose checks fail with a status outside 0x02xx: completed at once, all else but the trace kept (R334). -/
theorem refused_of_reject {v : View} {slot : Nat} {st : Half} {s : State} (h : BellReady v slot s)
    (hchecks : bellChecks s v slot = .reject st) (hst : st.toNat / 256 ≠ 2) :
    ∃ t, exec (.registerWrite v 0x1000 4 (BitVec.ofNat 32 slot)) s = .next t ∧
      posted v slot (slotOf (s.view v) slot).hostSeq st 0 0 [] s t ∧ (t.view v).nextSeq = (s.view v).nextSeq ∧
      (t.view v).inflight = (s.view v).inflight ∧ (t.view v).completed = (s.view v).completed ∧
      (∀ w, w ≠ v → t.view w = s.view w) ∧ t = { s with pf0 := t.pf0, pf1 := t.pf1, trace := t.trace } := by
  obtain ⟨y, tr, htake, hposted⟩ := takeBell_reject (ringOpen_of_bellReady h) hchecks hst
  have hview := traced_view v y tr s
  refine ⟨traced tr (s.setView v y), ?_, hposted.posted hview, ?_, ?_, ?_, fun w hw => traced_other hw y tr s,
    traced_frame v y tr s⟩
  · rw [exec_ring h, htake]
  · rw [hview]; exact hposted.nextSeq
  · rw [hview]; exact hposted.inflight
  · rw [hview]; exact hposted.completed

/-- BAD_OPCODE_DOORBELL writes the slot and rings; the opcode fails the first check (R334). -/
theorem badOpcode_refused {c : Submit} {op : Half} {s : State} (h : MailboxReady c.view c.slot s)
    (hspec : commandSpec op = none) :
    ∃ t, exec (.badOpcodeDoorbell c op) s = .next t ∧
      posted c.view c.slot c.hostSeq 0x0100 0 0 [] s t ∧ (t.view c.view).nextSeq = (s.view c.view).nextSeq ∧
      (t.view c.view).inflight = [] ∧ (∀ w, w ≠ c.view → t.view w = s.view w) ∧
      t = { s with pf0 := t.pf0, pf1 := t.pf1, trace := t.trace } := by
  have hready := filled_ready op none h
  have hslot := filled_slot c op none s
  have hfilled := filled_view c op none s
  have hchecks : bellChecks (filled c op none s) c.view c.slot = .reject 0x0100 :=
    bellChecks_unlisted (by rw [hslot]; exact hspec)
  obtain ⟨y, tr, htake, hposted⟩ := takeBell_reject ⟨hready.linkUp, hready.d0, hready.held, hready.room⟩ hchecks (by decide)
  rw [hslot] at hposted
  have hview := traced_view c.view y tr (filled c op none s)
  have hidle : (s.view c.view).inflight = [] := by
    cases hv : c.view
    · exact h.idle0
    · exact h.idle1
  have hhead : ((filled c op none s).view c.view).cplHead = (s.view c.view).cplHead := by rw [hfilled]
  have hat := hposted.posted hview
  unfold Safety.posted at hat
  rw [hhead] at hat
  refine ⟨traced tr ((filled c op none s).setView c.view y), ?_, hat, ?_, ?_, fun w hw => ?_, ?_⟩
  · show Host.Outcome.next (submit c op none s) = _
    rw [submit_ready op none h, htake]
  · rw [hview, hposted.nextSeq, hfilled]
  · rw [hview, hposted.inflight, hfilled]
    exact hidle
  · rw [traced_other hw, filled_other hw]
  · rw [traced_frame, filled]
    cases c.view <;> rfl

/-- Settles O15: each failing check rejects the doorbell with its own status. -/
theorem doorbellChecksRefuse : Obligations.DoorbellChecksRefuse := by
  refine ⟨fun v slot s h => ?_, fun c op s h hspec => badOpcode_refused h hspec⟩
  intro sl refused
  refine ⟨fun hspec => refused_of_reject h (bellChecks_unlisted hspec) (by decide), fun r hspec => ⟨fun hperm => ?_,
    fun hperm hlen => ?_, fun hperm hlen hmirror hop => ?_⟩⟩
  · exact refused_of_reject h (bellChecks_forbidden hspec hperm) (by decide)
  · exact refused_of_reject h (bellChecks_length hspec hperm hlen) (by decide)
  · exact refused_of_reject h (bellChecks_noMirror hspec hperm hlen hmirror (mirrorless_false hop)) (by decide)

end Sys2Proof.Machine.MailboxProofs
end

section
/-!
SUPPORT. HOST_SEQ judged against MBX_NEXT_SEQ (16_mailbox.md R335).
-/
namespace Sys2Proof.Machine.MailboxProofs
open Sys2Proof.Safety Sys2Proof.Machine.SelfTestProofs

section
variable {x : ViewState} {op : Half} {h : Quad}

theorem judgeSeq_above (hlt : x.nextSeq.toNat < h.toNat) : judgeSeq x op h = .fail 0x0102 := by
  rw [judgeSeq, if_neg (by omega), if_pos hlt]

theorem judgeSeq_stale (hlt : h.toNat + 64 < x.nextSeq.toNat) : judgeSeq x op h = .fail 0x0106 := by
  rw [judgeSeq, if_neg (by omega), if_neg (by omega), if_pos hlt]

section
variable (hwindow : x.nextSeq.toNat ≤ h.toNat + 64) (hbelow : h.toNat < x.nextSeq.toNat)
include hwindow hbelow

/-- A number of the window whose completion is stored (R335). -/
theorem judgeSeq_completed {d : Completed} (hd : x.completed.find? (fun c => c.hostSeq == h) = some d) :
    judgeSeq x op h = if d.opcode = op then .replay d else .fail 0x0105 := by
  rw [judgeSeq, if_neg (by omega), if_neg (by omega), if_neg (by omega), hd]

/-- A number of the window that is accepted and not completed, or of no command (R335). -/
theorem judgeSeq_accepted {e : Inflight} (hd : x.completed.find? (fun c => c.hostSeq == h) = none)
    (he : x.inflight.find? (fun e => e.hostSeq == h && e.engineSeq != 0) = some e) :
    judgeSeq x op h = if e.opcode = op then .pending e.engineSeq else .fail 0x0105 := by
  rw [judgeSeq, if_neg (by omega), if_neg (by omega), if_neg (by omega), hd, he]

end
end

theorem sticky_view (r b : Nat) (v : View) (s : State) : (sticky r b s).view v = s.view v := by
  rw [sticky_writes]
  cases v <;> rfl

/-- A duplicate answered: CNT_MBX_REPLAY and JOURNAL_REPLAY beside the completion (R335). -/
def duplicate (s : State) : State := sticky 2 9 (count 184 1 s)

theorem duplicate_view (v : View) (s : State) : (duplicate s).view v = s.view v := by
  rw [duplicate, sticky_view]
  cases v <;> rfl

theorem duplicate_cnt (s : State) : FMap.get (duplicate s).cnt 0 184 = FMap.get s.cnt 0 184 + 1 := by
  rw [duplicate, sticky_writes]
  exact ((count_spec 184 1 s).1 184).trans (if_pos rfl)

section
variable {v : View} {slot : Nat} {s : State} (hopen : RingOpen s v)
include hopen

/-- A stored completion is posted again with REPLAY (R335). -/
theorem takeBell_replay {d : Completed} (hchecks : bellChecks s v slot = .replay d) :
    let t := takeBell ⟨v, slot, false⟩ s
    Posted slot d.hostSeq d.status (d.cflags ||| 1) d.engineSeq d.result (s.view v) (t.view v) ∧
      FMap.get t.cnt 0 184 = FMap.get s.cnt 0 184 + 1 ∧ (d.status.toNat / 256 ≠ 2 → t.stk = (sticky 2 9 s).stk) := by
  obtain ⟨y, tr, hpost, hposted⟩ :=
    postCompletion_open slot d.hostSeq d.status (d.cflags ||| 1) d.engineSeq d.result hopen
  have htake : takeBell ⟨v, slot, false⟩ s = duplicate (traced tr ((rejectSettings d.status s).setView v y)) := by
    rw [takeBell, hchecks, ← hpost]
    rfl
  intro t
  have ht : t = duplicate (traced tr ((rejectSettings d.status s).setView v y)) := htake
  refine ⟨?_, ?_, fun hst => ?_⟩
  · rw [ht, duplicate_view, traced_view]
    exact hposted
  · rw [ht, duplicate_cnt]
    have hcnt : (rejectSettings d.status s).cnt = s.cnt := by
      unfold rejectSettings
      split
      · rw [sticky_writes]
      · rfl
    rw [← hcnt]
    cases v <;> rfl
  · rw [ht, rejectSettings_none hst, duplicate]
    exact sticky_stk_congr (t := count 184 1 (traced tr (s.setView v y))) (setView_glb v y s) (setView_stk v y s) 2 9

/-- A command that is accepted and not completed is answered ACCEPTED with REPLAY (R335). -/
theorem takeBell_accepted {q : Quad} (hchecks : bellChecks s v slot = .accepted q) :
    Posted slot (slotOf (s.view v) slot).hostSeq 0x0001 1 q [] (s.view v) ((takeBell ⟨v, slot, false⟩ s).view v) := by
  obtain ⟨y, tr, hpost, hposted⟩ := postCompletion_open slot (slotOf (s.view v) slot).hostSeq 0x0001 1 q [] hopen
  have htake : takeBell ⟨v, slot, false⟩ s = duplicate (traced tr ((rejectSettings 0x0001 s).setView v y)) := by
    rw [takeBell, hchecks, ← hpost]
    rfl
  rw [htake, duplicate_view, traced_view]
  exact hposted

theorem takeBell_fail {st : Half} (hchecks : bellChecks s v slot = .reject st) :
    Posted slot (slotOf (s.view v) slot).hostSeq st 0 0 [] (s.view v) ((takeBell ⟨v, slot, false⟩ s).view v) := by
  obtain ⟨y, tr, hpost, hposted⟩ := postCompletion_open slot (slotOf (s.view v) slot).hostSeq st 0 0 [] hopen
  have htake : takeBell ⟨v, slot, false⟩ s = traced tr ((rejectSettings st s).setView v y) := by
    rw [takeBell, hchecks, ← hpost]
    rfl
  rw [htake, traced_view]
  exact hposted

/-- Every verdict but the first leaves N and the commands in flight. -/
theorem takeBell_other {sl : Slot} {r : CmdSpec} {w : SeqVerdict} (hchecks : bellChecks s v slot = judged slot sl r w)
    (hw : w ≠ .proceed) :
    let t := takeBell ⟨v, slot, false⟩ s
    (t.view v).nextSeq = (s.view v).nextSeq ∧ (t.view v).inflight = (s.view v).inflight := by
  cases w with
  | proceed => exact absurd rfl hw
  | fail st => exact ⟨(takeBell_fail hopen hchecks).nextSeq, (takeBell_fail hopen hchecks).inflight⟩
  | replay d => exact ⟨(takeBell_replay hopen hchecks).1.nextSeq, (takeBell_replay hopen hchecks).1.inflight⟩
  | pending q => exact ⟨(takeBell_accepted hopen hchecks).nextSeq, (takeBell_accepted hopen hchecks).inflight⟩

end

theorem judgeSeq_proceed {x : ViewState} {op : Half} {h : Quad} : judgeSeq x op h = .proceed ↔ h = x.nextSeq := by
  refine ⟨fun hv => ?_, fun he => if_pos (congrArg BitVec.toNat he)⟩
  rw [judgeSeq] at hv
  split at hv
  · next he => exact BitVec.eq_of_toNat_eq he
  · repeat' (split at hv)
    all_goals cases hv

/-- HOST_SEQ = N: the command goes to the journal and nothing is posted (R335). -/
theorem takeBell_journal {v : View} {slot : Nat} {e : Inflight} {s : State} (hchecks : bellChecks s v slot = .journal e) :
    (takeBell ⟨v, slot, false⟩ s).view v = { s.view v with inflight := (s.view v).inflight ++ [e] } := by
  rw [takeBell, hchecks]
  cases v <;> rfl

/-- Settles O16: the ranges of HOST_SEQ about N, then what the journal holds of the number. -/
theorem hostSeqJudged : Obligations.HostSeqJudged := by
  refine ⟨fun v => by cases v <;> rfl, fun v slot r s hready => ?_⟩
  intro x sl h hspec hperm hlen hmirror hone
  have hopen := ringOpen_of_bellReady hready
  have hchecks : bellChecks s v slot = judged slot sl r (judgeSeq x sl.opcode h) := bellChecks_judged hspec hperm hlen hmirror
  have hgives {w : BellVerdict} {u : SeqVerdict} (hu : judgeSeq x sl.opcode h = u) (hw : judged slot sl r u = w) :
      bellChecks s v slot = w := hchecks.trans (by rw [hu, hw])
  refine ⟨takeBell ⟨v, slot, false⟩ s, exec_ring hready, ?_⟩
  by_cases heq : h = x.nextSeq
  · have hview := takeBell_journal (hgives (judgeSeq_proceed.mpr heq) rfl)
    have hnat : h.toNat = x.nextSeq.toNat := congrArg BitVec.toNat heq
    rw [hview]
    refine ⟨rfl, fun _ => ⟨rfl, rfl⟩, fun hne => absurd heq hne, fun hzero => ?_, fun hlt => ?_, fun hlt => ?_, fun _ hlt => ?_⟩
    · rw [hzero] at hnat
      exact absurd hone (by rw [← hnat]; decide)
    all_goals omega
  · obtain ⟨hN, hflight⟩ := takeBell_other hopen hchecks (fun hp => heq (judgeSeq_proceed.mp hp))
    refine ⟨hN, fun he => absurd he heq, fun _ => hflight, fun _ => hflight,
      fun hlt => (takeBell_fail hopen (hgives (judgeSeq_above hlt) rfl)).posted rfl,
      fun hlt => (takeBell_fail hopen (hgives (judgeSeq_stale hlt) rfl)).posted rfl,
      fun hwindow hbelow => ⟨fun d hd => ⟨fun hop => ?_, fun hop => ?_⟩, fun hd e he => ⟨fun hop => ?_, fun hop => ?_⟩⟩⟩
    · have hseq : d.hostSeq = h := by simpa using List.find?_some hd
      obtain ⟨hp, hcount, hstk⟩ :=
        takeBell_replay hopen (hgives ((judgeSeq_completed hwindow hbelow hd).trans (if_pos hop)) rfl)
      exact ⟨hseq ▸ hp.posted rfl, hcount, hstk⟩
    · exact (takeBell_fail hopen (hgives ((judgeSeq_completed hwindow hbelow hd).trans (if_neg hop)) rfl)).posted rfl
    · exact (takeBell_accepted hopen (hgives ((judgeSeq_accepted hwindow hbelow hd he).trans (if_pos hop)) rfl)).posted rfl
    · exact (takeBell_fail hopen (hgives ((judgeSeq_accepted hwindow hbelow hd he).trans (if_neg hop)) rfl)).posted rfl

end Sys2Proof.Machine.MailboxProofs
end

section
/-!
SUPPORT. The completion of an accepted command that is alone in flight (16_mailbox.md R337, R340), and the end of a long-running
command (R344).
-/
namespace Sys2Proof.Machine.MailboxProofs
open Sys2Proof.Safety Sys2Proof.Machine.PairProofs Sys2Proof.Machine.ViewProofs Sys2Proof.Machine.SelfTestProofs

/-- The sticky record depends on no view. -/
theorem rejectSettings_onView (st : Half) (v : View) (x : ViewState) (s : State) :
    rejectSettings st (s.setView v x) = (rejectSettings st s).setView v x := by
  unfold rejectSettings
  split
  · have hstk := sticky_stk_congr (t := s.setView v x) (setView_glb v x s) (setView_stk v x s) 0 6
    rw [sticky_writes 0 6 s, sticky_writes, hstk]
    cases v <;> rfl
  · rfl

/-- The command leaves the in-flight table and its completion enters the journal (R337). -/
def journaled (e : Inflight) (st cf : Half) (r : List Byte) (x : ViewState) : ViewState :=
  { x with
    inflight := []
    completed := (⟨e.hostSeq, e.opcode, st, cf, e.engineSeq, r⟩ :: x.completed.filter (fun d => d.hostSeq != e.hostSeq)).filter
      (fun d => decide (x.nextSeq.toNat ≤ d.hostSeq.toNat + 64)) }

section
variable {v : View} {e : Inflight} {s : State} (hopen : RingOpen s v) (hflight : (s.view v).inflight = [e])
include hopen hflight

/-- An accepted command of this engine that is alone in flight is journaled and posted. -/
theorem finish_alone (hlocal : e.remote = false) (haccepted : e.engineSeq ≠ 0) (st cf : Half) (r : List Byte) :
    ∃ y tr, finish v e st cf r s = traced tr ((rejectSettings st s).setView v y) ∧
      Posted e.slot e.hostSeq st cf e.engineSeq r (journaled e st cf r (s.view v)) y := by
  let z := journaled e st cf r (s.view v)
  have hdone : journalDone v ⟨e.hostSeq, e.opcode, st, cf, e.engineSeq, r⟩ (dropInflight v e s) = s.setView v z := by
    have hdrop : dropInflight v e s = s.setView v { s.view v with inflight := [] } := by
      rw [dropInflight, hflight]
      simp [sameCommand]
    rw [hdrop, journalDone, view_setView, if_pos rfl, setView_setView]
    rfl
  have hz : RingOpen (s.setView v z) v := by
    have hview : (s.setView v z).view v = z := by rw [view_setView, if_pos rfl]
    exact ⟨by rw [setView_power]; exact hopen.linkUp, by rw [hview]; exact hopen.d0, by rw [hview]; exact hopen.held,
      by rw [hview]; exact hopen.room⟩
  obtain ⟨y, tr, hpost, hposted⟩ := postCompletion_open e.slot e.hostSeq st cf e.engineSeq r hz
  refine ⟨y, tr, ?_, ?_⟩
  · rw [rejectSettings_onView, setView_setView] at hpost
    rw [finish]
    have hlocal' : ¬ e.remote = true := by simp [hlocal]
    rw [if_neg hlocal', if_neg (fun hskip => hskip.elim haccepted (fun hr => hlocal' hr.1)), hdone, hpost]
  · rw [view_setView, if_pos rfl] at hposted
    exact hposted

end

/-- State g differs from s in nothing that the mailbox reads. -/
structure SameMailbox (s g : State) : Prop where
  pf0 : g.pf0 = s.pf0
  pf1 : g.pf1 = s.pf1
  power : g.power = s.power
  bells : g.bells = s.bells
  pair : g.pair = s.pair

theorem SameMailbox.view {s g : State} (h : SameMailbox s g) (v : View) : g.view v = s.view v := by
  cases v
  · exact h.pf0
  · exact h.pf1

theorem SameMailbox.ringOpen {s g : State} {v : View} (h : SameMailbox s g) (ho : RingOpen s v) : RingOpen g v :=
  ⟨by rw [h.power]; exact ho.linkUp, by rw [h.view]; exact ho.d0, by rw [h.view]; exact ho.held, by rw [h.view]; exact ho.room⟩

/-- A local command of an unpaired engine whose mailbox serves is completed at once (R337, R354, R360). -/
theorem complete_single {v : View} {e : Inflight} {s : State} (honline : s.power.online = true)
    (hpfail : s.power.pfail = false) (hsingle : paired s = false) (st cf : Half) (r : List Byte) :
    complete v e st cf r s = finish v e st (withResumed e cf) r s := by
  have hmarks : marksEnded s = false := by simp [marksEnded, hpfail]
  rw [complete]
  rw [if_neg (by simp [honline, hmarks]), if_neg (by simp [hsingle])]

/-- The state after a completion leaves the supervisor nothing to do. -/
theorem settle_completed {v : View} {s : State} {y : ViewState} {tr : TracePort} (hbells : s.bells = [])
    (hy : y.inflight = []) (hother : ∀ w, w ≠ v → (s.view w).inflight = []) :
    settle (traced tr (s.setView v y)) = traced tr (s.setView v y) := by
  refine settle_nothingWaits ⟨?_, ?_⟩
  · exact (setView_bells v y s).trans hbells
  · cases v with
    | pf0 => exact hy
    | pf1 => exact hother .pf0 (by decide)

theorem rejectSettings_frame (st : Half) (s : State) : SameMailbox s (rejectSettings st s) := by
  unfold rejectSettings
  split
  · rw [sticky_writes]
    exact ⟨rfl, rfl, rfl, rfl, rfl⟩
  · exact ⟨rfl, rfl, rfl, rfl, rfl⟩

section
variable {v : View} {e : Inflight} {s : State} (h : Running v e s)
include h

theorem executionEnd_running : executionEnd v ⟨e.slot, false, false⟩ s = endEffect v e s := by
  have hfind : findInflight s v (fun x => x.slot == e.slot && x.remote == false && stageRuns x.stage) = some e := by
    simp [findInflight, h.flight, h.local', h.stage]
  have hbus : ¬ (e.opcode ≠ 0x0901 ∧ e.remote = false ∧ (s.view v).busMaster = false) := by simp [h.busMaster]
  have hmirrors : (if e.opcode = 0x0901 then retireMirrors false false 0 s else s) = s := ite_self s
  unfold executionEnd
  dsimp only
  rw [hfind]
  dsimp only [Option.orElse]
  rw [if_neg (by simp [h.online]), if_neg hbus, hmirrors]

theorem ringOpen_of_running : RingOpen s v := ⟨h.linkUp, h.d0, h.held, h.room⟩

/-- Where the end of a running command completes it in state g, which differs from s in nothing that the mailbox reads, the
statement's endsAs holds with g's effect. -/
theorem endsAs_of_complete {g f : State} {st cf : Half} {r : List Byte} {mem : List Host.Cell} (hop : e.opcode ≠ 0x0802)
    (hend : endEffect v e s = complete v e st cf r g) (hg : SameMailbox s g)
    (hf : rejectSettings st g = { f with hostMem := mem }) : endsAs v e st cf r mem f s := by
  have hcf : withResumed e cf = cf := by rw [withResumed, if_neg hop, h.notResumed, Bool.false_and, if_neg Bool.false_ne_true]
  have hsingle : paired g = false := by
    have hp : paired g = paired s := by simp only [paired, hg.pair]
    exact hp.trans h.single
  have hcomplete := complete_single (v := v) (e := e) (s := g) (by rw [hg.power]; exact h.online)
    (by rw [hg.power]; exact h.noPfail) hsingle st cf r
  have hflight : (g.view v).inflight = [e] := by rw [hg.view]; exact h.flight
  obtain ⟨y, tr, hfinish, hposted⟩ := finish_alone (hg.ringOpen (ringOpen_of_running h)) hflight h.local' h.accepted st cf r
  rw [hg.view] at hposted
  have hreject := rejectSettings_frame st g
  have hother (w : View) : (rejectSettings st g).view w = s.view w := (hreject.view w).trans (hg.view w)
  have hsettle : settle (traced tr ((rejectSettings st g).setView v y)) = traced tr ((rejectSettings st g).setView v y) :=
    settle_completed (hreject.bells.trans (hg.bells.trans h.bells)) hposted.inflight
      (fun w hw => by rw [hother]; exact h.alone w hw)
  have hview := traced_view v y tr (rejectSettings st g)
  refine ⟨traced tr ((rejectSettings st g).setView v y), ?_, ?_, ?_, ?_, fun w hw => ?_, ?_⟩
  · refine congrArg Host.Outcome.next ?_
    rw [executionEnd_running h, hend, hcomplete, hcf, hfinish, hsettle]
  · exact ⟨by rw [hview]; exact hposted.entry, by rw [hview]; exact hposted.head, by rw [hview]; exact hposted.status,
      by rw [hview]; exact hposted.cflags, by rw [hview]; exact hposted.engineSeq, by rw [hview]; exact hposted.result⟩
  · rw [hview]; exact hposted.inflight
  · rw [hview]; exact hposted.nextSeq
  · rw [traced_other hw, hother]
  · rw [traced_frame, hf]

end

end Sys2Proof.Machine.MailboxProofs
end

section
/-!
SUPPORT. The end of each long-running command (16_mailbox.md R344, 11_granary_winnow.md R263, 19_trust.md R385, 20_observation_dump.md R406).
-/
namespace Sys2Proof.Machine.MailboxProofs
open Sys2Proof.Safety Sys2Proof.Machine.PairProofs Sys2Proof.Machine.ViewProofs Sys2Proof.Machine.SelfTestProofs

theorem SameMailbox.refl (s : State) : SameMailbox s s := ⟨rfl, rfl, rfl, rfl, rfl⟩

theorem writeCopy_sameMailbox (f : List Byte × List Byte → List Byte × List Byte) {s g : State} (h : SameMailbox s g) :
    SameMailbox s (writeCopy f g) := by
  rw [writeCopy]
  split
  · exact h
  · exact ⟨h.pf0, h.pf1, h.power, h.bells, h.pair⟩

theorem writeBuffer_sameMailbox (e : Inflight) (o : Nat) (bs : List Byte) (s : State) : SameMailbox s (writeBuffer e o bs s) :=
  ⟨rfl, rfl, rfl, rfl, rfl⟩

theorem writeCopy_hostMem (f : List Byte × List Byte → List Byte × List Byte) (s : State) :
    (writeCopy f s).hostMem = s.hostMem := by
  rw [writeCopy]
  split <;> rfl

theorem sticky_hostMem (r b : Nat) (s : State) : (sticky r b s).hostMem = s.hostMem := by rw [sticky_writes]

theorem rejectSettings_hostMem (st : Half) (s : State) : (rejectSettings st s).hostMem = s.hostMem := by
  unfold rejectSettings
  split
  · exact sticky_hostMem 0 6 s
  · rfl

/-- A state whose host memory is the one given is the state with that memory. -/
theorem withHostMem_self {f : State} {mem : List Host.Cell} (h : f.hostMem = mem) : f = { f with hostMem := mem } := by
  subst h
  rfl

theorem endEffect_fetchDump (v : View) {e : Inflight} (s : State) (hop : e.opcode = 0x0B01) : endEffect v e s = endFetchDump v e s := by
  unfold endEffect
  rw [hop]
  rfl

section
variable {v : View} {e : Inflight} {s : State} (h : Running v e s)
include h

/-- STAGE_SETTINGS ends: a package that passes is staged; a verdict of class 0x02 sets SETTINGS_REJECTED. -/
theorem endsAs_stage (hop : e.opcode = 0x0201) (hfree : stageWaits s = false) :
    let bs := readBuffer e 0 s
    let p := packageOf s bs
    let r := stageVerdict s bs p
    endsAs v e r.1 0 (digestBytes p.digest ++ leBytes 4 r.2) s.hostMem
      (if r.1 = 0 then
        writeCopy (fun c => (bs, c.2)) { s with cfg := { s.cfg with staged := some p, stagedBytes := bs } }
      else if r.1.toNat / 256 = 2 then sticky 0 6 s else s) s := by
  intro bs p r
  have hend : endEffect v e s = complete v e r.1 0 (digestBytes p.digest ++ leBytes 4 r.2) (if r.1 = 0 then
      writeCopy (fun c => (bs, c.2)) { s with cfg := { s.cfg with staged := some p, stagedBytes := bs } } else s) := by
    unfold endEffect endStage
    rw [hop, hfree]
    rfl
  have hne : e.opcode ≠ 0x0802 := by rw [hop]; decide
  by_cases hok : r.1 = 0
  · rw [if_pos hok] at hend ⊢
    refine endsAs_of_complete h hne hend (writeCopy_sameMailbox _ ⟨rfl, rfl, rfl, rfl, rfl⟩) ?_
    rw [rejectSettings_none (by rw [hok]; decide)]
    exact withHostMem_self (writeCopy_hostMem _ _)
  · rw [if_neg hok] at hend ⊢
    exact endsAs_of_complete h hne hend (SameMailbox.refl s) (withHostMem_self (rejectSettings_hostMem r.1 s))

/-- LOAD_PROGRAM ends: a program that passes is staged. -/
theorem endsAs_load (hop : e.opcode = 0x0301) (hfree : emmcBusy s = false) :
    let bs := readBuffer e 0 s
    let r := loadVerdict s bs
    let t := match r.2.2 with
      | some l => writeCopy (fun c => (c.1, bs))
          { s with logic := { s.logic with staged := some l }, cfg := { s.cfg with programBytes := bs } }
      | none => s
    endsAs v e r.1 0 (digestBytes (imageDigest bs) ++ leBytes 4 r.2.1) s.hostMem
      (if r.1.toNat / 256 = 2 then sticky 0 6 t else t) s := by
  intro bs r t
  have hend : endEffect v e s = complete v e r.1 0 (digestBytes (imageDigest bs) ++ leBytes 4 r.2.1) t := by
    unfold endEffect endLoad
    rw [hop, hfree]
    rfl
  have ht : SameMailbox s t ∧ t.hostMem = s.hostMem := by
    unfold t
    split
    · exact ⟨writeCopy_sameMailbox _ ⟨rfl, rfl, rfl, rfl, rfl⟩, writeCopy_hostMem _ _⟩
    · exact ⟨SameMailbox.refl s, rfl⟩
  exact endsAs_of_complete h (by rw [hop]; decide) hend ht.1
    (withHostMem_self ((rejectSettings_hostMem r.1 t).trans ht.2))

/-- A command whose end only writes its buffer. -/
theorem endsAs_writeBuffer {st cf : Half} {r : List Byte} {o : Nat} {bs : List Byte} (hop : e.opcode ≠ 0x0802)
    (hst : st.toNat / 256 ≠ 2) (hend : endEffect v e s = complete v e st cf r (writeBuffer e o bs s)) :
    endsAs v e st cf r (memWrite s.hostMem (descAddr e o) bs) s s :=
  endsAs_of_complete h hop hend (writeBuffer_sameMailbox e o bs s) (rejectSettings_none hst _)

/-- LIST_RECORDS ends: the stored records from the number given, as many as were asked for. -/
theorem endsAs_listRecords (hop : e.opcode = 0x0401) (hwalked : s.granary.walked = true) (hfree : emmcBusy s = false) :
    let all := s.granary.stored.filter
      (fun r => decide (s.granary.releasedThrough < r.no) && decide (leAt e.payload 0 8 ≤ r.no))
    let out := all.take (leAt e.payload 8 4)
    endsAs v e 0 (if out.length < all.length then 8 else 0)
      (leBytes 4 out.length ++ zeros 4 ++ leBytes 8 s.granary.lastNo ++ leBytes 8 s.granary.releasedThrough)
      (memWrite s.hostMem (descAddr e 16) (out.flatMap listEntry)) s s := by
  intro all out
  refine endsAs_writeBuffer h (by rw [hop]; decide) (by decide) ?_
  unfold endEffect endListRecords
  rw [hop, hfree, hwalked]
  rfl

/-- FETCH_RECORD ends: the record's bytes and seal from the offset given, cut to the buffer. -/
theorem endsAs_fetchRecord (hop : e.opcode = 0x0402) (hfree : emmcBusy s = false) (r : Stored)
    (hr : s.granary.stored.find? (fun r => r.no == leAt e.payload 0 8 && decide (s.granary.releasedThrough < r.no)) = some r) :
    let rest := (r.body ++ r.sealBytes).drop (leAt e.payload 8 8)
    let out := rest.take (descLen e 16)
    endsAs v e 0 (if out.length < rest.length then 8 else 0) (leBytes 8 (r.body.length + 4096) ++ leBytes 4 out.length)
      (memWrite s.hostMem (descAddr e 16) out) s s := by
  intro rest out
  refine endsAs_writeBuffer h (by rw [hop]; decide) (by decide) ?_
  unfold endEffect endFetchRecord
  simp only [hop, hfree, hr]
  rfl

/-- FETCH_TALLY ends: the log from the number given, oldest first, then the last-resort ring where it was asked for. -/
theorem endsAs_fetchTally (hop : e.opcode = 0x0501) :
    let all := s.tally.log.reverse.filter (fun t => decide (leAt e.payload 0 8 ≤ t.seq.toNat))
    let out := all.take (leAt e.payload 8 4)
    let ring := if leAt e.payload 12 1 = 1 then s.tally.ring.reverse else []
    let oldest := (s.tally.log.getLast?.map (fun t => t.seq)).getD s.tally.nextSeq
    endsAs v e 0 (if out.length < all.length then 8 else 0)
      (leBytes 4 out.length ++ leBytes 4 ring.length ++ leBytes 8 s.tally.nextSeq.toNat ++ leBytes 8 oldest.toNat)
      (memWrite s.hostMem (descAddr e 16) ((out ++ ring).flatMap tallyBytes)) s s := by
  intro all out ring oldest
  refine endsAs_writeBuffer h (by rw [hop]; decide) (by decide) ?_
  unfold endEffect
  rw [hop]
  rfl

/-- FETCH_DUMP of the DDR copy ends: the dump from the offset given, cut to the buffer. -/
theorem endsAs_fetchDump (hop : e.opcode = 0x0B01) (hquiet : s.dumpBusy = none) (d : Dump) (hsrc : leAt e.payload 0 1 = 0)
    (hd : s.dumpDdr = some d) (hstage : e.stage = .running ∨ e.stage = .fetching (some d.no)) :
    let rest := d.bytes.drop (leAt e.payload 8 8)
    let out := rest.take (descLen e 16)
    endsAs v e 0 (if out.length < rest.length then 8 else 0) (leBytes 8 d.bytes.length ++ leBytes 4 out.length)
      (memWrite s.hostMem (descAddr e 16) out) s s := by
  intro rest out
  have hcopy : dumpCopy s (leAt e.payload 0 1) = some d := by rw [hsrc]; exact hd
  have hsame : dumpReplaced e s = false := by
    rcases hstage with hrun | hfetch
    · simp [dumpReplaced, hrun]
    · simp [dumpReplaced, hfetch, dumpNoOf, hcopy]
  refine endsAs_writeBuffer h (by rw [hop]; decide) (by decide) ?_
  rw [endEffect_fetchDump v s hop, endFetchDump, if_neg (by simp [hquiet, hsame]), if_neg (by simp [hsrc]), hcopy]

/-- FETCH_DUMP of the DDR copy is deferred where a dump is being written or was replaced meanwhile. -/
theorem endsAs_fetchDump_deferred (hop : e.opcode = 0x0B01) (no : Option Nat) (hstage : e.stage = .fetching no)
    (hsrc : leAt e.payload 0 1 = 0) (hlost : s.dumpBusy.isSome = true ∨ no ≠ s.dumpDdr.map (fun d => d.no)) :
    endsAs v e 0x0301 0 (leBytes 4 50) s.hostMem s s := by
  have hreplaced : s.dumpBusy.isSome = true ∨ dumpReplaced e s = true := by
    refine hlost.imp_right (fun hno => ?_)
    simp only [dumpReplaced, hstage, hsrc]
    exact decide_eq_true hno
  refine endsAs_of_complete h (by rw [hop]; decide) ?_ (SameMailbox.refl s) (rejectSettings_none (by decide) s)
  rw [endEffect_fetchDump v s hop, endFetchDump, if_pos hreplaced]

/-- INSTALL_FW that was not resumed ends with its image's signatures judged. -/
theorem endEffect_install (hop : e.opcode = 0x0901) (hfresh : s.trust.installResumed = false) :
    let bs := readBuffer e 0 s
    let n := 1 - s.trust.running
    let d := digestOf (bs.take (bs.length - 256))
    let res := digestBytes d ++ leBytes 1 n ++ zeros 3 ++ leBytes 4 (bs.length / 65536)
    let t := { s with trust := { s.trust with install := none, installResumed := false } }
    endEffect v e s = if imageSigned s bs then
      (let u := recordSlot n 2 d (wordAt bs 8) (leAt bs 6 2) t
      complete v e 0 0 res { u with trust := { u.trust with
        slotImage := modAt (fun _ => bs) n u.trust.slotImage
        slotCosigned := modAt (fun _ => leAt bs (bs.length - 160) 1 == 1) n u.trust.slotCosigned } })
      else complete v e 0x0500 0 res (sticky 3 3 (recordSlot n 0 0 0 0 t)) := by
  intro bs n d res t
  have hbytes : installedBytes e s = bs := by
    unfold installedBytes
    rw [hfresh]
    rfl
  unfold endEffect endInstall
  rw [hop, h.busMaster, hbytes]
  rfl

theorem endsAs_install (hop : e.opcode = 0x0901) (hfresh : s.trust.installResumed = false) :
    let bs := readBuffer e 0 s
    let n := 1 - s.trust.running
    let d := digestOf (bs.take (bs.length - 256))
    let res := digestBytes d ++ leBytes 1 n ++ zeros 3 ++ leBytes 4 (bs.length / 65536)
    let t := { s with trust := { s.trust with install := none, installResumed := false } }
    (imageSigned s bs = true →
      endsAs v e 0 0 res s.hostMem
        (let u := recordSlot n 2 d (wordAt bs 8) (leAt bs 6 2) t
        { u with trust := { u.trust with
          slotImage := modAt (fun _ => bs) n u.trust.slotImage
          slotCosigned := modAt (fun _ => leAt bs (bs.length - 160) 1 == 1) n u.trust.slotCosigned } }) s) ∧
      (imageSigned s bs = false → endsAs v e 0x0500 0 res s.hostMem (sticky 3 3 (recordSlot n 0 0 0 0 t)) s) := by
  intro bs n d res t
  have hne : e.opcode ≠ 0x0802 := by rw [hop]; decide
  have hend := endEffect_install h hop hfresh
  refine ⟨fun hsigned => ?_, fun hunsigned => ?_⟩
  · exact endsAs_of_complete h hne (hend.trans (if_pos hsigned)) ⟨rfl, rfl, rfl, rfl, rfl⟩ (rejectSettings_none (by decide) _)
  · have hframe : SameMailbox s (sticky 3 3 (recordSlot n 0 0 0 0 t)) := by
      rw [sticky_writes]
      exact ⟨rfl, rfl, rfl, rfl, rfl⟩
    refine endsAs_of_complete h hne (hend.trans (if_neg (Bool.eq_false_iff.mp hunsigned))) hframe ?_
    rw [rejectSettings_none (by decide)]
    exact withHostMem_self (sticky_hostMem 3 3 _)

end

/-- Settles O21: each long-running command's end is a completion in a state that differs from the one before in nothing the
mailbox reads. -/
theorem longCommandsEnd : Obligations.LongCommandsEnd := by
  unfold Obligations.LongCommandsEnd
  intro v e s h
  exact ⟨endsAs_stage h, endsAs_load h, endsAs_listRecords h, endsAs_fetchRecord h, endsAs_fetchTally h, endsAs_fetchDump h,
    endsAs_fetchDump_deferred h, endsAs_install h⟩

end Sys2Proof.Machine.MailboxProofs
end

section
/-!
SUPPORT. Commands accepted under the last engine sequence number: the number of the next one wraps to 0, which the model also reads
as "not journaled", so its completion does not enter the journal (R337).
-/
namespace Sys2Proof.Machine.MailboxProofs
open Sys2Proof.Safety Sys2Proof.Machine.PairProofs

/-- A command in slot 0 of PF0 whose journal record is being programmed. -/
def firstEntry (op : Half) (payload : List Byte) : Inflight := ⟨0, op, 0, 1, payload, 0, .journaling, false, false⟩

/-- An unpaired engine in state g that has given out the last engine sequence number, with command e just taken. -/
def lastNumbered (g : GState) (e : Inflight) : State := { State.reset with
  pf0 := { ViewState.init with inflight := [e] }
  glb := { Glb.init with gstate := g }
  power := { Power.init with online := true, linkUp := true, inReset := false }
  store := { Store.init with engineSeq := 0xFFFFFFFFFFFFFFFF } }

theorem journaling_lastNumbered (g : GState) (op : Half) (payload : List Byte) :
    Journaling .pf0 (firstEntry op payload) (lastNumbered g (firstEntry op payload)) where
  online := rfl
  noPfail := rfl
  linkUp := rfl
  noReset := rfl
  d0 := rfl
  mirror := rfl
  bells := rfl
  flight := rfl
  alone w hw := by
    cases w
    · exact absurd rfl hw
    · rfl
  held := rfl
  room := (by decide : ringUsed ViewState.init < 256)
  single := (by decide : paired State.reset = false)
  local' := rfl
  plain := rfl
  fresh := rfl
  notResumed := rfl
  stage := rfl

/-- A completion that did not enter the journal is not the one completesAs asks for. -/
theorem not_completesAs_of_unjournaled {e : Inflight} {s t f : State} {st cf : Half} {r : List Byte} {mem : List Host.Cell}
    (ht : exec (.commandAcceptance .pf0 e.slot false false) s = .next t) (hnone : t.pf0.completed = []) :
    ¬ completesAs .pf0 e st cf r mem f s := by
  rintro ⟨u, hu, -, -, -, ⟨c, hc, -⟩, -⟩
  obtain rfl := Host.Outcome.next.inj (ht.symm.trans hu)
  have hempty : (t.view .pf0).completed = [] := hnone
  rw [hempty] at hc
  exact absurd hc List.not_mem_nil

/-- GET_INFO accepted under number 0 leaves the journal empty. -/
theorem exec_getInfo_lastNumbered : ∃ t, exec (.commandAcceptance .pf0 0 false false)
    (lastNumbered .protecting (firstEntry 0x0101 [])) = .next t ∧ t.pf0.completed = [] := ⟨_, rfl, rfl⟩

/-- SET_LPIPE of 240 sub-samples accepted under number 0 leaves the journal empty. -/
theorem exec_setLpipe_lastNumbered : ∃ t, exec (.commandAcceptance .pf0 0 false false)
    (lastNumbered .config (firstEntry 0x0204 [240, 0])) = .next t ∧ t.pf0.completed = [] := ⟨_, rfl, rfl⟩

/-- SWAP_ROLES on an unpaired engine, accepted under number 0, leaves the journal empty. -/
theorem exec_swapRoles_lastNumbered : ∃ t, exec (.commandAcceptance .pf0 0 false false)
    (lastNumbered .protecting (firstEntry 0x0702 [])) = .next t ∧ t.pf0.completed = [] := ⟨_, rfl, rfl⟩

/-- Refutes O17: GET_INFO accepted after the last engine sequence number has number 0, and its completion is not journaled. -/
theorem not_readCommandsComplete : ¬ Obligations.ReadCommandsComplete := by
  intro h
  obtain ⟨hinfo, -⟩ := h .pf0 _ _ (journaling_lastNumbered .protecting 0x0101 []) (by decide) (by decide)
  obtain ⟨t, ht, hnone⟩ := exec_getInfo_lastNumbered
  exact not_completesAs_of_unjournaled ht hnone (hinfo rfl)

/-- Refutes O18: SET_LPIPE accepted after the last engine sequence number has number 0, and its completion is not journaled. -/
theorem not_settingCommandsComplete : ¬ Obligations.SettingCommandsComplete := by
  intro h
  obtain ⟨hlpipe, -⟩ := h _ _ (journaling_lastNumbered .config 0x0204 [240, 0])
  obtain ⟨t, ht, hnone⟩ := exec_setLpipe_lastNumbered
  exact not_completesAs_of_unjournaled ht hnone (hlpipe rfl rfl (by decide) (by decide))

/-- Refutes O20: SWAP_ROLES answered after the last engine sequence number has number 0, and its completion is not journaled. -/
theorem not_longCommandsRun : ¬ Obligations.LongCommandsRun := by
  intro h
  obtain ⟨-, -, -, -, -, -, -, -, hswap⟩ := h .pf0 _ _ (journaling_lastNumbered .protecting 0x0702 [])
  obtain ⟨t, ht, hnone⟩ := exec_swapRoles_lastNumbered
  exact not_completesAs_of_unjournaled ht hnone (hswap rfl rfl (Or.inl rfl))

end Sys2Proof.Machine.MailboxProofs
end

section
/-!
SUPPORT. An install that does not resume while PFAIL_N is asserted: the journal begins no mark, so nothing is completed (R360).
-/
namespace Sys2Proof.Machine.MailboxProofs
open Sys2Proof.Safety

/-- An INSTALL_FW in slot 0 of PF0, carried across a restart. -/
def resumedInstall : Inflight := ⟨0, 0x0901, 0, 1, [], 1, .running, false, true⟩

/-- 600 µs after PFAIL_N was asserted, the resumed install waits for Bus Master Enable. -/
def failingInstall : State := { State.reset with
  pf0 := { ViewState.init with inflight := [resumedInstall] }
  tb := { Timebase.init with now := usSteps 600 }
  trust := { Trust.init with install := some 0, installResumed := true }
  power := { Power.init with online := true, linkUp := true, pfail := true, pfailAt := 0 } }

/-- At failingInstall the row INSTALL_RESUME_TIMEOUT leaves the command in flight. -/
theorem exec_installResumeTimeout_failingInstall :
    ∃ t, exec .installResumeTimeout failingInstall = .next t ∧ t.pf0.inflight ≠ [] :=
  ⟨_, rfl, by decide⟩

/-- Refutes O58: the clause that an install that does not resume is completed. More than 0.5 ms after PFAIL_N the journal begins
no mark, and the command stays in flight with its outcome decided (R360). -/
theorem not_trustEvents : ¬ Obligations.TrustEvents := by
  intro h
  obtain ⟨-, -, -, -, hinstall⟩ := h
  obtain ⟨t, ht, -, hempty, -⟩ := hinstall resumedInstall failingInstall rfl rfl rfl rfl rfl rfl (by decide) (by decide) rfl rfl
    rfl (by decide) rfl rfl rfl
  obtain ⟨u, hu, hflight⟩ := exec_installResumeTimeout_failingInstall
  obtain rfl := Host.Outcome.next.inj (ht.symm.trans hu)
  exact hflight hempty

end Sys2Proof.Machine.MailboxProofs
end

section
/-!
SUPPORT. The dump that is written, the retained log, the flush and the operating seconds (18_startup_power.md R374 to R377).
-/
namespace Sys2Proof.Machine.PowerProofs
open Sys2Proof.Safety

/-- Settles O32, by whether the eMMC is in service. -/
theorem dumpIsCompleted : Obligations.DumpIsCompleted := by
  unfold Obligations.DumpIsCompleted
  intro d s hbusy
  refine congrArg Host.Outcome.next ?_
  unfold finishDump
  rw [hbusy]

/-- Without a delta, a mirror, or while RST_N or PFAIL_N stands, no batch is written (R376). -/
theorem batchWritten_idle {s : State} (h : s.store.retainedPending = [] ∨ anyMirror s = false ∨ s.power.inReset = true ∨
    s.power.pfail = true) : batchWritten s = s := by
  unfold batchWritten
  rw [if_pos (h.imp_left (fun hnone => by rw [hnone]; rfl))]

/-- A batch merges the pending deltas into the stored image; 512 KiB of advance bring a checkpoint (R376). -/
theorem batchWritten_writes {s : State} (hsome : s.store.retainedPending ≠ []) (hmirror : anyMirror s = true)
    (hreset : s.power.inReset = false) (hpfail : s.power.pfail = false) :
    let d := s.store.retainedPending
    let adv := s.store.retainedAdvance + 8 * d.length
    batchWritten s = { s with store := { s.store with
      retainedImage := mergeRetained d s.store.retainedImage, retainedSheaf := s.store.pendingSheaf, retainedPending := []
      retainedAdvance := if 524288 ≤ adv then 0 else adv
      retainedDigest := if 524288 ≤ adv then programDigest s else s.store.retainedDigest } } := by
  intro d adv
  unfold batchWritten
  rw [if_neg (by simp [hsome, hmirror, hreset, hpfail])]
  by_cases hfull : 524288 ≤ adv
  · simp only [if_pos hfull]
    exact if_pos hfull
  · simp only [if_neg hfull]
    exact if_neg hfull

/-- Settles O50, by whether a batch is due, a flush is under way, and the final batch is honoured. -/
theorem retainedLogAndFlush : Obligations.RetainedLogAndFlush := by
  unfold Obligations.RetainedLogAndFlush
  intro s d image adv
  refine ⟨fun hidle => congrArg Host.Outcome.next (batchWritten_idle hidle),
    fun hsome hmirror hreset hpfail => congrArg Host.Outcome.next (batchWritten_writes hsome hmirror hreset hpfail),
    fun k ops l hflush hreset hmirror => ?_, fun hidle => congrArg Host.Outcome.next ?_⟩
  · have hopen : ¬ (s.power.inReset = true ∨ anyMirror s = false) := by simp [hreset, hmirror]
    refine ⟨fun hlong => congrArg Host.Outcome.next ?_, fun hshort => congrArg Host.Outcome.next ?_⟩
    · have hkept : decide (l.length ≤ 128) = false := decide_eq_false (by omega)
      unfold flushVerified
      simp only [hflush, if_neg hopen, hkept]
      rfl
    · have hkept : decide (l.length ≤ 128) = true := decide_eq_true hshort
      unfold flushVerified
      simp only [hflush, if_neg hopen, hkept]
      rfl
  · unfold flushVerified
    split
    · next hflush => rw [if_pos (hidle.resolve_left (by simp [hflush]))]
    · rfl

end Sys2Proof.Machine.PowerProofs
end

section
/-!
SUPPORT. What a start or a reset reads of the state and the mailbox's bookkeeping leaves (18_startup_power.md R365 to R372).
-/
namespace Sys2Proof.Machine.PowerProofs
open Sys2Proof.Safety

/-- The engine's registers, settings, logic, time, records, stores, firmware, lines and doorbells, without what the mailbox and the
model itself keep books of: the free values drawn, ENGINE_SEQ, the events held. -/
structure Standby where
  glb : Glb
  cfg : Settings
  logic : Logic
  tb : Timebase
  granary : Granary
  store : Store
  trust : Trust
  power : Power
  bells : List Bell

def standby (s : State) : Standby :=
  ⟨{ s.glb with free := 0 }, s.cfg, s.logic, s.tb, s.granary, { s.store with engineSeq := 0 }, s.trust,
    { s.power with heldEvents := [] }, s.bells⟩

theorem standby_foldl {α : Type} {f : State → α → State} (h : ∀ s a, standby (f s a) = standby s) (l : List α) (s : State) :
    standby (l.foldl f s) = standby s := SheafProofs.foldl_keeps standby f h l s

section
variable (s : State)

theorem standby_zeroSecrets : standby (zeroSecrets s) = standby s := rfl
theorem standby_releaseWires : standby (releaseWires s) = standby s := rfl
theorem standby_setView (v : View) (x : ViewState) : standby (s.setView v x) = standby s := by cases v <;> rfl

theorem standby_sticky (r b : Nat) : standby (sticky r b s) = standby s := by
  have h := congrArg standby (sticky_spec r b s)
  exact h

theorem standby_tally (event : Half) (detail : List Quad) : standby (tally event detail s) = standby s := by
  have h := congrArg standby (SheafProofs.tally_frame event detail s)
  exact h

theorem standby_postEvent (code : Half) (arg : Quad) : standby (postEvent code arg s) = standby s := by
  unfold postEvent
  split <;> rfl

theorem standby_stateEvent (g : GState) : standby (stateEvent g s) = standby s := by
  unfold stateEvent
  split
  · rfl
  · exact standby_postEvent s _ _

theorem standby_traceMsg (type : Nat) (fields : List Byte) : standby (traceMsg type fields s) = standby s := rfl

theorem standby_postCompletion (v : View) (n : Nat) (h : Quad) (st cf : Half) (q : Quad) (r : List Byte) :
    standby (postCompletion v n h st cf q r s) = standby s := by
  unfold postCompletion
  dsimp only
  split
  · exact (standby_sticky _ _ _).trans ((standby_traceMsg _ _ _).trans (standby_setView _ _ _))
  · exact (standby_traceMsg _ _ _).trans (standby_setView _ _ _)

theorem standby_finish (v : View) (e : Inflight) (st cf : Half) (r : List Byte) :
    standby (finish v e st cf r s) = standby s := by
  have hdrop : standby (dropInflight v e s) = standby s := standby_setView _ _ _
  have hdone (c : Completed) (t : State) : standby (journalDone v c t) = standby t := standby_setView _ _ _
  unfold finish
  dsimp only
  have hbooked : standby (if e.engineSeq = 0 ∨ e.remote ∧ hasCompletion (dropInflight v e s) v e.hostSeq then dropInflight v e s
      else journalDone v ⟨e.hostSeq, e.opcode, st, cf, e.engineSeq, r⟩ (dropInflight v e s)) = standby s := by
    split
    · exact hdrop
    · exact (hdone _ _).trans hdrop
  split
  · split
    · exact (standby_sticky _ _ _).trans hbooked
    · exact hbooked
  · exact (standby_postCompletion _ _ _ _ _ _ _ _).trans hbooked

theorem standby_complete (v : View) (e : Inflight) (st cf : Half) (r : List Byte) :
    standby (complete v e st cf r s) = standby s := by
  unfold complete
  dsimp only
  split
  · exact standby_setView _ _ _
  · split
    · exact standby_setView _ _ _
    · exact standby_finish _ _ _ _ _ _

theorem standby_answerRun (r : BistRun) (st : Half) (l : List Byte) : standby (answerRun r st l s) = standby s := by
  unfold answerRun
  split
  · exact standby_complete _ _ _ _ _ _
  · rfl

theorem standby_bistHead (n : Nat) : standby (bistHead n s) = standby s := by
  induction n generalizing s with
  | zero => rfl
  | succ n ih =>
    unfold bistHead
    split
    · rfl
    · split
      · rfl
      · split
        · refine (ih _).trans ?_
          split <;> exact standby_answerRun _ _ _ _
        · split <;> rfl

theorem standby_endRun (r : BistRun) (outcome effect : Nat) : standby (endRun r outcome effect s) = standby s :=
  (standby_bistHead _ _).trans (standby_answerRun _ _ _ _)

theorem standby_bistAbort (cause : Nat) : standby (bistAbort cause s) = standby s := by
  unfold bistAbort
  split
  · rfl
  · split
    · rfl
    · dsimp only
      split
      · exact (standby_endRun _ _ _ _).trans ((standby_sticky _ _ _).trans (standby_tally _ _ _))
      · exact (standby_sticky _ _ _).trans (standby_tally _ _ _)

theorem standby_laneOutcome (k : Nat) : standby (laneOutcome k s) = standby s := by
  unfold laneOutcome
  split
  · rfl
  · refine (standby_endRun _ _ _ _).trans ?_
    split
    · rfl
    · exact (standby_sticky _ _ _).trans (standby_tally _ _ _)

theorem standby_freeTested : standby (freeTested s) = standby s :=
  standby_foldl (fun t n => (rfl : standby (setLane n .spare t) = standby t)) _ _

theorem standby_acceptWaiting : standby (acceptWaiting s) = standby s := by
  unfold acceptWaiting
  split <;> rfl

theorem standby_loseToken : standby (loseToken s) = standby s := by
  unfold loseToken
  split
  · rfl
  · exact standby_foldl (fun _ _ => standby_complete _ _ _ _ _ _) _ _

theorem standby_withRole (f : State → State) : standby (withRole f s) = standby (f s) := by
  unfold withRole
  dsimp only
  split
  · rfl
  · exact standby_postEvent _ _ _

theorem standby_tokenByState : standby (tokenByState s) = standby s := by
  unfold tokenByState
  split
  · rfl
  · exact (standby_withRole _ _).trans (standby_loseToken _)

end

/-- The power lines under RST_N (R372). -/
def linesInReset (s : State) : State :=
  { s with power := { s.power with
    inReset := true, longHold := false, fromHalted := s.glb.gstate == .halted, online := false, booting := false, vid := 0xF } }

/-- The assertion of RST_N up to the journal: the state told, a self-test ended, a waiting record accepted. -/
def testsStopped (s : State) : State :=
  let t := linesInReset s
  let t := if t.power.powered then stateEvent .boot t else t
  acceptWaiting (freeTested (bistAbort 5 (laneOutcome t.glb.sheaf t)))

/-- The TAP instruction under RST_N: IDCODE or BYPASS (R400). -/
def resetTap (code : Byte) : Byte := if code = 0x01 then 0x01 else 0xFF

/-- What does not outlive the assertion of RST_N is dropped. -/
def workDropped (s : State) : State :=
  let cs := s.cfg.changes
  let view (x : ViewState) : ViewState := resetView { x with inflight := x.inflight.filterMap (commandAtReset cs) }
  { s with
    pf0 := view s.pf0, pf1 := view s.pf1, bells := [], results := [], dumpBusy := none
    glb := { s.glb with gstate := .boot, next := none, running := false, frozen := false, hlthArmed := false, configFrom := none, flipFrom := none }
    cfg := { s.cfg with changes := [] }
    trust := { s.trust with activationDue := false }
    logic := { s.logic with cycle := none }
    store := { s.store with flush := none }
    power := { s.power with tap := resetTap s.power.tap } }

/-- The interlock is out of step, and the token is given up. -/
def tokenDropped (s : State) : State := loseToken { s with pair := { s.pair with inStep := false, agreeing := 0 } }

theorem standby_tokenDropped (s : State) : standby (tokenDropped s) = standby s := standby_loseToken _

theorem assertReset_eq (s : State) :
    assertReset s = zeroSecrets (withRole tokenDropped (releaseWires (workDropped (testsStopped s)))) := by
  unfold assertReset
  rfl

theorem standby_testsStopped (s : State) : standby (testsStopped s) = standby (linesInReset s) := by
  unfold testsStopped
  refine (standby_acceptWaiting _).trans ((standby_freeTested _).trans ((standby_bistAbort _ _).trans
    ((standby_laneOutcome _ _).trans ?_)))
  split
  · exact standby_stateEvent _ _
  · rfl

/-- What dropping the work makes of it. -/
def Standby.dropped (b : Standby) : Standby :=
  { b with
    glb := { b.glb with
      gstate := .boot, next := none, running := false, frozen := false, hlthArmed := false, configFrom := none, flipFrom := none }
    cfg := { b.cfg with changes := [] }
    logic := { b.logic with cycle := none }
    store := { b.store with flush := none }
    trust := { b.trust with activationDue := false }
    power := { b.power with tap := resetTap b.power.tap }
    bells := [] }

theorem standby_workDropped (s : State) : standby (workDropped s) = (standby s).dropped := (rfl)

/-- The assertion of RST_N sets the lines and drops the work (R372); the rest of what a start reads stays. -/
theorem standby_assertReset (s : State) : standby (assertReset s) = (standby (linesInReset s)).dropped := by
  rw [assertReset_eq, standby_zeroSecrets, standby_withRole, standby_tokenDropped, standby_releaseWires, standby_workDropped,
    standby_testsStopped]

end Sys2Proof.Machine.PowerProofs
end

section
/-!
SUPPORT. The lines of reset, power fail, supplies, temperature, VID and the wait for lock (18_startup_power.md R365, R366, R372, R375;
21_pins_electrical.md R413 to R416, R427).
-/
namespace Sys2Proof.Machine.PowerProofs
open Sys2Proof.Safety

/-- The assertion of RST_N leaves every wire static and no token. -/
theorem quiet_assertReset (s : State) : Quiet (assertReset s) := by
  have hcore : core (assertReset s) = core (tokenDropped (releaseWires (workDropped (testsStopped s)))) := by
    rw [assertReset_eq, core_zeroSecrets, core_withRole]
  exact quiet_of_core hcore (quiet_loseToken _ (quiet_releaseWires (workDropped (testsStopped s))))

theorem core_testsStopped (s : State) : core (testsStopped s) = core s := by
  unfold testsStopped
  rw [core_acceptWaiting, core_freeTested, core_bistAbort, core_laneOutcome]
  split
  · exact core_stateEvent _ _
  · rfl

theorem mem_tokenDropped (s : State) : (core (tokenDropped s)).mem = (core s).mem := by
  have h := congrArg Core.mem (parts_loseToken { s with pair := { s.pair with inStep := false, agreeing := 0 } }).1
  exact h

theorem mem_of_core (s : State) : s.hostMem = (core s).mem := rfl

theorem mem_workDropped (s : State) : (core (releaseWires (workDropped s))).mem = (core s).mem := rfl

theorem hostMem_assertReset (s : State) : (assertReset s).hostMem = s.hostMem := by
  rw [mem_of_core (assertReset s), mem_of_core s, assertReset_eq, core_zeroSecrets, core_withRole, mem_tokenDropped,
    mem_workDropped, core_testsStopped]

/-- The assertion of RST_N zeroes the secrets. -/
theorem secrets_assertReset (s : State) : (assertReset s).bist.identityKey = false ∧ (assertReset s).bist.settingsKey = false ∧
    (assertReset s).bist.sessionKeys = false := by
  rw [assertReset_eq]
  exact ⟨rfl, rfl, rfl⟩

/-- What O57 says of RST_N_ASSERT. -/
theorem rstNAssert_resets (s : State) (hpowered : s.power.powered = true) (hrun : s.power.inReset = false) :
    ∃ t, exec .rstNAssert s = .next t ∧ t.power.inReset = true ∧
      t.power.longHold = false ∧ t.power.online = false ∧ t.power.vid = 0xF ∧ t.glb.gstate = .boot ∧
      t.glb.running = false ∧ t.pair.token = false ∧ t.bells = [] ∧ t.cfg.changes = [] ∧ t.bist.identityKey = false ∧
      t.bist.settingsKey = false ∧ t.bist.sessionKeys = false ∧ (∀ n w, (n, w) ∈ t.wires → w.toggling = false) ∧
      t.cfg.package = s.cfg.package ∧ t.granary = s.granary ∧ t.hostMem = s.hostMem ∧ t.tb = s.tb := by
  have hnext : exec .rstNAssert s = .next (assertReset s) := congrArg Host.Outcome.next (if_pos ⟨hpowered, hrun⟩)
  have hb := standby_assertReset s
  have hmem := hostMem_assertReset s
  obtain ⟨hid, hset, hses⟩ := secrets_assertReset s
  have hquiet := quiet_assertReset s
  generalize assertReset s = t at hnext hb hmem hid hset hses hquiet
  have hpower := congrArg Standby.power hb
  have hglb := congrArg Standby.glb hb
  have hcfg := congrArg Standby.cfg hb
  have hpackage := congrArg Settings.package hcfg
  exact ⟨t, hnext,
    congrArg Power.inReset hpower, congrArg Power.longHold hpower, congrArg Power.online hpower, congrArg Power.vid hpower,
    congrArg Glb.gstate hglb, congrArg Glb.running hglb, hquiet.token, congrArg Standby.bells hb, congrArg Settings.changes hcfg,
    hid, hset, hses, hquiet.wires, hpackage, congrArg Standby.granary hb, hmem,
    congrArg Standby.tb hb⟩

theorem bistAbort_idle (cause : Nat) {s : State} (h : s.bist.queue = []) : bistAbort cause s = s := by
  unfold bistAbort
  rw [h]

theorem bist_sticky (r b : Nat) (s : State) : (sticky r b s).bist = s.bist := by
  have h := congrArg State.bist (sticky_spec r b s)
  exact h

theorem bist_sticky_tally (r b : Nat) (event : Half) (detail : List Quad) (s : State) :
    (sticky r b (tally event detail s)).bist = s.bist := by
  have htally := congrArg State.bist (SheafProofs.tally_frame event detail s)
  exact (bist_sticky r b _).trans htally

theorem postDecided_idle {v : View} {s : State} (h : (s.view v).inflight = []) : postDecided v s = s := by
  unfold postDecided
  rw [h]
  rfl

/-- The writers resume when PFAIL_N is released (R375). -/
def writersResumed (s : State) : State := { s with
  power := { s.power with pfail := false }, store := { s.store with flush := none, flushMarker := none } }

theorem powerReturns_idle {s : State} (hwaits : NothingWaits s) (hidle : s.pf1.inflight = []) :
    powerReturns s = if s.power.pfail then writersResumed s else s := by
  have hnone : powerReturns s = if s.power.pfail = false then s else
    settle (if (writersResumed s).power.online then postDecided .pf1 (postDecided .pf0 (writersResumed s)) else writersResumed s) := rfl
  have hpf0 : postDecided .pf0 (writersResumed s) = writersResumed s := postDecided_idle hwaits.2
  have hpf1 : postDecided .pf1 (writersResumed s) = writersResumed s := postDecided_idle hidle
  have hsettle : settle (writersResumed s) = writersResumed s := PairProofs.settle_nothingWaits hwaits
  rw [hnone, hpf0, hpf1, ite_self, hsettle]
  cases s.power.pfail <;> rfl

/-- The supplies leave their range: the drivers are off and every net is low (R413). -/
theorem supplyLeaves_static (s : State) : driving (supplyLeaves s) = false ∧
    (∀ n w, (n, w) ∈ (supplyLeaves s).wires → w.toggling = false ∧ w.level = false) ∧
    supplyLeaves s = { s with power := { s.power with supplyOk := false }, wires := (supplyLeaves s).wires } := by
  refine ⟨by simp [driving, supplyLeaves, releaseWires], fun n w hw => ?_, rfl⟩
  obtain ⟨x, -, hx⟩ := List.mem_map.mp hw
  obtain rfl := (Prod.mk.inj hx).2
  exact ⟨rfl, rfl⟩

/-- Where the code may move, it goes up on short slack, down on long slack while the die is cool, and else stays (R415). -/
theorem vidStep_free (a b : Nat) (j : Int) {s : State} (hreset : s.power.inReset = false) (hvid : s.power.vid ≠ 0xF)
    (hpfail : s.power.pfail = false) (hscan : scanRuns s = false) : vidStep a b j s =
      if a < 300 then { s with power := { s.power with vid := BitVec.ofNat 4 (min 14 (s.power.vid.toNat + 1)) } }
      else if 600 < b ∧ j < 1000 then { s with power := { s.power with vid := BitVec.ofNat 4 (s.power.vid.toNat - 1) } }
      else s := by
  have hcode : s.power.vid.toNat ≠ 15 := fun h => hvid (BitVec.eq_of_toNat_eq h)
  exact if_neg (by simp [hreset, hcode, hpfail, hscan])

theorem vidStep_held (a b : Nat) (j : Int) {s : State}
    (h : s.power.inReset = true ∨ s.power.vid = 0xF ∨ s.power.pfail = true ∨ scanRuns s = true) : vidStep a b j s = s := by
  have hcode : s.power.vid = 0xF → s.power.vid.toNat = 15 := fun hv => congrArg BitVec.toNat hv
  exact if_pos (h.imp_right (fun hrest => hrest.imp_left hcode))

/-- The code that a free VID_STEP leaves: at most one step away, up to 14 (R415). -/
def vidAfter (a b : Nat) (j : Int) (v : BitVec 4) : BitVec 4 :=
  if a < 300 then BitVec.ofNat 4 (min 14 (v.toNat + 1))
  else if 600 < b ∧ j < 1000 then BitVec.ofNat 4 (v.toNat - 1)
  else v

theorem vidAfter_spec (a b : Nat) (j : Int) {v : BitVec 4} (hv : v ≠ 0xF) :
    ((vidAfter a b j v).toNat ≤ v.toNat + 1 ∧ v.toNat ≤ (vidAfter a b j v).toNat + 1) ∧
      (a < 300 → (vidAfter a b j v).toNat = min 14 (v.toNat + 1)) ∧
      (300 ≤ a → 600 < b → j < 1000 → (vidAfter a b j v).toNat = v.toNat - 1) ∧
      (300 ≤ a → b ≤ 600 ∨ 1000 ≤ j → vidAfter a b j v = v) := by
  have hcode : v.toNat ≠ 15 := fun h => hv (BitVec.eq_of_toNat_eq h)
  have hlt := v.isLt
  have hup : (BitVec.ofNat 4 (min 14 (v.toNat + 1))).toNat = min 14 (v.toNat + 1) := by
    rw [BitVec.toNat_ofNat]
    omega
  have hdown : (BitVec.ofNat 4 (v.toNat - 1)).toNat = v.toNat - 1 := by
    rw [BitVec.toNat_ofNat]
    omega
  unfold vidAfter
  by_cases ha : a < 300
  · rw [if_pos ha, hup]
    exact ⟨by omega, fun _ => rfl, by omega, by omega⟩
  · rw [if_neg ha]
    by_cases hb : 600 < b ∧ j < 1000
    · rw [if_pos hb, hdown]
      exact ⟨by omega, by omega, fun _ _ _ => rfl, by omega⟩
    · rw [if_neg hb]
      exact ⟨by omega, by omega, fun _ hlong hcool => absurd ⟨hlong, hcool⟩ hb, fun _ _ => rfl⟩

/-- What O57 says of VID_STEP. -/
theorem vidStep_code (a b : Nat) (j : Int) (s : State) :
    ∃ c, exec (.vidStep a b j) s = .next { s with power := { s.power with vid := c } } ∧
      (c.toNat ≤ s.power.vid.toNat + 1 ∧ s.power.vid.toNat ≤ c.toNat + 1) ∧
      (s.power.inReset = true ∨ s.power.vid = 0xF ∨ s.power.pfail = true ∨ scanRuns s = true → c = s.power.vid) ∧
      (s.power.inReset = false → s.power.vid ≠ 0xF → s.power.pfail = false → scanRuns s = false →
        (a < 300 → c.toNat = min 14 (s.power.vid.toNat + 1)) ∧
          (300 ≤ a → 600 < b → j < 1000 → c.toNat = s.power.vid.toNat - 1) ∧
          (300 ≤ a → b ≤ 600 ∨ 1000 ≤ j → c = s.power.vid)) := by
  by_cases hheld : s.power.inReset = true ∨ s.power.vid = 0xF ∨ s.power.pfail = true ∨ scanRuns s = true
  · refine ⟨s.power.vid, congrArg Host.Outcome.next (vidStep_held a b j hheld), ⟨by omega, by omega⟩, fun _ => rfl, ?_⟩
    intro hreset hvid hpfail hscan
    rcases hheld with h | h | h | h
    · simp [hreset] at h
    · exact absurd h hvid
    · simp [hpfail] at h
    · simp [hscan] at h
  · obtain ⟨hreset, hvid, hpfail, hscan⟩ := by simpa only [not_or, Bool.not_eq_true] using hheld
    obtain ⟨hnear, hmoves⟩ := vidAfter_spec a b j hvid
    refine ⟨vidAfter a b j s.power.vid, congrArg Host.Outcome.next ?_, hnear, fun h => absurd h hheld, fun _ _ _ _ => hmoves⟩
    rw [vidStep_free a b j hreset hvid hpfail hscan, vidAfter]
    split
    · rfl
    · split <;> rfl

/-- What O57 says of the wait for lock. -/
theorem lockWaitEnds_why (n : Nat) (s : State) :
    let why : Option Quad := if waitsForLock s = false then none
      else if s.tb.state = .locked then some 0
      else if swSeconds s.cfg.package ≠ 0 ∧ swSeconds s.cfg.package ≤ n then some 1 else none
    lockWaitEnds n s = match why with
      | some w => tally 0x0D07 [w, item n] { s with glb := { s.glb with next := some .protecting } }
      | none => s := by
  intro why
  unfold lockWaitEnds why
  by_cases hwaits : waitsForLock s = false
  · rw [if_pos hwaits, if_pos hwaits]
  · rw [if_neg hwaits, if_neg hwaits]
    by_cases hlocked : s.tb.state = .locked
    · rw [if_pos hlocked, if_pos hlocked]
    · rw [if_neg hlocked, if_neg hlocked]
      by_cases hlimit : swSeconds s.cfg.package ≠ 0 ∧ swSeconds s.cfg.package ≤ n
      · rw [if_pos hlimit, if_pos hlimit]
      · rw [if_neg hlimit, if_neg hlimit]

/-- What O57 says of PFAIL_N_ASSERT with no self-test (R375). -/
theorem powerFails_idle {s : State} (hpowered : s.power.powered = true) (hpfail : s.power.pfail = false)
    (hqueue : s.bist.queue = []) : powerFails s = sticky 3 10 { s with
      power := { s.power with
        pfail := true, pfailAt := s.tb.now, lastEntry := true, lastSeal := true, latch := setBit s.power.latch 1 }
      store := { s.store with flush := (
        if s.glb.gstate == .boot && !s.power.online && (s.power.booting || s.power.parked) || s.power.inReset then none
        else some (s.store.pendingSheaf, s.glb.opsec, s.store.retainedPending)) } } := by
  unfold powerFails
  rw [if_neg (by simp [hpowered, hpfail]), bistAbort_idle]
  · simp only [Bool.or_eq_true]
  · exact (congrArg Bist.queue (bist_sticky 3 10 _)).trans hqueue

/-- Settles O57, one lemma for each line. -/
theorem resetAndSupplyLines : Obligations.ResetAndSupplyLines := by
  unfold Obligations.ResetAndSupplyLines
  intro s
  refine ⟨fun hoff => congrArg Host.Outcome.next (if_neg ?_), rstNAssert_resets s, rfl,
    fun hoff => congrArg Host.Outcome.next (if_pos hoff),
    fun hpowered hpfail hqueue => congrArg Host.Outcome.next (powerFails_idle hpowered hpfail hqueue),
    fun hwaits hidle => congrArg Host.Outcome.next (powerReturns_idle hwaits hidle),
    ⟨supplyLeaves s, rfl, supplyLeaves_static s⟩, fun mv h hpowered hqueue => ⟨?_, ?_⟩, fun a b j => vidStep_code a b j s,
    fun n => congrArg Host.Outcome.next (lockWaitEnds_why n s)⟩
  · rcases hoff with hoff | hreset
    · simp [hoff]
    · simp [hreset]
  · refine congrArg Host.Outcome.next ?_
    rw [vcoreSag, if_neg (by simp [hpowered])]
    exact bistAbort_idle 2 ((congrArg Bist.queue (bist_sticky_tally 3 12 0x0D08 _ _)).trans hqueue)
  · refine congrArg Host.Outcome.next ?_
    rw [overheats, if_neg (by simp [hpowered])]
    exact bistAbort_idle 3 ((congrArg Bist.queue (bist_sticky_tally 3 11 0x0D08 _ _)).trans hqueue)

end Sys2Proof.Machine.PowerProofs
end

section
/-!
SUPPORT. What the start sequence's bookkeeping leaves (18_startup_power.md R367 to R371, R379): entries, sticky bits, scans of the journal
and the Tally, findings.
-/
namespace Sys2Proof.Machine.PowerProofs
open Sys2Proof.Safety

/-- What a start leads to: registers, package, program and forces, time, stored records, the slot that runs with the generations of
both, the lines, host memory. -/
structure Arrival where
  glb : Glb
  cfg : Settings
  program : Option Loaded
  forces : FMap Word
  tb : Timebase
  stored : List Stored
  slot : Nat
  bgs : List Nat
  activationDue : Bool
  inReset : Bool
  powered : Bool
  online : Bool
  parked : Bool
  booting : Bool
  startKind : Nat
  fromHalted : Bool
  haltedForGood : Bool
  mem : List Host.Cell

def arrival (s : State) : Arrival :=
  ⟨{ s.glb with free := 0 }, s.cfg, s.logic.program, s.logic.forces, s.tb, s.granary.stored, s.trust.running, s.trust.slotBg,
    s.trust.activationDue, s.power.inReset, s.power.powered, s.power.online, s.power.parked, s.power.booting, s.power.startKind, s.power.fromHalted,
    s.power.haltedForGood, s.hostMem⟩

theorem arrival_of_mem {s t : State} (hstandby : standby t = standby s) (hmem : t.hostMem = s.hostMem) :
    arrival t = arrival s := by
  simp only [standby, Standby.mk.injEq] at hstandby
  obtain ⟨hglb, hcfg, hlogic, htb, hgranary, -, htrust, hpower, -⟩ := hstandby
  have hline {α : Type} (f : Power → α) (hf : ∀ p, f { p with heldEvents := [] } = f p) : f t.power = f s.power := by
    rw [← hf t.power, ← hf s.power, hpower]
  simp only [arrival, Arrival.mk.injEq]
  refine ⟨hglb, hcfg, congrArg Logic.program hlogic, congrArg Logic.forces hlogic, htb, congrArg Granary.stored hgranary,
    congrArg Trust.running htrust, congrArg Trust.slotBg htrust, congrArg Trust.activationDue htrust, ?_⟩
  exact ⟨hline _ (fun _ => rfl), hline _ (fun _ => rfl), hline _ (fun _ => rfl), hline _ (fun _ => rfl), hline _ (fun _ => rfl),
    hline _ (fun _ => rfl), hline _ (fun _ => rfl), hline _ (fun _ => rfl), hmem⟩

theorem arrival_of {s t : State} (hstandby : standby t = standby s) (hcore : core t = core s) : arrival t = arrival s :=
  arrival_of_mem hstandby (congrArg Core.mem hcore)

theorem arrival_foldl {α : Type} {f : State → α → State} (h : ∀ s a, arrival (f s a) = arrival s) (l : List α) (s : State) :
    arrival (l.foldl f s) = arrival s := SheafProofs.foldl_keeps arrival f h l s

section
variable (s : State) (f : StartFindings)

theorem arrival_sticky (r b : Nat) : arrival (sticky r b s) = arrival s := arrival_of (standby_sticky s r b) (core_sticky r b s)
theorem arrival_tally (event : Half) (detail : List Quad) : arrival (tally event detail s) = arrival s :=
  arrival_of (standby_tally s event detail) (core_tally event detail s)
theorem arrival_postEvent (code : Half) (arg : Quad) : arrival (postEvent code arg s) = arrival s :=
  arrival_of (standby_postEvent s code arg) (core_postEvent code arg s)
theorem arrival_setView (v : View) (x : ViewState) : arrival (s.setView v x) = arrival s := by cases v <;> rfl

theorem arrival_setChannel (c : Nat) (x : Channel) : arrival (setChannel c x s) = arrival s := rfl
theorem arrival_setSlice (n : Nat) (x : Slice) : arrival (setSlice n x s) = arrival s := rfl
theorem arrival_setGroup (g : Nat) (x : CalGroup) : arrival (setGroup g x s) = arrival s := rfl

theorem arrival_judgeRecord (a b : Bool) (v : View) : arrival (judgeRecord a b v s) = arrival s := by
  unfold judgeRecord
  split
  · rfl
  · dsimp only
    split
    · cases v <;> rfl
    · exact arrival_setView _ _ _

theorem arrival_journalScan : arrival (journalScan f s) = arrival s :=
  (arrival_judgeRecord _ _ _ _).trans (arrival_judgeRecord _ _ _ _)

theorem arrival_tallyScan : arrival (tallyScan f s) = arrival s := by
  have hcopy : arrival (copyEntries f s) = arrival s := by
    unfold copyEntries
    split <;> rfl
  have hcomplete (l : List Nat) (t : State) : arrival (completeEntries l t) = arrival t := by
    unfold completeEntries
    split
    · split <;> rfl
    · rfl
  exact (hcomplete _ _).trans hcopy

theorem arrival_latchTaken (l l' : Word) (k : Nat) : arrival { s with
    store := { s.store with flushMarker := none }
    power := { s.power with latch := l, startLatch := l', startRetained := k } } = arrival s := rfl

/-- START and POWER_FAIL are entered, the marker and the latch are taken up (R379). -/
theorem arrival_startEntries (k lostT lostR : Nat) : arrival (startEntries k lostT lostR s) = arrival s := by
  unfold startEntries
  dsimp only
  refine (arrival_latchTaken _ _ _ _).trans ?_
  split
  · split
    · exact (arrival_tally _ _ _).trans (arrival_tally _ _ _)
    · exact (arrival_tally _ _ _).trans (arrival_tally _ _ _)
  · exact arrival_tally _ _ _

theorem arrival_copyLatch : arrival (copyLatch s) = arrival s := by
  refine arrival_foldl (fun t p => ?_) _ _
  split
  · exact arrival_sticky _ _ _
  · rfl

theorem arrival_tamperEntry : arrival (tamperEntry s) = arrival s := by
  unfold tamperEntry
  refine (arrival_foldl (fun t x => ?_) _ _).trans ?_
  · exact arrival_tally t _ _
  · rfl

theorem arrival_lostEntries (n : Nat) : arrival (lostEntries n s) = arrival s := by
  unfold lostEntries
  split
  · rfl
  · exact (arrival_sticky _ _ _ : _)

theorem arrival_lostRecords (n : Nat) : arrival (lostRecords n s) = arrival s := by
  unfold lostRecords
  split
  · rfl
  · exact (arrival_sticky _ _ _).trans (arrival_tally _ _ _ : _)

theorem arrival_deriveSecrets : arrival (deriveSecrets s) = arrival s := rfl

theorem arrival_failEntry (t : Word) : arrival (failEntry t s) = arrival s := by
  unfold failEntry
  exact (arrival_tally _ _ _ : _)

theorem arrival_abortEntry (x : ColdAbort) : arrival (abortEntry x s) = arrival s := by
  have hentry (n : Nat) (t : State) : arrival (sticky 3 5 (tally 0x0B03 [x.target.zeroExtend 64, 2, item n, 0, 0] t)) = arrival t :=
    (arrival_sticky _ _ _).trans (arrival_tally _ _ _)
  unfold abortEntry
  dsimp only
  split
  · exact (hentry _ _).trans (hentry _ _)
  · exact hentry _ _

theorem arrival_applyFix (x : SliceChange) : arrival (applyFix x s) = arrival s := by
  have hfeeds (l : List (Nat × Option Nat)) (t : State) :
      arrival (l.foldl (fun s p => setChannel p.1 { channelOf s p.1 with source := p.2 } s) t) = arrival t := by
    refine arrival_foldl (fun t p => ?_) l t
    exact arrival_setChannel t p.1 _
  have hfailed (l : List Nat) (t : State) :
      arrival (l.foldl (fun s n => setSlice n { sliceOf s n with failed := true } s) t) = arrival t := by
    refine arrival_foldl (fun t n => ?_) l t
    exact arrival_setSlice t n _
  exact (hfailed _ _).trans (hfeeds _ _)

end

end Sys2Proof.Machine.PowerProofs
end

section
/-!
SUPPORT. The findings of a start's self-test, and the halt they may lead to (18_startup_power.md R313, R365, R370).
-/
namespace Sys2Proof.Machine.PowerProofs
open Sys2Proof.Safety

section
variable (s : State) (f : StartFindings)

theorem arrival_failSlice (n d cause : Nat) (gap : Option Time) : arrival (failSlice n d cause gap s) = arrival s := by
  unfold failSlice
  split
  · rfl
  · extract_lets g subj sl
    split
    next x back _ =>
    extract_lets restored gapped stopped repl told
    have hrestored : arrival restored = arrival s := by
      unfold restored
      split
      · exact arrival_setSlice _ _ _
      · rfl
    have hgapped : arrival gapped = arrival restored := by
      unfold gapped
      split
      · refine arrival_foldl (fun t p => ?_) _ _
        exact arrival_setChannel t p.1 _
      · rfl
    have hstopped : arrival stopped = arrival gapped := arrival_setGroup _ _ _
    have htold : arrival told = arrival stopped := by
      unfold told
      split
      · exact (arrival_sticky _ _ _).trans (arrival_tally _ _ _)
      · exact (arrival_sticky _ _ _).trans (arrival_tally _ _ _)
    have hall := htold.trans (hstopped.trans (hgapped.trans hrestored))
    split
    · exact hall
    · exact (arrival_applyFix _ _).trans hall

theorem arrival_coldCalibrate (n : Nat) (ps : List (Int × Nat)) : arrival (coldCalibrate n ps s) = arrival s := by
  unfold coldCalibrate
  split
  · exact (arrival_failSlice _ _ _ _ _).trans (arrival_sticky _ _ _)
  · split
    · exact (arrival_failSlice _ _ _ _ _).trans (arrival_sticky _ _ _)
    · exact arrival_setSlice _ _ _

theorem arrival_repartition : arrival (repartition s) = arrival s := by
  unfold repartition
  dsimp only
  split
  · rfl
  · refine arrival_foldl (fun t g => ?_) _ _
    rfl

theorem arrival_startDump (cause : Nat) (fault : List Nat) : arrival (startDump cause fault s) = arrival s := rfl

theorem arrival_tokenByState : arrival (tokenByState s) = arrival s :=
  arrival_of_mem (standby_tokenByState s) (mem_tokenByState s)

/-- HALTED: what else a start leads to is as before (R365, R370). -/
def Arrival.halted (a : Arrival) (again : Bool) : Arrival :=
  { a with
    glb := { a.glb with gstate := .halted, next := none, running := false, hlthArmed := false, configFrom := none }
    haltedForGood := again }

theorem arrival_halt (cause dump : Nat) (fault : List Nat) :
    ∃ again, arrival (halt cause dump fault s) = (arrival s).halted again := by
  unfold halt
  extract_lets old runs glb t again power u entered dumped
  have hu : arrival u = (arrival s).halted (s.power.haltedForGood || again) := arrival_tokenByState _
  have hentered : arrival entered = arrival u := by
    unfold entered
    split
    · rfl
    · exact arrival_tally _ _ _
  have hdumped : arrival dumped = arrival entered := by
    unfold dumped
    split
    · exact arrival_startDump _ _ _
    · rfl
  exact ⟨s.power.haltedForGood || again, (arrival_postEvent _ _ _).trans (hdumped.trans (hentered.trans hu))⟩

/-- The findings of a start's self-test concern lanes, slices, stores and blocks (R313). -/
theorem arrival_applyFindings : arrival (applyFindings f s) = arrival s := by
  unfold applyFindings
  extract_lets _ _ _ found calibrated lanes slices norA norB nor emmc told bad
  have hcalibrated : arrival calibrated = arrival found := by
    refine arrival_foldl (fun t n => ?_) _ _
    exact arrival_coldCalibrate _ _ _
  have hlanes : arrival lanes = arrival calibrated := by
    refine arrival_foldl (fun t n => ?_) _ _
    exact arrival_sticky _ _ _
  have hslices : arrival slices = arrival lanes := by
    refine arrival_foldl (fun t n => ?_) _ _
    exact arrival_failSlice _ _ _ _ _
  have hsticky (c : Prop) [Decidable c] (r b : Nat) (t : State) : arrival (if c then t else sticky r b t) = arrival t := by
    split
    · rfl
    · exact arrival_sticky _ _ _
  have hnor : arrival nor = arrival slices := by
    have hboth : arrival nor = arrival norB := by
      unfold nor
      split
      · rfl
      · exact (arrival_postEvent _ _ _).trans (arrival_sticky _ _ _)
    exact hboth.trans ((hsticky _ _ _ _).trans (hsticky _ _ _ _))
  have hemmc : arrival emmc = arrival nor := hsticky _ _ _ _
  have htold : arrival told = arrival emmc := by
    refine (arrival_foldl (fun t x => ?_) _ _).trans ((arrival_foldl (fun t x => ?_) _ _).trans rfl)
    · exact arrival_failEntry _ _
    · exact arrival_abortEntry _ _
  have hall : arrival told = arrival s := htold.trans (hemmc.trans (hnor.trans (hslices.trans (hlanes.trans hcalibrated))))
  split
  · exact (arrival_sticky _ _ _).trans hall
  · exact hall

/-- The self-test of a start lets it go on, or halts it and ends the start sequence (R313, R365). -/
theorem arrival_selfTestOutcome : arrival (selfTestOutcome f s) = arrival s ∨
    ∃ again, arrival (selfTestOutcome f s) = { arrival s with booting := false }.halted again := by
  unfold selfTestOutcome
  extract_lets stop
  have hstop (fault : List Nat) (t : State) : ∃ again, arrival (stop fault t) = { arrival t with booting := false }.halted again :=
    arrival_halt { t with power := { t.power with booting := false } } 5 4 fault
  split
  · exact Or.inr (hstop _ _)
  · split
    · exact Or.inr (hstop _ (takeFree s).2)
    · exact Or.inl rfl

end

end Sys2Proof.Machine.PowerProofs
end

section
/-!
SUPPORT. The slot that a start runs, and the cold start around it (18_startup_power.md R365, R367, R368, R371; 19_trust.md R383, R384).
-/
namespace Sys2Proof.Machine.PowerProofs
open Sys2Proof.Safety

/-- The start has released the lines, and the activation record with the highest SEQ governs. -/
def released (f : StartFindings) (s : State) : State :=
  governed f { s with power := { s.power with inReset := false, parked := false, testEn := false, longHold := false } }

theorem withSlot_eq (f : StartFindings) (go : (State → State) → State → State) (s : State) : withSlot f go s =
    match bootSlot f (released f s) with
    | none => { released f s with power := { (released f s).power with parked := true } }
    | some report => go report { released f s with power := { (released f s).power with booting := true } } := rfl

/-- Whichever slot a start runs, it and the generations are all that the choice sets. -/
theorem arrival_bootSlot {f : StartFindings} {s : State} {report : State → State} (h : bootSlot f s = some report) (u : State) :
    ∃ n bgs, arrival (report u) = { arrival u with slot := n, bgs := bgs } := by
  unfold bootSlot at h
  extract_lets a b passes at h
  split at h
  · obtain rfl := Option.some.inj h
    exact ⟨a, u.trust.slotBg, rfl⟩
  · split at h
    · obtain rfl := Option.some.inj h
      exact ⟨b, modAt (fun _ => 0) a u.trust.slotBg, (arrival_sticky _ _ _).trans (arrival_tally _ _ _)⟩
    · cases h

theorem core_bootSlot {f : StartFindings} {s : State} {report : State → State} (h : bootSlot f s = some report) (u : State) :
    core (report u) = core u := by
  unfold bootSlot at h
  extract_lets a b passes at h
  split at h
  · obtain rfl := Option.some.inj h
    rfl
  · split at h
    · obtain rfl := Option.some.inj h
      exact (core_sticky _ _ _).trans ((core_tally _ _ _).trans (core_recordSlot _ _ _ _ _ _))
    · cases h

/-- The active slot runs where the findings and its image pass. -/
theorem bootSlot_active {f : StartFindings} {s : State} (hpasses : f.slotPasses[s.trust.activeSlot]? = some true)
    (hfault : slotFault s s.trust.activeSlot = none) : bootSlot f s =
      some (fun u => { u with trust := { u.trust with running := s.trust.activeSlot, fallback := false } }) := by
  unfold bootSlot
  exact if_pos (by simp [hpasses, hfault])

/-- No slot runs where the findings pass none. -/
theorem bootSlot_none {f : StartFindings} {s : State} (h : ∀ n : Nat, f.slotPasses[n]? ≠ some true) : bootSlot f s = none := by
  have hnone (n : Nat) : (f.slotPasses[n]?).getD false = false := by
    cases hn : f.slotPasses[n]? with
    | none => rfl
    | some b =>
      cases b
      · rfl
      · exact absurd hn (h n)
  unfold bootSlot
  simp [hnone]

/-- The state of a cold start, or restart, up to the choice of the slot. -/
def coldReady (power : Bool) (f : StartFindings) (s : State) : State :=
  let s := coldState power (tallyScan f s)
  let s := { s with
    pf0 := { s.pf0 with inflight := s.pf0.inflight.map (effectShown true), slots := if power then [] else s.pf0.slots }
    pf1 := { s.pf1 with inflight := s.pf1.inflight.map (effectShown true), slots := if power then [] else s.pf1.slots }
    power := { s.power with startKind := if power then 0 else 1, powered := true } }
  let kept := if power && (f.norA || f.norB) then s.store.retainedImage else []
  { s with power := { s.power with configDue := some (f.configDigestOk, kept) } }

/-- What a cold start enters: whether the retained image is read, the points forced, the entries and records lost (R266, R278, R379). -/
structure ColdCounts where
  readable : Bool
  forced : Nat
  lostT : Nat
  lostR : Nat

def coldCounts (power : Bool) (f : StartFindings) (s : State) : ColdCounts :=
  let marker := s.store.flushMarker
  let s := tallyScan f s
  { readable := power && (f.norA || f.norB)
    forced := if power then 0 else s.logic.forces.length
    lostT := if power then (marker.map (fun m => m.2.2.2.1 - s.tally.nextSeq.toNat)).getD 0 else s.tally.queue.length
    lostR := if power then (marker.map (fun m => m.2.2.2.2 - s.granary.nextNo)).getD 0 else unaccepted s }

/-- A cold start with a slot: entries, the journal's scan and the latch, then the findings and what was lost (R371, R379). -/
def coldEntered (c : ColdCounts) (f : StartFindings) (s : State) : State :=
  let s := copyLatch (startEntries (if c.readable then s.store.retainedSheaf else 0) c.lostT c.lostR (journalScan f s))
  if c.forced = 0 then s else tally 0x0702 [item c.forced, 1] s
def coldFound (c : ColdCounts) (f : StartFindings) (s : State) : State :=
  deriveSecrets (lostRecords c.lostR (lostEntries c.lostT (applyFindings f (tamperEntry s))))

theorem coldStart_eq (power : Bool) (f : StartFindings) (s : State) :
    coldStart power f s = withSlot f (fun report u =>
      selfTestOutcome f (coldFound (coldCounts power f s) f (report (coldEntered (coldCounts power f s) f u))))
      (coldReady power f s) := by
  unfold coldStart
  rfl

theorem arrival_coldEntered (c : ColdCounts) (f : StartFindings) (s : State) :
    arrival (coldEntered c f s) = arrival s := by
  have hlatch := (arrival_copyLatch _).trans ((arrival_startEntries _ (if c.readable then s.store.retainedSheaf else 0)
    c.lostT c.lostR).trans (arrival_journalScan s f))
  unfold coldEntered
  dsimp only
  split
  · exact hlatch
  · exact (arrival_tally _ _ _).trans hlatch

theorem core_coldEntered (c : ColdCounts) (f : StartFindings) (s : State) :
    core (coldEntered c f s) = core s := by
  have hlatch := (core_copyLatch _).trans ((core_startEntries (if c.readable then s.store.retainedSheaf else 0)
    c.lostT c.lostR _).trans (core_journalScan f s))
  unfold coldEntered
  dsimp only
  split
  · exact hlatch
  · exact (core_tally _ _ _).trans hlatch

theorem arrival_coldFound (c : ColdCounts) (f : StartFindings) (s : State) :
    arrival (coldFound c f s) = arrival s :=
  (arrival_deriveSecrets _).trans ((arrival_lostRecords _ _).trans ((arrival_lostEntries _ _).trans
    ((arrival_applyFindings _ f).trans (arrival_tamperEntry s))))

theorem core_coldFound (c : ColdCounts) (f : StartFindings) (s : State) : core (coldFound c f s) = core s :=
  (core_deriveSecrets _).trans ((core_lostRecords _ _).trans ((core_lostEntries _ _).trans
    ((core_applyFindings f _).trans (core_tamperEntry s))))

/-- A start keeps what its cold state set: counts, settings, time, records, lines, memory; it stays in BOOT or halts. -/
structure Started (a b : Arrival) : Prop where
  opsec : b.glb.opsec = a.glb.opsec
  pwrcyc : b.glb.pwrcyc = a.glb.pwrcyc
  stopped : a.glb.running = false → b.glb.running = false
  gstate : b.glb.gstate = a.glb.gstate ∨ b.glb.gstate = .halted
  cfg : b.cfg = a.cfg
  forces : b.forces = a.forces
  tb : b.tb = a.tb
  stored : b.stored = a.stored
  inReset : b.inReset = false
  powered : b.powered = a.powered
  online : b.online = a.online
  mem : b.mem = a.mem

theorem arrival_released (f : StartFindings) (s : State) : ∃ bgs,
    arrival (released f s) = { arrival s with inReset := false, parked := false, bgs := bgs } := by
  unfold released governed
  extract_lets rs
  split
  · exact ⟨_, rfl⟩
  · exact ⟨_, rfl⟩

/-- Where a slot runs, the cold start is that of the slot up to the outcome of the self-test. -/
theorem coldStart_some {power : Bool} {f : StartFindings} {s : State} {report : State → State}
    (h : bootSlot f (released f (coldReady power f s)) = some report) : ∃ x y, coldStart power f s = selfTestOutcome f x ∧
      arrival x = arrival (report y) ∧ core x = core y ∧ core y = core (coldReady power f s) ∧
      arrival y = { arrival (released f (coldReady power f s)) with booting := true } := by
  have hcold := coldStart_eq power f s
  rw [withSlot_eq, h] at hcold
  refine ⟨_, _, hcold, arrival_coldFound _ _ _, (core_coldFound _ _ _).trans (core_bootSlot h _), ?_,
    arrival_coldEntered _ _ _⟩
  exact (core_coldEntered _ _ _).trans (core_governed f _)

theorem coldStart_none {power : Bool} {f : StartFindings} {s : State} (h : bootSlot f (released f (coldReady power f s)) = none) :
    coldStart power f s = { released f (coldReady power f s) with
      power := { (released f (coldReady power f s)).power with parked := true } } := by
  have hcold := coldStart_eq power f s
  rw [withSlot_eq, h] at hcold
  exact hcold

theorem started_coldStart (power : Bool) (f : StartFindings) (s : State) :
    Started (arrival (coldReady power f s)) (arrival (coldStart power f s)) := by
  obtain ⟨bgs, hreleased⟩ := arrival_released f (coldReady power f s)
  cases hslot : bootSlot f (released f (coldReady power f s)) with
  | none =>
    have hnone : arrival (coldStart power f s) = { arrival (released f (coldReady power f s)) with parked := true } :=
      congrArg arrival (coldStart_none hslot)
    rw [hnone, hreleased]
    exact ⟨rfl, rfl, id, Or.inl rfl, rfl, rfl, rfl, rfl, rfl, rfl, rfl, rfl⟩
  | some report =>
    obtain ⟨x, y, hcold, hx, -, -, hy⟩ := coldStart_some hslot
    obtain ⟨n, l, hreport⟩ := arrival_bootSlot hslot y
    rw [hreport, hy, hreleased] at hx
    rw [hcold]
    rcases arrival_selfTestOutcome x f with hgoes | ⟨again, hhalts⟩
    · rw [hgoes, hx]
      exact ⟨rfl, rfl, id, Or.inl rfl, rfl, rfl, rfl, rfl, rfl, rfl, rfl, rfl⟩
    · rw [hhalts, hx]
      exact ⟨rfl, rfl, fun _ => rfl, Or.inr rfl, rfl, rfl, rfl, rfl, rfl, rfl, rfl, rfl⟩

end Sys2Proof.Machine.PowerProofs
end

section
/-!
SUPPORT. A cold start's state (18_startup_power.md R371), the test mode (R365, R401), and the operating seconds (R377).
-/
namespace Sys2Proof.Machine.PowerProofs
open Sys2Proof.Safety

/-- The Tally scan of a start touches the Tally and the observation port alone (R277). -/
theorem tallyScan_writes (f : StartFindings) (s : State) :
    tallyScan f s = { s with tally := (tallyScan f s).tally, trace := (tallyScan f s).trace } := by
  have hcopy : { copyEntries f s with tally := s.tally } = s := by
    unfold copyEntries
    split <;> rfl
  have hcomplete (l : List Nat) (t : State) : { completeEntries l t with tally := t.tally, trace := t.trace } = t := by
    unfold completeEntries
    split
    · split <;> rfl
    · rfl
  have hscan := congrArg (fun x : State => { x with tally := (tallyScan f s).tally, trace := (tallyScan f s).trace })
    (hcomplete f.tallyPartials (copyEntries f s))
  exact hscan.trans (congrArg (fun x : State => { x with tally := (tallyScan f s).tally, trace := (tallyScan f s).trace }) hcopy)

/-- The state of a cold start before its slot is chosen: everything volatile is at its reset value (R371). -/
structure ColdStarted (power : Bool) (s : State) (a : Arrival) : Prop where
  opsec : a.glb.opsec = if power then s.store.opsecStored else s.glb.opsec
  pwrcyc : a.glb.pwrcyc = if power then s.glb.pwrcyc + 1 else s.glb.pwrcyc
  running : a.glb.running = false
  gstate : a.glb.gstate = .boot
  cfg : a.cfg = Settings.init
  forces : a.forces = []
  now : a.tb.now = 0
  stored : a.stored = s.granary.stored
  powered : a.powered = true
  online : a.online = s.power.online
  mem : a.mem = s.hostMem

theorem coldStarted_coldReady (power : Bool) (f : StartFindings) (s : State) :
    ColdStarted power s (arrival (coldReady power f s)) := by
  have hready : arrival (coldReady power f s) = { arrival (coldState power (tallyScan f s)) with
    startKind := if power then 0 else 1, powered := true } := rfl
  rw [hready]
  rw [tallyScan_writes]
  exact ⟨rfl, rfl, rfl, rfl, rfl, rfl, rfl, rfl, rfl, rfl, rfl⟩

/-- What a start from power-up takes of the state at its power loss. -/
theorem afterReset_facts (s : State) : (assertReset s).store.opsecStored = s.store.opsecStored ∧
    (assertReset s).glb.pwrcyc = s.glb.pwrcyc ∧ (assertReset s).power.online = false ∧
    (assertReset s).power.longHold = false ∧ (assertReset s).granary = s.granary := by
  have hb := standby_assertReset s
  generalize assertReset s = t at hb
  have hstore := congrArg Standby.store hb
  have hglb := congrArg Standby.glb hb
  have hpower := congrArg Standby.power hb
  have hopsec := congrArg Store.opsecStored hstore
  have hpwrcyc := congrArg Glb.pwrcyc hglb
  exact ⟨hopsec, hpwrcyc, congrArg Power.online hpower, congrArg Power.longHold hpower, congrArg Standby.granary hb⟩

/-- TEST from a state of which RST_N has not been held for 10 s (R365, R401). -/
theorem enterTest_eq {s : State} (hshort : s.power.longHold = false) : enterTest s = zeroSecrets (sticky 3 13 (tokenByState (releaseWires
    { s with
      glb := { s.glb with gstate := .test }
      power := { s.power with
        inReset := false, longHold := false, testEn := true, parked := false, latch := setBit s.power.latch 2 } }))) := by
  unfold enterTest
  rw [if_neg (by simp [hshort])]

theorem arrival_enterTest {s : State} (hshort : s.power.longHold = false) : arrival (enterTest s) =
    { arrival s with glb := { (arrival s).glb with gstate := .test }, inReset := false, parked := false } := by
  rw [enterTest_eq hshort]
  exact (arrival_sticky _ 3 13).trans (arrival_tokenByState _)

/-- POWER_UP into TEST: the cold state of R371 (R365). -/
def testStart (s : State) : State :=
  let t := coldState true s
  { t with power := { t.power with powered := true } }

theorem coldStarted_testStart (s : State) : ColdStarted true s (arrival (testStart s)) :=
  ⟨rfl, rfl, rfl, rfl, rfl, rfl, rfl, rfl, rfl, rfl, rfl⟩

theorem testStart_short {s : State} (h : s.power.longHold = false) : (testStart s).power.longHold = false := h

theorem exec_powerUp (f : StartFindings) (s : State) : exec (.powerUp f) s = .next
    (if f.testEn then enterTest (testStart (assertReset s)) else coldStart true f (assertReset s)) := by
  show execPowerUp f s = _
  unfold execPowerUp
  rfl

/-- What POWER_UP shows of the counts, whichever way the start goes (R377). -/
theorem powerUp_counts (f : StartFindings) (s : State) : ∃ t, exec (.powerUp f) s = .next t ∧
    t.glb.opsec = s.store.opsecStored ∧ t.glb.pwrcyc = s.glb.pwrcyc + 1 ∧ t.power.online = false := by
  obtain ⟨hstored, hpwrcyc, honline, hshort, -⟩ := afterReset_facts s
  rw [exec_powerUp]
  generalize assertReset s = u at hstored hpwrcyc honline hshort
  cases htest : f.testEn with
  | true =>
    have hcold := coldStarted_testStart u
    have harrives := arrival_enterTest (testStart_short hshort)
    refine ⟨enterTest (testStart u), congrArg Host.Outcome.next (if_pos rfl), ?_⟩
    generalize enterTest (testStart u) = t at harrives
    have hglb := congrArg Arrival.glb harrives
    have hopsec := congrArg Glb.opsec hglb
    have hcycles := congrArg Glb.pwrcyc hglb
    exact ⟨hopsec.trans (hcold.opsec.trans hstored), hcycles.trans (hcold.pwrcyc.trans (congrArg (· + 1) hpwrcyc)),
      (congrArg Arrival.online harrives).trans (hcold.online.trans honline)⟩
  | false =>
    have hcold := coldStarted_coldReady true f u
    have hstart := started_coldStart true f u
    refine ⟨coldStart true f u, congrArg Host.Outcome.next (if_neg Bool.false_ne_true), ?_⟩
    generalize coldStart true f u = t at hstart
    exact ⟨hstart.opsec.trans (hcold.opsec.trans hstored), hstart.pwrcyc.trans (hcold.pwrcyc.trans (congrArg (· + 1) hpwrcyc)),
      hstart.online.trans (hcold.online.trans honline)⟩

/-- A cold restart leaves the counts as they are (R377). -/
theorem coldRestart_counts (f : StartFindings) {s : State} (hpowered : s.power.powered = true) (hreset : s.power.inReset = true)
    (hlong : s.power.longHold = true) :
    ∃ t, exec (.rstNRelease false f) s = .next t ∧ t.glb.opsec = s.glb.opsec ∧ t.glb.pwrcyc = s.glb.pwrcyc := by
  have hcold := coldStarted_coldReady false f s
  have hstart := started_coldStart false f s
  have hrelease : releaseReset false f s = coldStart false f s := (if_neg Bool.false_ne_true).trans (if_pos hlong)
  refine ⟨coldStart false f s, congrArg Host.Outcome.next ((if_pos ⟨hpowered, hreset⟩).trans hrelease), ?_⟩
  exact ⟨hstart.opsec.trans hcold.opsec, hstart.pwrcyc.trans hcold.pwrcyc⟩

/-- The stored value follows GLB_OPSEC in steps of 64 s (R377). -/
theorem opsecTick_block {s : State} (hpowered : s.power.powered = true) (hreset : s.power.inReset = false)
    (hmirror : anyMirror s = true) (hblock : s.glb.opsec.toNat / 64 = s.store.opsecStored.toNat / 64) :
    ∃ t, exec .opsecTick s = .next t ∧ t.glb.opsec = s.glb.opsec + 1 ∧
      t.glb.opsec.toNat / 64 = t.store.opsecStored.toNat / 64 ∧
      (t.glb.opsec.toNat % 64 = 0 → t.store.opsecStored = t.glb.opsec) ∧
      t = { s with glb := { s.glb with opsec := t.glb.opsec }, store := { s.store with opsecStored := t.store.opsecStored } } := by
  have htick : opsecTick s = { s with
      glb := { s.glb with opsec := s.glb.opsec + 1 }
      store := if (s.glb.opsec + 1).toNat % 64 = 0 then { s.store with opsecStored := s.glb.opsec + 1 } else s.store } := by
    unfold opsecTick
    rw [if_neg (by simp [hpowered])]
    simp only [hmirror, hreset, and_true]
  by_cases hstore : (s.glb.opsec + 1).toNat % 64 = 0
  · rw [if_pos hstore] at htick
    exact ⟨_, congrArg Host.Outcome.next htick, rfl, rfl, fun _ => rfl, rfl⟩
  · rw [if_neg hstore] at htick
    refine ⟨_, congrArg Host.Outcome.next htick, rfl, ?_, fun h => absurd h hstore, rfl⟩
    show (s.glb.opsec + 1).toNat / 64 = s.store.opsecStored.toNat / 64
    rw [BitVec.toNat_add] at hstore ⊢
    have hlt := s.glb.opsec.isLt
    have hone : (1 : Word).toNat = 1 := rfl
    omega

/-- Settles O51: the tick, the flush and its marker, a power-up and a cold restart. -/
theorem operatingSeconds : Obligations.OperatingSeconds := by
  unfold Obligations.OperatingSeconds
  refine ⟨fun s => opsecTick_block, fun s hpowered hpfail hreset honline => ?_, fun k ops d s hflush hreset hmirror => ?_,
    powerUp_counts, fun f s => coldRestart_counts f⟩
  · refine ⟨powerFails s, rfl, ?_⟩
    unfold powerFails
    rw [if_neg (by simp [hpowered, hpfail])]
    extract_lets unread flush _ _ noted
    have hb := (standby_bistAbort (sticky 3 10 noted) 1).trans (standby_sticky noted 3 10)
    have hkept := congrArg Store.flush (congrArg Standby.store hb)
    have hread : flush = some (s.store.pendingSheaf, s.glb.opsec, s.store.retainedPending) :=
      if_neg (by simp [unread, honline, hreset])
    exact hkept.trans hread
  · refine ⟨flushVerified s, rfl, ?_⟩
    unfold flushVerified
    simp only [hflush, hreset, hmirror]
    rfl

end Sys2Proof.Machine.PowerProofs
end

section
/-!
SUPPORT. Supervisor restarts and the mailbox's return (18_startup_power.md R373, R374; 16_mailbox.md R353, R354).
-/
namespace Sys2Proof.Machine.PowerProofs
open Sys2Proof.Safety

theorem length_modAt {α : Type} (f : α → α) (i : Nat) (l : List α) : (modAt f i l).length = l.length := by
  induction l generalizing i with
  | nil => cases i <;> rfl
  | cons a l ih =>
    cases i with
    | zero => rfl
    | succ i => exact congrArg (· + 1) (ih i)

theorem sticky_length (r b : Nat) (s : State) : (sticky r b s).stk.sets.length = s.stk.sets.length := by
  unfold sticky
  split
  · exact length_modAt _ _ _
  · split
    · split
      · exact length_modAt _ _ _
      · rfl
    · rfl

theorem tally_length (event : Half) (detail : List Quad) (s : State) :
    (tally event detail s).stk.sets.length = s.stk.sets.length := by
  unfold tally dropEvent
  split
  · dsimp only
    split
    · exact sticky_length _ _ _
    · rfl
  · rfl

/-- What a supervisor restart leaves alone (R373): all but the mailbox's state, counters, sticky bits, the Tally and secrets. -/
structure Unserved where
  glb : Glb
  cfg : Settings
  samp : Sampling
  ing : Ingest
  tb : Timebase
  zones : FMap Zone
  insts : FMap Inst
  logic : Logic
  wires : FMap Wire
  granary : Granary
  store : Store
  trust : Trust
  flight0 : List Inflight
  dumpBusy : Option Dump
  bist : Bist
  power : Power

def unserved (s : State) : Unserved :=
  ⟨s.glb, s.cfg, s.samp, s.ing, s.tb, s.zones, s.insts, s.logic, s.wires, s.granary, s.store, s.trust, s.pf0.inflight, s.dumpBusy,
    s.bist, s.power⟩

theorem unserved_tally (event : Half) (detail : List Quad) (s : State) : unserved (tally event detail s) = unserved s := by
  have h := congrArg unserved (SheafProofs.tally_frame event detail s)
  exact h

theorem unserved_sticky (r b : Nat) (s : State) : unserved (sticky r b s) = unserved s := by
  have h := congrArg unserved (sticky_spec r b s)
  exact h

theorem unserved_count (i n : Nat) (s : State) : unserved (count i n s) = unserved s := rfl

theorem unserved_setOnline (b : Bool) (s : State) :
    unserved (setOnline b s) = { unserved s with power := { s.power with online := b } } := by
  unfold setOnline
  split
  next h =>
    subst h
    rfl
  · extract_lets f
    have hflight : (f s.pf0).inflight = s.pf0.inflight := by
      unfold f
      split
      · exact SheafProofs.raiseIn_inflight 3 s.pf0
      · rfl
    simp only [unserved, hflight]
    rfl

/-- The restart offline, its instant kept and the session keys zeroed (R373, R393). -/
def mailboxOff (s : State) : State := setOnline false { s with
  power := { s.power with restarts := s.tb.now :: recentRestarts s }
  bist := { s.bist with sessionKeys := false } }

/-- The restart counted and entered (R373). -/
def restartEntered (cause : Nat) (s : State) : State :=
  sticky 3 1 (count 187 1 (tally 0x0D03 [Config.supervisorCause cause, item (s.tb.now :: recentRestarts s).length] (mailboxOff s)))

theorem restartSupervisor_eq (cause : Nat) (s : State) : restartSupervisor cause s =
    if 5 ≤ (s.tb.now :: recentRestarts s).length ∨ (slotFault (restartEntered cause s) (restartEntered cause s).trust.running).isSome then
      tally 0x0D04 [Config.supervisorCause cause, item (s.tb.now :: recentRestarts s).length]
        { restartEntered cause s with power := { (restartEntered cause s).power with parked := true } }
    else restartEntered cause s := rfl

theorem unserved_restartEntered (cause : Nat) (s : State) : unserved (restartEntered cause s) = { unserved s with
    power := { s.power with restarts := s.tb.now :: recentRestarts s, online := false }
    bist := { s.bist with sessionKeys := false } } :=
  (unserved_sticky _ _ _).trans ((unserved_count _ _ _).trans ((unserved_tally _ _ _).trans (unserved_setOnline _ _)))

/-- The checks of the image in a slot read the firmware's records alone (R383). -/
theorem slotFault_congr {s t : State} (h : t.trust = s.trust) (n : Nat) : slotFault t n = slotFault s n := by
  unfold slotFault ownerSet ownerPackageWhole imageSigned ownerSet ownerPub
  rw [h]

/-- The fifth restart within 600 s parks the supervisor, and so does a running slot that fails its checks (R373, R384). -/
def parks (s : State) : Prop := 4 ≤ (recentRestarts s).length ∨ (slotFault s s.trust.running).isSome = true

theorem restartEntered_trust (cause : Nat) (s : State) : (restartEntered cause s).trust = s.trust :=
  congrArg Unserved.trust (unserved_restartEntered cause s)

theorem restart_parks (cause : Nat) (s : State) : (5 ≤ (s.tb.now :: recentRestarts s).length ∨
    (slotFault (restartEntered cause s) (restartEntered cause s).trust.running).isSome = true) ↔ parks s := by
  have htrust := restartEntered_trust cause s
  rw [slotFault_congr htrust, htrust, parks, List.length_cons]
  refine or_congr_left ?_
  omega

/-- What a supervisor restart makes of the mailbox, and all that it leaves (R373). -/
theorem restartSupervisor_leaves (cause : Nat) {s : State} (hup : s.power.parked = false) :
    ∃ parked, (parked = true ↔ parks s) ∧ unserved (restartSupervisor cause s) = { unserved s with
      power := { s.power with restarts := s.tb.now :: recentRestarts s, online := false, parked := parked }
      bist := { s.bist with sessionKeys := false } } := by
  have hentered := unserved_restartEntered cause s
  rw [restartSupervisor_eq]
  by_cases hparks : parks s
  · refine ⟨true, by simp [hparks], ?_⟩
    rw [if_pos ((restart_parks cause s).mpr hparks), unserved_tally]
    generalize restartEntered cause s = t at hentered
    have hparked := congrArg (fun x : Unserved => { x with power := { x.power with parked := true } }) hentered
    exact hparked
  · refine ⟨false, by simp [hparks], ?_⟩
    rw [if_neg (fun h => hparks ((restart_parks cause s).mp h)), hentered, ← hup]

/-- A later entry keeps the count and the sticky bit of a supervisor restart (R373). -/
theorem restartSupervisor_counts (cause : Nat) (s : State) :
    FMap.get (restartSupervisor cause s).cnt 0 187 = FMap.get s.cnt 0 187 + 1 ∧
      (s.glb.running = true → s.stk.sets.length = 4 → bit (regAt (restartSupervisor cause s).stk.sets 3) 1 = true) := by
  let noted := tally 0x0D03 [Config.supervisorCause cause, item (s.tb.now :: recentRestarts s).length] (mailboxOff s)
  have hentered : restartEntered cause s = sticky 3 1 (count 187 1 noted) := rfl
  have hoff : (mailboxOff s).cnt = s.cnt ∧ (mailboxOff s).stk = s.stk ∧ (mailboxOff s).glb = s.glb := by
    unfold mailboxOff setOnline
    split <;> exact ⟨rfl, rfl, rfl⟩
  obtain ⟨hcnt, hstk, hglb⟩ := hoff
  have hcount : FMap.get (restartEntered cause s).cnt 0 187 = FMap.get s.cnt 0 187 + 1 := by
    rw [hentered, GranaryProofs.sticky_cnt, (count_spec 187 1 noted).1 187, if_pos rfl, GranaryProofs.tally_cnt (by decide), hcnt]
  have hbit (hrun : s.glb.running = true) (hlen : s.stk.sets.length = 4) :
      bit (regAt (restartEntered cause s).stk.sets 3) 1 = true := by
    have hnotedRun : (count 187 1 noted).glb.running = true := by
      have h := congrArg (fun x : Unserved => x.glb.running) (unserved_tally 0x0D03
        [Config.supervisorCause cause, item (s.tb.now :: recentRestarts s).length] (mailboxOff s))
      exact h.trans ((congrArg Glb.running hglb).trans hrun)
    have hnotedLen : (count 187 1 noted).stk.sets.length = 4 :=
      (tally_length _ _ _).trans ((congrArg (fun x : Sticky => x.sets.length) hstk).trans hlen)
    rw [hentered, sticky_running 3 1 _ hnotedRun]
    show bit (regAt (modAt (fun w => setBit w 1) 3 (count 187 1 noted).stk.sets) 3) 1 = true
    rw [GranaryProofs.regAt_modAt, if_pos ⟨rfl, by omega⟩]
    exact GranaryProofs.bit_setBit_self _ (by decide)
  rw [restartSupervisor_eq]
  split
  · exact ⟨(GranaryProofs.tally_cnt (by decide) _ _ _).trans hcount, fun hrun hlen => GranaryProofs.tally_raises _ _ (hbit hrun hlen)⟩
  · exact ⟨hcount, hbit⟩

end Sys2Proof.Machine.PowerProofs
end

section
/-!
SUPPORT. The rows of a supervisor restart, and the mailbox's return with nothing to resolve (18_startup_power.md R373, R374;
16_mailbox.md R353, R354).
-/
namespace Sys2Proof.Machine.PowerProofs
open Sys2Proof.Safety

/-- What a supervisor restart of state s at time u shows in t, the dump apart (R373). -/
structure Restarted (u : Time) (s t : State) : Prop where
  offline : t.power.online = false
  noKeys : t.bist.sessionKeys = false
  counted : FMap.get t.cnt 0 187 = FMap.get s.cnt 0 187 + 1
  restarts : t.power.restarts = (advance u s).tb.now :: recentRestarts (advance u s)
  parked : t.power.parked = true ↔ 4 ≤ (recentRestarts (advance u s)).length ∨ (slotFault s s.trust.running).isSome = true
  shown : s.glb.running = true → s.stk.sets.length = 4 → bit (regAt t.stk.sets 3) 1 = true
  glb : t.glb = { s.glb with free := t.glb.free }
  cfg : t.cfg = s.cfg
  samp : t.samp = s.samp
  ing : t.ing = s.ing
  tb : t.tb = (advance u s).tb
  zones : t.zones = s.zones
  insts : t.insts = s.insts
  logic : t.logic = s.logic
  wires : t.wires = s.wires
  granary : t.granary = s.granary
  store : t.store = s.store
  trust : t.trust = s.trust
  flight : t.pf0.inflight = s.pf0.inflight

theorem advance_writes (u : Time) (s : State) : advance u s = { s with tb := (advance u s).tb } := by
  have h := congrArg (fun x : State => { x with tb := (advance u s).tb }) (advance_spec u s).2
  exact h

/-- A restart from a state that differs from s at u in the dump and the free values drawn alone. -/
theorem restarted_of {cause : Nat} {u : Time} {s w : State} (hup : s.power.parked = false)
    (hw : unserved w = { unserved s with
      tb := (advance u s).tb, dumpBusy := w.dumpBusy, glb := { s.glb with free := w.glb.free } })
    (hcnt : w.cnt = s.cnt) (hlen : w.stk.sets.length = s.stk.sets.length) :
    Restarted u s (restartSupervisor cause w) ∧ (restartSupervisor cause w).dumpBusy = w.dumpBusy := by
  have hpower : w.power = s.power := congrArg Unserved.power hw
  have htb : w.tb = (advance u s).tb := congrArg Unserved.tb hw
  have htrust : w.trust = s.trust := congrArg Unserved.trust hw
  have hglb : w.glb = { s.glb with free := w.glb.free } := congrArg Unserved.glb hw
  have hrunning : w.glb.running = s.glb.running := by rw [hglb]
  have hrecent : recentRestarts w = recentRestarts (advance u s) := by
    have hapower : (advance u s).power = s.power := by rw [advance_writes]
    unfold recentRestarts
    rw [hpower, htb, hapower]
  obtain ⟨parked, hparked, hleaves⟩ := restartSupervisor_leaves cause (s := w) (by rw [hpower]; exact hup)
  obtain ⟨hcounted, hshown⟩ := restartSupervisor_counts cause w
  rw [parks, hrecent, slotFault_congr htrust, htrust] at hparked
  rw [hcnt] at hcounted
  rw [hrunning, hlen] at hshown
  generalize restartSupervisor cause w = t at hleaves hcounted hshown
  have part {α : Type} (f : Unserved → α) := congrArg f hleaves
  have hfree : t.glb = w.glb := part Unserved.glb
  refine ⟨⟨part (fun x => x.power.online), part (fun x => x.bist.sessionKeys), hcounted, ?_, ?_, hshown, ?_, ?_, ?_, ?_, ?_, ?_, ?_, ?_, ?_, ?_,
    ?_, ?_, ?_⟩, part Unserved.dumpBusy⟩
  · rw [← htb, ← hrecent]
    exact part (fun x => x.power.restarts)
  · rw [show t.power.parked = parked from part (fun x => x.power.parked)]
    exact hparked
  · rw [hfree]
    exact hglb
  · exact (part Unserved.cfg).trans (congrArg Unserved.cfg hw)
  · exact (part Unserved.samp).trans (congrArg Unserved.samp hw)
  · exact (part Unserved.ing).trans (congrArg Unserved.ing hw)
  · exact (part Unserved.tb).trans htb
  · exact (part Unserved.zones).trans (congrArg Unserved.zones hw)
  · exact (part Unserved.insts).trans (congrArg Unserved.insts hw)
  · exact (part Unserved.logic).trans (congrArg Unserved.logic hw)
  · exact (part Unserved.wires).trans (congrArg Unserved.wires hw)
  · exact (part Unserved.granary).trans (congrArg Unserved.granary hw)
  · exact (part Unserved.store).trans (congrArg Unserved.store hw)
  · exact (part Unserved.trust).trans htrust
  · exact (part Unserved.flight0).trans (congrArg Unserved.flight0 hw)

/-- A restart without a dump (R374). -/
theorem restarted_plain (cause : Nat) (u : Time) {s : State} (hup : s.power.parked = false) :
    Restarted u s (plainRestart cause u s) ∧ (plainRestart cause u s).dumpBusy = none := by
  have h := restarted_of (cause := cause) (u := u) (w := { advance u s with dumpBusy := none }) hup
  rw [advance_writes u s] at h
  rw [plainRestart, advance_writes u s]
  exact h rfl rfl rfl

/-- A fatal error begins its dump first (R374, R402). -/
theorem restarted_fatal (i : FaultItems) (u : Time) {s : State} (hup : s.power.parked = false) :
    Restarted u s (fatalError i u s) ∧ ∃ d, (fatalError i u s).dumpBusy = some d ∧ d.cause = 1 := by
  let dumped := startDump 1 [i.code.toNat, i.pc.toNat, i.addr.toNat, i.status.toNat] (advance u s)
  have hmark := unserved_sticky 3 0 dumped
  have hdumped : unserved dumped = { unserved s with
      tb := (advance u s).tb, dumpBusy := dumped.dumpBusy, glb := { s.glb with free := dumped.glb.free } } := by
    unfold dumped
    rw [advance_writes]
    rfl
  have hglb : (sticky 3 0 dumped).glb = dumped.glb := congrArg Unserved.glb hmark
  have hbusy : (sticky 3 0 dumped).dumpBusy = dumped.dumpBusy := congrArg Unserved.dumpBusy hmark
  have hcnt : (sticky 3 0 dumped).cnt = s.cnt := by
    rw [GranaryProofs.sticky_cnt]
    unfold dumped
    rw [advance_writes]
    rfl
  have hlen : (sticky 3 0 dumped).stk.sets.length = s.stk.sets.length := by
    rw [sticky_length]
    unfold dumped
    rw [advance_writes]
    rfl
  have h := restarted_of (cause := 1) (u := u) (w := sticky 3 0 dumped) hup (by rw [hmark, hdumped, hglb, hbusy]) hcnt hlen
  exact ⟨h.1, _, h.2.trans hbusy, rfl⟩

/-- The mailbox is online, and the session keys are derived unless ZEROISE or a scan withholds them (R354, R393). -/
def servedAgain (s : State) : State :=
  if zeroised s = true ∨ chainShifts s = true ∨ s.bist.scanEnd.isSome = true then setOnline true s
  else { setOnline true s with bist := { s.bist with sessionKeys := true } }

theorem setOnline_frame (b : Bool) (s : State) : (setOnline b s).bist = s.bist ∧ (setOnline b s).cnt = s.cnt ∧
    (setOnline b s).bells = s.bells ∧ (setOnline b s).power = { s.power with online := b } ∧
    (setOnline b s).pf0.inflight = s.pf0.inflight ∧ (setOnline b s).pf1.inflight = s.pf1.inflight := by
  unfold setOnline
  split
  next h =>
    subst h
    exact ⟨rfl, rfl, rfl, rfl, rfl, rfl⟩
  · extract_lets f
    have hflight (x : ViewState) : (f x).inflight = x.inflight := by
      unfold f
      split
      · exact SheafProofs.raiseIn_inflight 3 x
      · rfl
    exact ⟨rfl, rfl, rfl, rfl, hflight _, hflight _⟩

theorem servedAgain_frame (s : State) : (servedAgain s).cnt = s.cnt ∧ (servedAgain s).bells = s.bells ∧
    (servedAgain s).power = { s.power with online := true } ∧
    (servedAgain s).pf0.inflight = s.pf0.inflight ∧ (servedAgain s).pf1.inflight = s.pf1.inflight := by
  obtain ⟨-, hrest⟩ := setOnline_frame true s
  unfold servedAgain
  split <;> exact hrest

/-- The commands in flight resolved (R354). -/
def resolved (s : State) : State :=
  let s := s.pf0.inflight.foldl (fun s e => resolveOne .pf0 e s) s
  s.pf1.inflight.foldl (fun s e => resolveOne .pf1 e s) s

/-- MAILBOX_RETURNED, the events that were held, and the doorbells after them (R353, R354). -/
def eventsPosted (s : State) : State :=
  let s := postEvent 0x0E05 (BitVec.ofNat 64 (FMap.get s.cnt (0 : Nat) 187)) s
  let held := s.power.heldEvents
  let s := { s with power := { s.power with heldEvents := [] } }
  let s := held.foldl (fun s p => postEvent p.1 p.2 s) s
  settle { s with bells := sortBells s }

theorem mailboxPosts_eq (s : State) : mailboxPosts s = eventsPosted (resolved (servedAgain s)) := by
  have hserved : (if zeroised (setOnline true s) = true ∨ chainShifts (setOnline true s) = true ∨
      (setOnline true s).bist.scanEnd.isSome = true then setOnline true s
      else { setOnline true s with bist := { (setOnline true s).bist with sessionKeys := true } }) = servedAgain s := by
    obtain ⟨hbist, -, -, hpower, -⟩ := setOnline_frame true s
    unfold servedAgain zeroised chainShifts
    rw [hbist, hpower]
  rw [← hserved]
  rfl

theorem resolved_idle {s : State} (h0 : s.pf0.inflight = []) (h1 : s.pf1.inflight = []) : resolved s = s := by
  unfold resolved
  rw [h0]
  dsimp only [List.foldl_nil]
  rw [h1, List.foldl_nil]

theorem postEvent_inflight (code : Half) (arg : Quad) (s : State) :
    (postEvent code arg s).pf0.inflight = s.pf0.inflight ∧ (postEvent code arg s).bells = s.bells := by
  unfold postEvent
  split
  · exact ⟨SheafProofs.postIn_inflight _ _ _, rfl⟩
  · exact ⟨rfl, rfl⟩

theorem eventsPosted_idle {s : State} (honline : s.power.online = true) (hheld : s.power.heldEvents = []) (h0 : s.pf0.inflight = [])
    (hbells : s.bells = []) : eventsPosted s = postEvent 0x0E05 (BitVec.ofNat 64 (FMap.get s.cnt 0 187)) s := by
  let t := postEvent 0x0E05 (BitVec.ofNat 64 (FMap.get s.cnt 0 187)) s
  obtain ⟨hflight, hwaits⟩ := postEvent_inflight 0x0E05 (BitVec.ofNat 64 (FMap.get s.cnt 0 187)) s
  have hpower : t.power = s.power := (postEvent_spec 0x0E05 _ s).2.1 honline
  have hnone : t.power.heldEvents = [] := (congrArg Power.heldEvents hpower).trans hheld
  have hsame : { t with power := { t.power with heldEvents := [] } } = t := by
    rw [← hnone]
  have hsorted : sortBells t = t.bells := by
    unfold sortBells
    rw [show t.bells = [] from hwaits.trans hbells]
    rfl
  unfold eventsPosted
  dsimp only
  rw [show (postEvent 0x0E05 (BitVec.ofNat 64 (FMap.get s.cnt 0 187)) s) = t from rfl, hsame, hnone, List.foldl_nil, hsorted]
  exact PairProofs.settle_nothingWaits ⟨hwaits.trans hbells, hflight.trans h0⟩

/-- MAILBOX_RETURN with nothing in flight, waiting or held: online, the session keys derived, the event posted (R354, R353). -/
theorem mailboxPosts_idle {s : State} (h0 : s.pf0.inflight = []) (h1 : s.pf1.inflight = []) (hbells : s.bells = [])
    (hheld : s.power.heldEvents = []) :
    mailboxPosts s = postEvent 0x0E05 (BitVec.ofNat 64 (FMap.get s.cnt 0 187)) (servedAgain s) := by
  obtain ⟨hcnt, hwaits, hpower, hflight0, hflight1⟩ := servedAgain_frame s
  rw [mailboxPosts_eq, resolved_idle (hflight0.trans h0) (hflight1.trans h1), eventsPosted_idle (by rw [hpower])
    (by rw [hpower]; exact hheld) (hflight0.trans h0) (hwaits.trans hbells), hcnt]

/-- Settles O55, one lemma for each row. -/
theorem supervisorRestarts : Obligations.SupervisorRestarts := by
  unfold Obligations.SupervisorRestarts
  refine ⟨fun i u s => ⟨fun hdown c hc => ?_, fun hruns c hc => ?_⟩, fun s => ⟨fun hoff => ?_, ?_⟩⟩
  · have hoff (f : State → State) : (Host.Outcome.next (if mayRestart s then f s else s) : Host.Outcome State Fault Refusal) = .next s := by
      rw [hdown]
      rfl
    simp only [List.mem_cons, List.not_mem_nil, or_false] at hc
    rcases hc with rfl | rfl | rfl
    · exact hoff (plainRestart 0 u)
    · exact hoff (plainRestart 2 u)
    · exact hoff (fatalError i u)
  · have hup : s.power.parked = false := by
      simp only [mayRestart, Bool.and_eq_true, Bool.not_eq_true'] at hruns
      exact hruns.1.1.2
    have hon (f : State → State) : (Host.Outcome.next (if mayRestart s then f s else s) : Host.Outcome State Fault Refusal) =
        .next (f s) := by
      rw [hruns]
      rfl
    simp only [List.mem_cons, List.not_mem_nil, or_false] at hc
    obtain ⟨t, ht, h, hdump, hnone⟩ : ∃ t, exec c s = .next t ∧ Restarted u s t ∧
        (c = .supervisorFatalError i u → ∃ d, t.dumpBusy = some d ∧ d.cause = 1) ∧
        (c ≠ .supervisorFatalError i u → t.dumpBusy = none) := by
      rcases hc with rfl | rfl | rfl
      · obtain ⟨h, hnone⟩ := restarted_plain 0 u hup
        exact ⟨_, hon (plainRestart 0 u), h, nofun, fun _ => hnone⟩
      · obtain ⟨h, hnone⟩ := restarted_plain 2 u hup
        exact ⟨_, hon (plainRestart 2 u), h, nofun, fun _ => hnone⟩
      · obtain ⟨h, hdump⟩ := restarted_fatal i u hup
        exact ⟨_, hon (fatalError i u), h, fun _ => hdump, fun hne => absurd rfl hne⟩
    exact ⟨t, ht, h.offline, h.noKeys, h.counted, h.restarts, h.parked, h.shown, hdump, hnone, h.glb, h.cfg, h.samp, h.ing, h.tb,
      h.zones, h.insts, h.logic, h.wires, h.granary, h.store, h.trust, h.flight⟩
  · refine congrArg Host.Outcome.next (if_pos ?_)
    rcases hoff with honline | hparked
    · exact Or.inl honline
    · exact Or.inr (Or.inl hparked)
  · intro hoffline hup hreset htest h0 h1 hbells hheld
    refine congrArg Host.Outcome.next ((if_neg (by simp [hoffline, hup, hreset, htest])).trans ?_)
    unfold together
    rw [mailboxPosts_idle h0 h1 hbells hheld]
    rfl

end Sys2Proof.Machine.PowerProofs
end

section
/-!
SUPPORT. The slot that the governing record names, power-up and the test mode (18_startup_power.md R365, R367, R371; 19_trust.md R381,
R383, R384, R393).
-/
namespace Sys2Proof.Machine.PowerProofs
open Sys2Proof.Safety

/-- The activation record with the highest SEQ in a mirror that can be read (R381). -/
def governingRecord (f : StartFindings) (t : Trust) : Option ActRecord :=
  ((if f.norA then t.recordsA else []) ++ (if f.norB then t.recordsB else [])).foldl
    (fun (m : Option ActRecord) r => if m.all (fun x => x.seq < r.seq) then some r else m) none

/-- A record's part of the firmware's state. -/
def withRecord (t : Trust) : Option ActRecord → Trust
  | none => t
  | some r => { t with
      actSeq := r.seq, activeSlot := r.activeSlot, slotState := r.state, slotDigest := r.digest
      slotVersion := r.version, slotBg := r.bg }

def governedTrust (f : StartFindings) (t : Trust) : Trust := withRecord t (governingRecord f t)

theorem governed_eq (f : StartFindings) (s : State) : governed f s = { s with trust := governedTrust f s.trust } := by
  unfold governedTrust
  cases hrecord : governingRecord f s.trust with
  | none =>
    have h : governed f s = match (none : Option ActRecord) with
      | none => s
      | some r => { s with trust := withRecord s.trust (some r) } := by
      rw [← hrecord]
      rfl
    exact h
  | some r =>
    have h : governed f s = match some r with
      | none => s
      | some r => { s with trust := withRecord s.trust (some r) } := by
      rw [← hrecord]
      rfl
    exact h

theorem governedTrust_due (f : StartFindings) (t : Trust) (due : Bool) :
    governedTrust f { t with activationDue := due } = { governedTrust f t with activationDue := due } := by
  have hrecord : governingRecord f { t with activationDue := due } = governingRecord f t := rfl
  unfold governedTrust
  rw [hrecord]
  cases governingRecord f t <;> rfl

theorem slotFault_due (s : State) (t : Trust) (due : Bool) (n : Nat) :
    slotFault { s with trust := { t with activationDue := due } } n = slotFault { s with trust := t } n := rfl

/-- The slot that governs passes: its findings and the image that the model holds. -/
def activePasses (f : StartFindings) (s : State) : Prop :=
  f.slotPasses[(governed f s).trust.activeSlot]? = some true ∧ slotFault (governed f s) (governed f s).trust.activeSlot = none

/-- The firmware runs from slot n. -/
def runsSlot (n : Nat) (u : State) : State := { u with trust := { u.trust with running := n, fallback := false } }

theorem trust_released {f : StartFindings} {s u : State} {due : Bool} (htrust : u.trust = { s.trust with activationDue := due }) :
    (released f u).trust = { governedTrust f s.trust with activationDue := due } := by
  rw [released, governed_eq]
  exact (congrArg (governedTrust f) htrust).trans (governedTrust_due f s.trust due)

/-- A start whose firmware records are those of s, an activation due apart, runs the slot that governs in s. -/
theorem bootSlot_governing {f : StartFindings} {s u : State} {due : Bool} (hpasses : activePasses f s)
    (htrust : u.trust = { s.trust with activationDue := due }) :
    bootSlot f (released f u) = some (runsSlot (governed f s).trust.activeSlot) := by
  obtain ⟨hfinding, hfault⟩ := hpasses
  have hreleased := trust_released (f := f) htrust
  have hactive : (released f u).trust.activeSlot = (governed f s).trust.activeSlot := by
    rw [hreleased, governed_eq]
  have hsame : slotFault (released f u) (governed f s).trust.activeSlot = none := by
    rw [← hfault, governed_eq f s]
    exact (slotFault_congr (s := { s with trust := { governedTrust f s.trust with activationDue := due } }) hreleased _).trans
      (slotFault_due _ _ _ _)
  have h := bootSlot_active (f := f) (s := released f u) (by rw [hactive]; exact hfinding) (by rw [hactive]; exact hsame)
  rw [hactive] at h
  exact h

theorem quiet_coldReady (power : Bool) (f : StartFindings) (s : State) : Quiet (coldReady power f s) := by
  have hwires : (coldReady power f s).wires = [] := rfl
  exact ⟨fun n w h => by rw [hwires] at h; exact absurd h List.not_mem_nil, rfl⟩

theorem quiet_selfTestOutcome (f : StartFindings) {s : State} (h : Quiet s) : Quiet (selfTestOutcome f s) := by
  unfold selfTestOutcome
  extract_lets stop
  split
  · exact (quiet_inv_halt _ _ _ _).1
  · split
    · exact (quiet_inv_halt _ _ _ _).1
    · exact h

theorem quiet_coldStart (power : Bool) (f : StartFindings) (s : State) : Quiet (coldStart power f s) := by
  have hready := quiet_coldReady power f s
  cases hslot : bootSlot f (released f (coldReady power f s)) with
  | none =>
    have hcore : core (released f (coldReady power f s)) = core (coldReady power f s) := core_governed f _
    rw [coldStart_none hslot]
    exact quiet_of_parts (congrArg Core.wires hcore) (congrArg Core.token hcore) hready
  | some report =>
    obtain ⟨x, y, hcold, -, hx, hy, -⟩ := coldStart_some hslot
    rw [hcold]
    exact quiet_selfTestOutcome f (quiet_of_core (hx.trans hy) hready)

/-- Without a slot that passes the engine is parked in BOOT (R365, R384). -/
theorem coldStart_parked {power : Bool} {f : StartFindings} {s : State} (h : ∀ n : Nat, f.slotPasses[n]? ≠ some true) :
    (coldStart power f s).power.parked = true ∧ (coldStart power f s).glb.gstate = .boot := by
  have hslot := bootSlot_none (s := released f (coldReady power f s)) h
  obtain ⟨bgs, hreleased⟩ := arrival_released f (coldReady power f s)
  have hboot := (coldStarted_coldReady power f s).gstate
  rw [coldStart_none hslot]
  generalize coldReady power f s = u at hreleased hboot
  have hglb := congrArg Arrival.glb hreleased
  have hgstate := congrArg Glb.gstate hglb
  exact ⟨rfl, hgstate.trans hboot⟩

/-- With a slot that governs and passes, that slot runs (R383). -/
theorem coldStart_runs {power : Bool} {f : StartFindings} {s : State} {n : Nat}
    (h : bootSlot f (released f (coldReady power f s)) = some (runsSlot n)) :
    (coldStart power f s).power.parked = false ∧ (coldStart power f s).trust.running = n := by
  obtain ⟨bgs, hreleased⟩ := arrival_released f (coldReady power f s)
  obtain ⟨x, y, hcold, hx, -, -, hy⟩ := coldStart_some h
  have hruns : arrival (runsSlot n y) = { arrival y with slot := n } := rfl
  rw [hruns, hy, hreleased] at hx
  rw [hcold]
  have houtcome := arrival_selfTestOutcome x f
  generalize selfTestOutcome f x = t at houtcome
  rcases houtcome with hgoes | ⟨again, hhalts⟩
  · rw [hx] at hgoes
    exact ⟨congrArg Arrival.parked hgoes, congrArg Arrival.slot hgoes⟩
  · rw [hx] at hhalts
    exact ⟨congrArg Arrival.parked hhalts, congrArg Arrival.slot hhalts⟩

/-- TEST, from a state that a hold of 10 s has made cold (R365, R393, R401). -/
def testMode (s : State) : State := zeroSecrets (sticky 3 13 (tokenByState (releaseWires
  { s with
    glb := { s.glb with gstate := .test }
    power := { s.power with
      inReset := false, longHold := false, testEn := true, parked := false, latch := setBit s.power.latch 2 } })))

theorem enterTest_mode (s : State) : enterTest s = testMode (if s.power.longHold then coldState false s else s) := rfl

theorem quiet_testMode (s : State) : Quiet (testMode s) := by
  have hcore (u : State) : core (zeroSecrets (sticky 3 13 u)) = core u := (core_zeroSecrets _).trans (core_sticky 3 13 u)
  exact quiet_of_core (hcore _) (quiet_tokenByState _ (quiet_releaseWires _) rfl)

/-- TEST keeps no secret, and the latch shows it (R393). -/
theorem testMode_leaves (s : State) : (testMode s).glb.gstate = .test ∧ (testMode s).power.inReset = false ∧
    (testMode s).bist.identityKey = false ∧ (testMode s).bist.settingsKey = false ∧ (testMode s).bist.sessionKeys = false ∧
    bit (testMode s).power.latch 2 = true := by
  let u : State := { s with
    glb := { s.glb with gstate := .test }
    power := { s.power with
      inReset := false, longHold := false, testEn := true, parked := false, latch := setBit s.power.latch 2 } }
  have hmode : standby (testMode s) = standby u :=
    (standby_zeroSecrets _).trans ((standby_sticky _ 3 13).trans ((standby_tokenByState _).trans (standby_releaseWires u)))
  have hsecrets : (testMode s).bist.identityKey = false ∧ (testMode s).bist.settingsKey = false ∧
      (testMode s).bist.sessionKeys = false := ⟨rfl, rfl, rfl⟩
  obtain ⟨hid, hset, hses⟩ := hsecrets
  generalize testMode s = t at hmode hid hset hses
  have hglb := congrArg Standby.glb hmode
  have hpower := congrArg Standby.power hmode
  have hlatch := congrArg Power.latch hpower
  exact ⟨congrArg Glb.gstate hglb, congrArg Power.inReset hpower, hid, hset, hses,
    (congrArg (bit · 2) hlatch).trans (GranaryProofs.bit_setBit_self _ (by decide))⟩

end Sys2Proof.Machine.PowerProofs
end

section
/-!
SUPPORT. POWER_UP and the release of RST_N into TEST (18_startup_power.md R365, R367, R371).
-/
namespace Sys2Proof.Machine.PowerProofs
open Sys2Proof.Safety

/-- What every power-up leaves, TEST or not (R371). -/
structure PoweredUp (s t : State) : Prop where
  released : t.power.inReset = false
  powered : t.power.powered = true
  offline : t.power.online = false
  stopped : t.glb.running = false
  quiet : Quiet t
  now : t.tb.now = 0
  forces : t.logic.forces = []
  stored : t.granary.stored = s.granary.stored
  mem : t.hostMem = s.hostMem
  package : t.cfg.package = none

theorem arrival_testMode (s : State) : arrival (testMode s) =
    { arrival s with glb := { (arrival s).glb with gstate := .test }, inReset := false, parked := false } :=
  (arrival_sticky _ 3 13).trans (arrival_tokenByState _)

theorem trust_assertReset (s : State) : (assertReset s).trust = { s.trust with activationDue := false } := by
  have h := standby_assertReset s
  generalize assertReset s = t at h
  exact congrArg Standby.trust h

theorem trust_coldReady (power : Bool) (f : StartFindings) (s : State) : (coldReady power f s).trust = s.trust := by
  have h : (coldReady power f s).trust = (tallyScan f s).trust := rfl
  rw [h, tallyScan_writes]

theorem poweredUp_testMode (s : State) : PoweredUp s (testMode (testStart (assertReset s))) := by
  obtain ⟨-, -, honline, -, hgranary⟩ := afterReset_facts s
  have hmem := hostMem_assertReset s
  have hcold := coldStarted_testStart (assertReset s)
  generalize assertReset s = u at honline hgranary hmem hcold
  have harrives := arrival_testMode (testStart u)
  have hquiet := quiet_testMode (testStart u)
  generalize testMode (testStart u) = t at harrives hquiet
  have part {α : Type} (g : Arrival → α) := congrArg g harrives
  exact {
    released := part Arrival.inReset
    powered := (part Arrival.powered).trans hcold.powered
    offline := (part Arrival.online).trans (hcold.online.trans honline)
    stopped := (part (fun a => a.glb.running)).trans hcold.running
    quiet := hquiet
    now := (part (fun a => a.tb.now)).trans hcold.now
    forces := (part Arrival.forces).trans hcold.forces
    stored := (part Arrival.stored).trans (hcold.stored.trans (congrArg Granary.stored hgranary))
    mem := (part Arrival.mem).trans (hcold.mem.trans hmem)
    package := (part (fun a => a.cfg.package)).trans (congrArg Settings.package hcold.cfg) }

theorem poweredUp_coldStart (f : StartFindings) (s : State) : PoweredUp s (coldStart true f (assertReset s)) := by
  obtain ⟨-, -, honline, -, hgranary⟩ := afterReset_facts s
  have hmem := hostMem_assertReset s
  have hcold := coldStarted_coldReady true f (assertReset s)
  have hstart := started_coldStart true f (assertReset s)
  have hquiet := quiet_coldStart true f (assertReset s)
  generalize assertReset s = u at honline hgranary hmem hcold hstart hquiet
  generalize coldStart true f u = t at hstart hquiet
  exact {
    released := hstart.inReset
    powered := hstart.powered.trans hcold.powered
    offline := hstart.online.trans (hcold.online.trans honline)
    stopped := hstart.stopped hcold.running
    quiet := hquiet
    now := (congrArg Timebase.now hstart.tb).trans hcold.now
    forces := hstart.forces.trans hcold.forces
    stored := hstart.stored.trans (hcold.stored.trans (congrArg Granary.stored hgranary))
    mem := hstart.mem.trans (hcold.mem.trans hmem)
    package := (congrArg Settings.package (hstart.cfg.trans hcold.cfg)) }

theorem coldStart_state (f : StartFindings) (s : State) :
    (coldStart true f s).glb.gstate = .boot ∨ (coldStart true f s).glb.gstate = .halted := by
  have hstart := started_coldStart true f s
  have hcold := coldStarted_coldReady true f s
  exact hstart.gstate.imp_left (fun h => h.trans hcold.gstate)

/-- What O56 says of POWER_UP. -/
theorem powerUp_leaves (f : StartFindings) (s : State) : ∃ t, exec (.powerUp f) s = .next t ∧ t.power.inReset = false ∧
    t.power.powered = true ∧ t.power.online = false ∧
    t.glb.running = false ∧ t.pair.token = false ∧ t.tb.now = 0 ∧
    t.logic.forces = [] ∧ (∀ n w, (n, w) ∈ t.wires → w.toggling = false) ∧ t.granary.stored = s.granary.stored ∧
    t.hostMem = s.hostMem ∧ t.cfg.package = none ∧
    (f.testEn = true → t.glb.gstate = .test ∧ t.bist.identityKey = false ∧ t.bist.settingsKey = false ∧
      t.bist.sessionKeys = false) ∧
    (f.testEn = false → (t.glb.gstate = .boot ∨ t.glb.gstate = .halted) ∧
      ((∀ n : Nat, f.slotPasses[n]? ≠ some true) → t.power.parked = true ∧ t.glb.gstate = .boot) ∧
      (activePasses f s → t.power.parked = false ∧ t.trust.running = (governed f s).trust.activeSlot)) := by
  rw [exec_powerUp]
  cases htest : f.testEn with
  | true =>
    have hshort : (testStart (assertReset s)).power.longHold = false := testStart_short (afterReset_facts s).2.2.2.1
    have hmode : enterTest (testStart (assertReset s)) = testMode (testStart (assertReset s)) := by
      rw [enterTest_mode, hshort, if_neg Bool.false_ne_true]
    have h := poweredUp_testMode s
    obtain ⟨hgstate, -, hid, hset, hses, -⟩ := testMode_leaves (testStart (assertReset s))
    rw [if_pos rfl, hmode]
    generalize testMode (testStart (assertReset s)) = t at h hgstate hid hset hses
    exact ⟨t, rfl, h.released, h.powered, h.offline, h.stopped, h.quiet.token, h.now, h.forces, h.quiet.wires, h.stored, h.mem,
      h.package, fun _ => ⟨hgstate, hid, hset, hses⟩, nofun⟩
  | false =>
    have h := poweredUp_coldStart f s
    have hstate := coldStart_state f (assertReset s)
    have hparked := coldStart_parked (power := true) (f := f) (s := assertReset s)
    have hruns (hpasses : activePasses f s) := coldStart_runs (bootSlot_governing hpasses
      ((trust_coldReady true f (assertReset s)).trans (trust_assertReset s)))
    rw [if_neg Bool.false_ne_true]
    generalize coldStart true f (assertReset s) = t at h hstate hparked hruns
    exact ⟨t, rfl, h.released, h.powered, h.offline, h.stopped, h.quiet.token, h.now, h.forces, h.quiet.wires, h.stored, h.mem,
      h.package, nofun, fun _ => ⟨hstate, hparked, hruns⟩⟩

/-- What O56 says of the release of RST_N with TEST_EN high. -/
theorem release_test (f : StartFindings) {s : State} (hpowered : s.power.powered = true) (hreset : s.power.inReset = true) :
    ∃ t, exec (.rstNRelease true f) s = .next t ∧
      t.glb.gstate = .test ∧ t.power.inReset = false ∧ t.bist.identityKey = false ∧ t.bist.settingsKey = false ∧
      t.bist.sessionKeys = false ∧ bit t.power.latch 2 = true := by
  refine ⟨_, congrArg Host.Outcome.next (if_pos ⟨hpowered, hreset⟩), ?_⟩
  rw [releaseReset, if_pos rfl, enterTest_mode]
  exact testMode_leaves _

end Sys2Proof.Machine.PowerProofs
end

section
/-!
SUPPORT. Warm restarts (18_startup_power.md R367, R370, R371; 19_trust.md R387).
-/
namespace Sys2Proof.Machine.PowerProofs
open Sys2Proof.Safety

section
variable (s : State)

theorem arrival_closeRecords (p : Rec → Bool) : arrival (closeRecords p s) = arrival s := by
  unfold closeRecords
  extract_lets out fin
  refine (arrival_foldl (fun t r => ?_) _ _).trans ?_
  · rfl
  · rfl

theorem arrival_thresherRestart (m flag from' : Nat) : arrival (thresherRestart m flag from' s) = arrival s := by
  have hclose : arrival (closeEarly (fun _ => true) m flag s) = arrival s := arrival_closeRecords _ _
  exact hclose

theorem arrival_logicStart (cause : Nat) (kept : List (Nat × Word × Half)) (cold : Bool) :
    arrival (logicStart cause kept cold s) = { arrival s with forces := [] } := by
  have hclear : arrival (clearForces cause s) = { arrival s with forces := [] } := by
    unfold clearForces
    extract_lets n l t
    split
    · rfl
    · exact arrival_tally t _ _
  exact hclear

/-- A warm restart's state leads where the state before it led, with no point forced (R197, R371). -/
theorem arrival_warmState : arrival (warmState s) = { arrival s with forces := [] } := by
  have hfixes (t : State) : arrival (s.samp.fixes.foldl (fun s f => applyFix f s) t) = arrival t := by
    refine arrival_foldl (fun t x => ?_) _ _
    exact arrival_applyFix _ _
  have hlogic := arrival_logicStart (s.samp.fixes.foldl (fun s f => applyFix f s) { s with samp := { s.samp with fixes := [] } }) 0
    (s.samp.fixes.foldl (fun s f => applyFix f s) { s with samp := { s.samp with fixes := [] } }).logic.retained false
  rw [hfixes] at hlogic
  exact hlogic

/-- A warm restart leaves every wire static (R371). -/
theorem static_warmState : ∀ n w, (n, w) ∈ (warmState s).wires → w.toggling = false := by
  intro n w h
  obtain ⟨x, -, hx⟩ := List.mem_map.mp h
  obtain rfl := (Prod.mk.inj hx).2
  rfl

end

/-- The state of a warm restart up to the choice of the slot. -/
def warmReady (f : StartFindings) (s : State) : State := { s with
  pf0 := { s.pf0 with inflight := s.pf0.inflight.map (effectShown false) }
  pf1 := { s.pf1 with inflight := s.pf1.inflight.map (effectShown false) }
  power := { s.power with
    startKind := 2, configDue := s.power.configDue.map (fun c => (f.configDigestOk, c.2)) } }

/-- A warm restart with a slot: the scans and the entries (R277, R360, R379). -/
def warmEntered (f : StartFindings) (s : State) : State :=
  let m := s.store.flushMarker
  let s := tallyScan f (journalScan f s)
  let lostT := (m.map (fun m => m.2.2.2.1 - s.tally.nextSeq.toNat)).getD 0
  let lostR := (m.map (fun m => m.2.2.2.2 - s.granary.nextNo)).getD 0
  copyLatch (startEntries (if s.logic.program.isSome then s.store.pendingSheaf else 0) lostT lostR s)

/-- What it makes of the running state (R371). -/
def warmRun (f : StartFindings) (s : State) : State :=
  let s := tamperEntry s
  let s := thresherRestart (3 * s.glb.sheaf + 2) 7 0 s
  warmState { s with granary := { s.granary with walked := false, badSeals := f.badSeals } }

/-- The package and program under the image that starts (R370, R387). -/
def warmConfig (f : StartFindings) (bg : Nat) (s : State) : State :=
  if runningBg s = bg then rereadConfig f s else dropPackage s

theorem warmStart_eq (f : StartFindings) (s : State) : warmStart f s = withSlot f (fun report u =>
    haltedStart (warmScan f (deriveSecrets (repartition
      (warmConfig f (runningBg s) (warmRun f (report (warmEntered f u)))))))) (warmReady f s) := by
  unfold warmStart
  rfl

theorem arrival_warmEntered (f : StartFindings) (s : State) : arrival (warmEntered f s) = arrival s :=
  (arrival_copyLatch _).trans ((arrival_startEntries _ _ _ _).trans ((arrival_tallyScan _ f).trans (arrival_journalScan s f)))

theorem arrival_warmRun (f : StartFindings) (s : State) : arrival (warmRun f s) = { arrival s with forces := [] } := by
  have hrestarted : arrival (thresherRestart (3 * (tamperEntry s).glb.sheaf + 2) 7 0 (tamperEntry s)) = arrival s :=
    (arrival_thresherRestart _ _ _ _).trans (arrival_tamperEntry s)
  unfold warmRun
  dsimp only
  rw [arrival_warmState]
  exact congrArg (fun a : Arrival => { a with forces := [] }) hrestarted

/-- The generation of the image that runs. -/
def Arrival.generation (a : Arrival) : Nat := (a.bgs[a.slot]?).getD 0

theorem runningBg_arrival (s : State) : runningBg s = (arrival s).generation := rfl

/-- A package and program, and the L_pipe that goes with them, take the place of those before. -/
def Arrival.configured (a : Arrival) (lpipe : Nat) (cfg : Settings) (program : Option Loaded) : Arrival :=
  { a with glb := { a.glb with lpipe := lpipe }, cfg := cfg, program := program }

/-- The package and program stay where the image's generation and the digest agree; another generation starts with none
(R370, R387). -/
theorem arrival_warmConfig (f : StartFindings) (bg : Nat) (s : State) : ∃ lpipe cfg program,
    arrival (warmConfig f bg s) = (arrival s).configured lpipe cfg program ∧
      (runningBg s = bg → f.ddrDigestOk = true ∨ s.cfg.package = none → cfg = s.cfg ∧ program = s.logic.program) ∧
      (runningBg s ≠ bg → cfg.package = none ∧ program = none) := by
  unfold warmConfig
  by_cases hbg : runningBg s = bg
  · rw [if_pos hbg]
    by_cases hkept : f.ddrDigestOk = true ∨ s.cfg.package.isNone = true
    · have hread : rereadConfig f s = s := if_pos hkept
      rw [hread]
      exact ⟨s.glb.lpipe, s.cfg, s.logic.program, rfl, fun _ _ => ⟨rfl, rfl⟩, fun hne => absurd hbg hne⟩
    · have hlost : ¬ (f.ddrDigestOk = true ∨ s.cfg.package = none) := by
        simpa only [Option.isNone_iff_eq_none] using hkept
      have hread : ∃ lpipe cfg program, arrival (rereadConfig f s) = (arrival s).configured lpipe cfg program := by
        unfold rereadConfig
        rw [if_neg hkept]
        extract_lets n
        split
        · exact ⟨_, _, _, arrival_tally _ _ _⟩
        · exact ⟨_, _, _, rfl⟩
      obtain ⟨lpipe, cfg, program, hread⟩ := hread
      exact ⟨lpipe, cfg, program, hread, fun _ h => absurd h hlost, fun hne => absurd hbg hne⟩
  · rw [if_neg hbg]
    exact ⟨0, { s.cfg with package := none }, none, rfl, fun h => absurd h hbg, fun _ => ⟨rfl, rfl⟩⟩

theorem warmScan_none {f : StartFindings} {s : State} (h : s.power.fromHalted = false ∨ f.failedBlocks = [] ∧ f.aborts = []) :
    warmScan f s = s := by
  unfold warmScan
  rcases h with hrun | ⟨hblocks, haborts⟩
  · rw [if_pos hrun]
  · split
    · rfl
    · rw [hblocks, haborts]
      unfold selfTestOutcome
      rw [hblocks, haborts]
      rfl

theorem arrival_haltedStart {s : State} (h : s.power.haltedForGood = false) : arrival (haltedStart s) = arrival s := by
  unfold haltedStart
  rw [if_neg (by simp [h])]
  split <;> rfl

theorem core_haltedStart {s : State} (h : s.power.haltedForGood = false) : core (haltedStart s) = core s := by
  unfold haltedStart
  rw [if_neg (by simp [h])]
  split <;> rfl

theorem core_warmConfig (f : StartFindings) (bg : Nat) (s : State) : core (warmConfig f bg s) = core s := by
  unfold warmConfig
  split
  · exact core_rereadConfig f s
  · exact core_dropPackage s

/-- The running state of a warm restart that runs slot n of the released lines. -/
def warmFrom (f : StartFindings) (n : Nat) (u : State) : State :=
  warmRun f (runsSlot n (warmEntered f { u with power := { u.power with booting := true } }))

theorem arrival_warmFrom (f : StartFindings) (n : Nat) (u : State) :
    arrival (warmFrom f n u) = { arrival u with booting := true, slot := n, forces := [] } := by
  have hslot (v : State) : arrival (runsSlot n v) = { arrival v with slot := n } := rfl
  rw [warmFrom, arrival_warmRun, hslot, arrival_warmEntered]
  rfl

/-- The same under its package, with the lanes partitioned anew and the secrets derived (R34, R290, R393). -/
def warmConfigured (f : StartFindings) (bg : Nat) (r : State) : State := deriveSecrets (repartition (warmConfig f bg r))

theorem arrival_warmConfigured (f : StartFindings) (bg : Nat) (r : State) :
    arrival (warmConfigured f bg r) = arrival (warmConfig f bg r) := (arrival_deriveSecrets _).trans (arrival_repartition _)

theorem core_warmConfigured (f : StartFindings) (bg : Nat) (r : State) : core (warmConfigured f bg r) = core r :=
  (core_deriveSecrets _).trans ((core_repartition _).trans (core_warmConfig f bg r))

theorem warmStart_run {f : StartFindings} {s : State} {n : Nat}
    (hslot : bootSlot f (released f (warmReady f s)) = some (runsSlot n)) :
    warmStart f s = haltedStart (warmScan f (warmConfigured f (runningBg s) (warmFrom f n (released f (warmReady f s))))) := by
  rw [warmStart_eq, withSlot_eq, hslot]
  rfl

/-- Where no halt stands, a warm restart leaves the start sequence as its package does (R370). -/
theorem haltedStart_warmScan {f : StartFindings} {x : State} (hgood : x.power.haltedForGood = false)
    (hscan : x.power.fromHalted = false ∨ f.failedBlocks = [] ∧ f.aborts = []) :
    arrival (haltedStart (warmScan f x)) = arrival x ∧ (haltedStart (warmScan f x)).wires = x.wires := by
  rw [warmScan_none hscan]
  exact ⟨arrival_haltedStart hgood, congrArg Core.wires (core_haltedStart hgood)⟩

/-- A warm restart that runs slot n, where no halt stands. -/
theorem warmStart_some {f : StartFindings} {s : State} {n : Nat}
    (hslot : bootSlot f (released f (warmReady f s)) = some (runsSlot n))
    (hgood : s.power.haltedForGood = false) (hscan : s.power.fromHalted = false ∨ f.failedBlocks = [] ∧ f.aborts = []) :
    arrival (warmStart f s) = arrival (warmConfig f (runningBg s) (warmFrom f n (released f (warmReady f s)))) ∧
      (warmStart f s).wires = (warmFrom f n (released f (warmReady f s))).wires := by
  have hrun := warmStart_run hslot
  obtain ⟨bgs, hreleased⟩ := arrival_released f (warmReady f s)
  have hready : arrival (warmReady f s) = { arrival s with startKind := 2 } := rfl
  have hfrom := arrival_warmFrom f n (released f (warmReady f s))
  rw [hreleased, hready] at hfrom
  generalize warmFrom f n (released f (warmReady f s)) = r at hrun hfrom ⊢
  obtain ⟨lpipe, cfg, program, hconfig, -, -⟩ := arrival_warmConfig f (runningBg s) r
  have harrives := arrival_warmConfigured f (runningBg s) r
  have hcore := core_warmConfigured f (runningBg s) r
  generalize warmConfigured f (runningBg s) r = x at hrun harrives hcore
  have hlines := harrives
  rw [hconfig, hfrom] at hlines
  have hforGood : x.power.haltedForGood = s.power.haltedForGood := congrArg Arrival.haltedForGood hlines
  have hfromHalted : x.power.fromHalted = s.power.fromHalted := congrArg Arrival.fromHalted hlines
  obtain ⟨harrive, hwires⟩ := haltedStart_warmScan (f := f) (x := x) (hforGood.trans hgood)
    (hscan.imp_left (fun h => hfromHalted.trans h))
  rw [hrun]
  exact ⟨harrive.trans harrives, hwires.trans (congrArg Core.wires hcore)⟩

/-- What a warm restart leads to: the slot that governs, the package and program as R370 and R387 have them, and the rest as it
stood (R371). -/
theorem warmStart_leads {f : StartFindings} {s : State} {n : Nat}
    (hslot : bootSlot f (released f (warmReady f s)) = some (runsSlot n))
    (hgood : s.power.haltedForGood = false) (hscan : s.power.fromHalted = false ∨ f.failedBlocks = [] ∧ f.aborts = []) :
    ∃ lpipe cfg program bgs, bgs = (released f (warmReady f s)).trust.slotBg ∧
      arrival (warmStart f s) = { (arrival s).configured lpipe cfg program with
        inReset := false, parked := false, startKind := 2, booting := true, slot := n, bgs := bgs, forces := [] } ∧
      ((bgs[n]?).getD 0 = runningBg s → f.ddrDigestOk = true ∨ s.cfg.package = none → cfg = s.cfg ∧ program = s.logic.program) ∧
      ((bgs[n]?).getD 0 ≠ runningBg s → cfg.package = none ∧ program = none) ∧
      (∀ m w, (m, w) ∈ (warmStart f s).wires → w.toggling = false) := by
  obtain ⟨harrives, hwires⟩ := warmStart_some hslot hgood hscan
  have hstatic : ∀ m w, (m, w) ∈ (warmFrom f n (released f (warmReady f s))).wires → w.toggling = false := static_warmState _
  obtain ⟨bgs, hreleased⟩ := arrival_released f (warmReady f s)
  have hready : arrival (warmReady f s) = { arrival s with startKind := 2 } := rfl
  have hbgs : bgs = (released f (warmReady f s)).trust.slotBg := (congrArg Arrival.bgs hreleased).symm
  have hfrom := arrival_warmFrom f n (released f (warmReady f s))
  rw [hreleased, hready] at hfrom
  obtain ⟨lpipe, cfg, program, hconfig, hsame, hdropped⟩ :=
    arrival_warmConfig f (runningBg s) (warmFrom f n (released f (warmReady f s)))
  generalize warmFrom f n (released f (warmReady f s)) = r at *
  have hgeneration : runningBg r = (bgs[n]?).getD 0 := (runningBg_arrival r).trans (congrArg Arrival.generation hfrom)
  have hcfg : r.cfg = s.cfg := congrArg Arrival.cfg hfrom
  have hprogram : r.logic.program = s.logic.program := congrArg Arrival.program hfrom
  rw [hgeneration, hcfg, hprogram] at hsame
  rw [hgeneration] at hdropped
  refine ⟨lpipe, cfg, program, bgs, hbgs, ?_, hsame, hdropped, fun m w h => hstatic m w (hwires ▸ h)⟩
  rw [harrives, hconfig, hfrom]
  rfl

end Sys2Proof.Machine.PowerProofs
end

section
/-!
SUPPORT. The rows that start a warm restart (18_startup_power.md R367, R370; 19_trust.md R387).
-/
namespace Sys2Proof.Machine.PowerProofs
open Sys2Proof.Safety

/-- State w, from which a warm restart begins, is s in BOOT: what the restart keeps stands as in s, an activation due apart. -/
structure AtRest (due : Bool) (s w : State) : Prop where
  trust : w.trust = { s.trust with activationDue := due }
  boot : w.glb.gstate = .boot
  opsec : w.glb.opsec = s.glb.opsec
  pwrcyc : w.glb.pwrcyc = s.glb.pwrcyc
  package : w.cfg.package = s.cfg.package
  program : w.logic.program = s.logic.program
  tb : w.tb = s.tb
  granary : w.granary = s.granary
  mem : w.hostMem = s.hostMem

/-- What O56 says of a warm restart, from state s to t (R370, R371, R387). -/
structure WarmStarted (f : StartFindings) (s t : State) : Prop where
  boot : t.glb.gstate = .boot
  booting : t.power.booting = true
  released : t.power.inReset = false
  kind : t.power.startKind = 2
  slot : t.trust.running = (governed f s).trust.activeSlot
  kept : (((governed f s).trust.slotBg[(governed f s).trust.activeSlot]?).getD 0 = runningBg s) →
    f.ddrDigestOk = true ∨ s.cfg.package = none → t.cfg.package = s.cfg.package ∧ t.logic.program = s.logic.program
  dropped : ¬ (((governed f s).trust.slotBg[(governed f s).trust.activeSlot]?).getD 0 = runningBg s) →
    t.cfg.package = none ∧ t.logic.program = none
  tb : t.tb = s.tb
  opsec : t.glb.opsec = s.glb.opsec
  pwrcyc : t.glb.pwrcyc = s.glb.pwrcyc
  stored : t.granary.stored = s.granary.stored
  mem : t.hostMem = s.hostMem
  forces : t.logic.forces = []
  static : ∀ n w, (n, w) ∈ t.wires → w.toggling = false

theorem warmStarted {due : Bool} {f : StartFindings} {s w : State} (hrest : AtRest due s w) (hpasses : activePasses f s)
    (hgood : w.power.haltedForGood = false) (hscan : w.power.fromHalted = false ∨ f.failedBlocks = [] ∧ f.aborts = []) :
    WarmStarted f s (warmStart f w) ∧ (warmStart f w).trust.activationDue = due := by
  have htrust : (warmReady f w).trust = { s.trust with activationDue := due } := hrest.trust
  have hslot := bootSlot_governing hpasses htrust
  obtain ⟨lpipe, cfg, program, bgs, hbgs, harrives, hsame, hdropped, hstatic⟩ := warmStart_leads hslot hgood hscan
  have hgoverned : bgs = (governed f s).trust.slotBg := by
    rw [hbgs, trust_released htrust, governed_eq]
  have hrunning : runningBg w = runningBg s := by
    unfold runningBg
    rw [hrest.trust]
  have hdue : w.trust.activationDue = due := by rw [hrest.trust]
  rw [hgoverned, hrunning] at hsame hdropped
  rw [hrest.package] at hsame
  generalize warmStart f w = t at harrives hstatic
  have part {α : Type} (g : Arrival → α) := congrArg g harrives
  have hcfg : t.cfg = cfg := part Arrival.cfg
  have hprogram : t.logic.program = program := part Arrival.program
  refine ⟨{
    boot := (part (fun a => a.glb.gstate)).trans hrest.boot
    booting := part Arrival.booting
    released := part Arrival.inReset
    kind := part Arrival.startKind
    slot := part Arrival.slot
    kept := fun hbg hddr => ?_
    dropped := fun hbg => by rw [hcfg, hprogram]; exact hdropped hbg
    tb := (part Arrival.tb).trans hrest.tb
    opsec := (part (fun a => a.glb.opsec)).trans hrest.opsec
    pwrcyc := (part (fun a => a.glb.pwrcyc)).trans hrest.pwrcyc
    stored := (part Arrival.stored).trans (congrArg Granary.stored hrest.granary)
    mem := (part Arrival.mem).trans hrest.mem
    forces := part Arrival.forces
    static := hstatic }, (part Arrival.activationDue).trans hdue⟩
  obtain ⟨hkeptCfg, hkeptProgram⟩ := hsame hbg hddr
  rw [hcfg, hprogram, hkeptCfg, hkeptProgram]
  exact ⟨hrest.package, hrest.program⟩

theorem atRest_self {s : State} (hboot : s.glb.gstate = .boot) : AtRest s.trust.activationDue s s :=
  ⟨rfl, hboot, rfl, rfl, rfl, rfl, rfl, rfl, rfl⟩

/-- The assertion of RST_N under an activation leaves the engine at rest in BOOT, and remembers no HALTED (R370, R387). -/
theorem atRest_activation (s : State) :
    let w := assertReset { s with trust := { s.trust with activationDue := false } }
    AtRest false s w ∧ w.power.haltedForGood = s.power.haltedForGood ∧ w.power.fromHalted = (s.glb.gstate == .halted) := by
  intro w
  have hb := standby_assertReset { s with trust := { s.trust with activationDue := false } }
  have hmem := hostMem_assertReset { s with trust := { s.trust with activationDue := false } }
  have htrust := trust_assertReset { s with trust := { s.trust with activationDue := false } }
  have hw : w = assertReset { s with trust := { s.trust with activationDue := false } } := rfl
  rw [← hw] at hb hmem htrust
  clear_value w
  have part {α : Type} (g : Standby → α) := congrArg g hb
  exact ⟨{
    trust := htrust
    boot := part (fun b => b.glb.gstate)
    opsec := part (fun b => b.glb.opsec)
    pwrcyc := part (fun b => b.glb.pwrcyc)
    package := part (fun b => b.cfg.package)
    program := part (fun b => b.logic.program)
    tb := part Standby.tb
    granary := part Standby.granary
    mem := hmem }, part (fun b => b.power.haltedForGood), part (fun b => b.power.fromHalted)⟩

theorem release_warm {f : StartFindings} {s : State} (hpowered : s.power.powered = true) (hreset : s.power.inReset = true)
    (hshort : s.power.longHold = false) (hgood : s.power.haltedForGood = false)
    (hscan : s.power.fromHalted = false ∨ f.failedBlocks = [] ∧ f.aborts = []) (hpasses : activePasses f s)
    (hboot : s.glb.gstate = .boot) : ∃ t, exec (.rstNRelease false f) s = .next t ∧ WarmStarted f s t := by
  have hrelease : releaseReset false f s = warmStart f s :=
    (if_neg Bool.false_ne_true).trans (if_neg (by simp [hshort]))
  exact ⟨warmStart f s, congrArg Host.Outcome.next ((if_pos ⟨hpowered, hreset⟩).trans hrelease),
    (warmStarted (atRest_self hboot) hpasses hgood hscan).1⟩

theorem activation_warm {f : StartFindings} {s : State} (hdue : s.trust.activationDue = true) (hreset : s.power.inReset = false)
    (hgood : s.power.haltedForGood = false) (hhalted : s.glb.gstate ≠ .halted) (htest : s.glb.gstate ≠ .test)
    (hpasses : activePasses f s) :
    ∃ t, exec (.activationWarmRestart f) s = .next t ∧ WarmStarted f s t ∧ t.trust.activationDue = false := by
  obtain ⟨hrest, hforGood, hfrom⟩ := atRest_activation s
  exact ⟨_, congrArg Host.Outcome.next (if_pos ⟨hdue, hreset, htest⟩),
    warmStarted hrest hpasses (hforGood.trans hgood) (Or.inl (hfrom.trans (by simpa using hhalted)))⟩

end Sys2Proof.Machine.PowerProofs
end

section
/-!
SUPPORT. The end of a start: the package read, and the first boundary (18_startup_power.md R365, R368, R369).
-/
namespace Sys2Proof.Machine.PowerProofs
open Sys2Proof.Safety

/-- What BOOT_COMPLETE sets or keeps: registers, settings, logic, elements, lines, stores. -/
structure Loading where
  glb : Glb
  cfg : Settings
  logic : Logic
  insts : FMap Inst
  power : Power
  store : Store

def loading (s : State) : Loading := ⟨s.glb, s.cfg, s.logic, s.insts, s.power, s.store⟩

section
variable (s : State)

theorem loading_sticky (r b : Nat) : loading (sticky r b s) = loading s := by
  have h := congrArg loading (sticky_spec r b s)
  exact h

theorem loading_tally (event : Half) (detail : List Quad) : loading (tally event detail s) = loading s := by
  have h := congrArg loading (SheafProofs.tally_frame event detail s)
  exact h

theorem loading_foldl {α : Type} {f : State → α → State} (h : ∀ s a, loading (f s a) = loading s) (l : List α) :
    loading (l.foldl f s) = loading s := SheafProofs.foldl_keeps loading f h l s

theorem loading_setPair (p : Nat) (x : BiPair) : loading (setPair p x s) = loading s := rfl
theorem loading_setPtp (n : Nat) (x : PtpPort) : loading (setPtp n x s) = loading s := rfl

theorem loading_pairChange (p m : Nat) : loading (pairChange p m s) = loading s := by
  have hbefore : loading (pairBefore p m s) = loading s := by
    unfold pairBefore
    extract_lets x
    split
    · split
      · rfl
      · split <;> rfl
    · rfl
  have hstep (a v : Bool) (t : State) : loading (pairStep p m a v t) = loading t := by
    unfold pairStep
    extract_lets x mark y z noted agreed
    split
    · have hnoted : loading noted = loading t := by
        unfold noted
        split <;> rfl
      have hagreed : loading agreed = loading noted := by
        unfold agreed
        split <;> rfl
      split
      · rfl
      · exact hagreed.trans hnoted
    · rfl
  unfold pairChange
  split
  · rfl
  · exact (hstep _ _ _).trans hbefore

theorem loading_selectMaster : loading (selectMaster s) = loading s := by
  unfold selectMaster
  extract_lets best old new gm s1 _ s2
  have h2 : loading s2 = loading s := by
    refine loading_foldl s (fun t n => ?_) _
    exact loading_setPtp t n _
  have htold (r b : Nat) (event : Half) (detail : List Quad) : loading (sticky r b (tally event detail s2)) = loading s :=
    (loading_sticky _ _ _).trans ((loading_tally _ _ _).trans h2)
  clear_value s2 gm new old
  split
  · split
    · exact htold _ _ _ _
    · split
      · exact (loading_tally _ _ _).trans h2
      · exact h2
  · split
    · exact htold _ _ _ _
    · exact h2

theorem loading_logicStart (cause : Nat) (kept : List (Nat × Word × Half)) (cold : Bool) :
    ∃ l, l.program = s.logic.program ∧ loading (logicStart cause kept cold s) = { loading s with logic := l } := by
  have hclear : loading (clearForces cause s) = { loading s with logic := { s.logic with forces := [], shown := [] } } := by
    unfold clearForces
    extract_lets n l t
    split
    · rfl
    · exact loading_tally t _ _
  have hlogic : (clearForces cause s).logic = { s.logic with forces := [], shown := [] } := congrArg Loading.logic hclear
  refine ⟨(logicStart cause kept cold s).logic, ?_, ?_⟩
  · have hprogram : (logicStart cause kept cold s).logic.program = (clearForces cause s).logic.program := rfl
    rw [hprogram, hlogic]
  · exact congrArg (fun x : Loading => { x with logic := (logicStart cause kept cold s).logic }) hclear

end

/-- The copy of the configuration area that the journal names, read under the digest's verdict (R369). -/
def namedCopy (ok : Bool) (n : Nat) (s : State) : Option (Package × Option Loaded) :=
  if s.store.emmcFailed ∨ ok = false then none else loadCopy ((s.store.configCopies[n]?).getD ([], [])) s

/-- No package comes into force (R369). -/
def loadNothing (n : Nat) (s : State) : State :=
  tally 0x0D06 [item n, item (boolNat s.store.emmcFailed)]
    { s with power := { s.power with configDue := none, loadFailed := true } }

/-- A package and program are taken from their copy, and the logic starts cold (R369). -/
def copyTaken (p : Package) (q : Option Loaded) (s : State) : State :=
  { s with
    cfg := { s.cfg with package := some p }
    logic := { s.logic with program := q }
    power := { s.power with configDue := none } }

/-- The zones, elements and time sources of a package that has come into force. -/
def packageSwitched (p : Package) (s : State) : State :=
  let s := { s with logic := { s.logic with retained := retainedImage s } }
  selectMaster (switchZones none { s with glb := { s.glb with lpipe := lpipeUnder s (some p) } })

/-- A package and program come into force (R369). -/
def loadCopied (kept : List (Nat × Word × Half)) (p : Package) (q : Option Loaded) (s : State) : State :=
  packageSwitched p (logicStart 1 kept true (copyTaken p q s))

theorem loadConfig_named {ok : Bool} {kept : List (Nat × Word × Half)} {n : Nat} {s : State}
    (hdue : s.power.configDue = some (ok, kept)) (hforce : s.store.configInForce = some n) : loadConfig s =
    match namedCopy ok n s with
    | none => loadNothing n s
    | some (p, q) => loadCopied kept p q s := by
  unfold loadConfig
  rw [hdue, hforce]
  rfl

/-- What reading the package leaves (R369). -/
structure ConfigRead (package : Option Package) (program : Option Loaded) (failed : Bool) (s t : State) : Prop where
  package : t.cfg.package = package
  program : t.logic.program = program
  failed : t.power.loadFailed = failed
  done : t.power.configDue = none
  store : t.store = s.store

theorem configRead_nothing (n : Nat) (s : State) :
    ConfigRead s.cfg.package s.logic.program true s (loadNothing n s) := by
  have h := loading_tally { s with power := { s.power with configDue := none, loadFailed := true } } 0x0D06
    [item n, item (boolNat s.store.emmcFailed)]
  have ht : loading (loadNothing n s) = loading { s with power := { s.power with configDue := none, loadFailed := true } } := h
  generalize loadNothing n s = t at ht
  have part {α : Type} (g : Loading → α) := congrArg g ht
  exact ⟨part (fun x => x.cfg.package), part (fun x => x.logic.program), part (fun x => x.power.loadFailed),
    part (fun x => x.power.configDue), part Loading.store⟩

theorem packageSwitched_keeps (p : Package) (s : State) : (packageSwitched p s).cfg = s.cfg ∧
    (packageSwitched p s).logic.program = s.logic.program ∧ (packageSwitched p s).power = s.power ∧
    (packageSwitched p s).store = s.store := by
  unfold packageSwitched
  extract_lets _ retained _
  have h := loading_selectMaster (switchZones none { retained with glb := { retained.glb with lpipe := lpipeUnder retained (some p) } })
  have part {α : Type} (g : Loading → α) := congrArg g h
  exact ⟨part Loading.cfg, part (fun x => x.logic.program), part Loading.power, part Loading.store⟩

theorem configRead_copied (kept : List (Nat × Word × Half)) (p : Package) (q : Option Loaded) (s : State) :
    ConfigRead (some p) q s.power.loadFailed s (loadCopied kept p q s) := by
  obtain ⟨l, hl, hstarted⟩ := loading_logicStart (copyTaken p q s) 1 kept true
  obtain ⟨hcfg, hprogram, hpower, hstore⟩ := packageSwitched_keeps p (logicStart 1 kept true (copyTaken p q s))
  have part {α : Type} (g : Loading → α) := congrArg g hstarted
  exact {
    package := (congrArg Settings.package hcfg).trans (part (fun x => x.cfg.package))
    program := hprogram.trans ((part (fun x => x.logic.program)).trans hl)
    failed := (congrArg Power.loadFailed hpower).trans (part (fun x => x.power.loadFailed))
    done := (congrArg Power.configDue hpower).trans (part (fun x => x.power.configDue))
    store := hstore.trans (part Loading.store) }

/-- Reading the package leaves the stores, the wires and host memory (R369). -/
theorem loadConfig_keeps (s : State) : (loadConfig s).store = s.store ∧ (loadConfig s).wires = s.wires ∧
    (loadConfig s).hostMem = s.hostMem := by
  refine ⟨?_, congrArg Core.wires (core_loadConfig s), congrArg Core.mem (core_loadConfig s)⟩
  cases hdue : s.power.configDue with
  | none =>
    unfold loadConfig
    rw [hdue]
  | some d =>
    obtain ⟨ok, kept⟩ := d
    cases hforce : s.store.configInForce with
    | none =>
      unfold loadConfig
      rw [hdue, hforce]
    | some n =>
      rw [loadConfig_named hdue hforce]
      split
      · exact (configRead_nothing n s).store
      · exact (configRead_copied kept _ _ s).store

/-- The state of the first boundary, before the contacts' pairs (R365, R368). -/
def sheavesBegun (k ms : Nat) (levels : List Nat) (b : State) : State :=
  let (w, s) := takeFree (fillStart k ms b)
  { s with
    glb := { s.glb with cur := k, frozen := false, running := true, next := some (firstState s) }
    zones := s.zones.mapVals (fun _ z => { z with estFrom := 3 * k })
    thr := { s.thr with ringFrom := 3 * k, heldFrom := 3 * k }
    ing := { s.ing with streams := (svEntries s.cfg.package).map (fun e =>
      (e.1, { Stream.init with since := if k = 0 then 0 else sheafEnd (k - 1) })) }
    bi := { Bi.init with debounced := (List.range 128).filterMap (fun n =>
      if levels.contains n != biInvert (biWord s.cfg.package n) then some (n, true) else none) }
    power := { s.power with booting := false, vid := BitVec.ofNat 4 (w.toNat % 15) } }

theorem beginSheaves_eq (k ms : Nat) (levels : List Nat) (s : State) : beginSheaves k ms levels s =
    (List.range 64).foldl (fun s p => pairChange p (3 * k) s) (sheavesBegun k ms levels (loadConfig s)) := rfl

/-- VID leaves its start code for one of 0 to 14 (R414, R415). -/
theorem startVid_ne (w : Word) : BitVec.ofNat 4 (w.toNat % 15) ≠ 0xF := by
  intro h
  have hcode := congrArg BitVec.toNat h
  rw [BitVec.toNat_ofNat] at hcode
  have hlt := Nat.mod_lt w.toNat (show 0 < 15 by decide)
  have hfifteen : (0xF : BitVec 4).toNat = 15 := rfl
  omega

/-- What O56 says of BOOT_COMPLETE where a start runs. -/
theorem bootComplete_begins (k ms : Nat) (levels : List Nat) {s : State} (hbooting : s.power.booting = true) :
    ∃ t, exec (.bootComplete k ms levels) s = .next t ∧
      t.glb = { (loadConfig s).glb with
        cur := k, frozen := false, running := true, next := some (firstState (loadConfig s)), free := (loadConfig s).glb.free + 1 } ∧
      t.power = { (loadConfig s).power with booting := false, vid := t.power.vid } ∧ t.power.vid ≠ 0xF ∧
      t.cfg = (loadConfig s).cfg ∧ t.wires = s.wires ∧ t.insts = (loadConfig s).insts ∧ t.logic = (loadConfig s).logic ∧
      t.store = s.store ∧ t.hostMem = s.hostMem := by
  have hnext : exec (.bootComplete k ms levels) s = .next (beginSheaves k ms levels s) := congrArg Host.Outcome.next (if_pos hbooting)
  obtain ⟨hstore, hwires, hmem⟩ := loadConfig_keeps s
  rw [beginSheaves_eq] at hnext
  generalize loadConfig s = b at hnext hstore hwires hmem ⊢
  have hload := loading_foldl (sheavesBegun k ms levels b) (f := fun s p => pairChange p (3 * k) s) (fun t p => loading_pairChange t p (3 * k))
    (List.range 64)
  have hcore := core_foldl (fun s p => pairChange p (3 * k) s) (fun t p => core_pairChange p (3 * k) t) (List.range 64)
    (sheavesBegun k ms levels b)
  generalize (List.range 64).foldl (fun s p => pairChange p (3 * k) s) (sheavesBegun k ms levels b) = t at hnext hload hcore
  have part {α : Type} (g : Loading → α) := congrArg g hload
  have hpower : t.power = (sheavesBegun k ms levels b).power := part Loading.power
  refine ⟨t, hnext, part Loading.glb, ?_, ?_, part Loading.cfg, ?_, part Loading.insts, part Loading.logic, ?_, ?_⟩
  · rw [hpower]
    rfl
  · rw [hpower]
    exact startVid_ne _
  · exact (congrArg Core.wires hcore).trans hwires
  · exact (part Loading.store).trans hstore
  · exact (congrArg Core.mem hcore).trans hmem

/-- What O56 says of BOOT_COMPLETE. -/
theorem bootComplete_reads {s : State} {ok : Bool} {kept : List (Nat × Word × Half)} {n : Nat}
    (hdue : s.power.configDue = some (ok, kept)) (hforce : s.store.configInForce = some n) :
    (loadConfig s).power.loadFailed = ((namedCopy ok n s).isNone || s.power.loadFailed) ∧
      (loadConfig s).power.configDue = none ∧
      (loadConfig s).cfg.package = (match namedCopy ok n s with
        | some (p, _) => some p
        | none => s.cfg.package) ∧
      (loadConfig s).logic.program = (match namedCopy ok n s with
        | some (_, q) => q
        | none => s.logic.program) := by
  rw [loadConfig_named hdue hforce]
  cases namedCopy ok n s with
  | none =>
    have h := configRead_nothing n s
    exact ⟨h.failed, h.done, h.package, h.program⟩
  | some copy =>
    obtain ⟨p, q⟩ := copy
    have h := configRead_copied kept p q s
    exact ⟨h.failed, h.done, h.package, h.program⟩

/-- Settles O56: power-up, the release of RST_N, an activation, and the end of a start. -/
theorem startsKeepTheirState : Obligations.StartsKeepTheirState := by
  unfold Obligations.StartsKeepTheirState
  intro f s g active sameBg warm
  have hwarm {t : State} (h : WarmStarted f s t) : warm t :=
    ⟨h.boot, h.booting, h.released, h.kind, h.slot, h.kept, h.dropped, h.tb, h.opsec, h.pwrcyc, h.stored, h.mem, h.forces, h.static⟩
  refine ⟨powerUp_leaves f s, fun hpowered hreset hshort hgood hscan hactive hboot => ?_,
    fun hdue hreset hgood hhalted htest hactive => ?_, release_test f, ?_⟩
  · obtain ⟨t, ht, h⟩ := release_warm hpowered hreset hshort hgood hscan hactive hboot
    exact ⟨t, ht, hwarm h⟩
  · obtain ⟨t, ht, h, hdone⟩ := activation_warm hdue hreset hgood hhalted htest hactive
    exact ⟨t, ht, hwarm h, hdone⟩
  · intro k ms levels b
    refine ⟨fun hidle => congrArg Host.Outcome.next (if_neg (by simp [hidle])), fun hnone => ?_, fun ok kept n => bootComplete_reads,
      fun hbooting => bootComplete_begins k ms levels hbooting⟩
    unfold b loadConfig
    rw [hnone]

end Sys2Proof.Machine.PowerProofs
end
